-- ==== Sys2Proof/Word.lean ====
section
/-! DEFINITION. The word types of the device and their plainest arithmetic (spec/00_scope.md R4-R6). -/

namespace Sys2Proof

/-- One byte of memory (00 R5). -/
abbrev Byte := BitVec 8
/-- One 32-bit lane value, and one parcel (00 R11, 12 R331). -/
abbrev Word := BitVec 32
/-- One scalar register, one program counter, one 64-bit management register (00 R11, 09 R243). -/
abbrev Word64 := BitVec 64
/-- One bit per lane of a group (09 R247). -/
abbrev LaneMask := BitVec 64
/-- One register row: 64 lanes of 32 bits, lane 0 lowest (09 R242, R250). -/
abbrev Row := BitVec 2048
/-- The 64 bytes of a line, byte 0 lowest (10 R292). -/
abbrev Line := BitVec 512
/-- An intermediate or a physical address (04 R98). -/
abbrev Addr := BitVec 52

end Sys2Proof
end

