-- ==== Sys2Proof/Machine/Bits.lean ====
section
/-! DEFINITION. Bit fields, rows of lanes, lines of bytes, lane masks and sorted maps: the data helpers every unit of
the machine uses (00 R5, R11; 09 R250; 10 R292). -/

namespace Sys2Proof.Machine

/-! ### Packing -/

/-- Elements f 0 … f (n−1) of w bits each, packed from the low end (13 R372). -/
def packNat (w : Nat) (f : Nat → Nat) : Nat → Nat
  | 0 => 0
  | n + 1 => packNat w f n + f n % 2 ^ w * 2 ^ (w * n)

/-- A truth value as a bit. -/
def bit (b : Bool) : Nat := if b then 1 else 0

/-- Bits [hi:lo] of a number. -/
def field (x hi lo : Nat) : Nat := x / 2 ^ lo % 2 ^ (hi + 1 - lo)

/-- Bits [hi:lo] of a number replaced. -/
def setField (x hi lo v : Nat) : Nat :=
  x - field x hi lo * 2 ^ lo + v % 2 ^ (hi + 1 - lo) * 2 ^ lo

/-- Lane l of a register row (09 R243). -/
def laneOf (r : Row) (l : Nat) : Word := r.extractLsb' (32 * l) 32

/-- The row whose lane l is f l. -/
def rowOf (f : Nat → Word) : Row := BitVec.ofNat 2048 (packNat 32 (fun l => (f l).toNat) 64)

/-- Lane l is in the mask. -/
def inMask (m : LaneMask) (l : Nat) : Bool := m.getLsbD l

/-- The mask of the lanes for which p holds. -/
def maskOf (p : Nat → Bool) : LaneMask := BitVec.ofNat 64 (packNat 1 (fun l => bit (p l)) 64)

/-- The lanes of a mask in increasing lane number (09 R247). -/
def laneList (m : LaneMask) : List Nat := (List.range 64).filter (inMask m)

/-- The number of lanes in a mask. -/
def laneCount (m : LaneMask) : Nat := (laneList m).length

/-- The lowest lane of a mask; 0 for the empty mask. -/
def firstLane (m : LaneMask) : Nat := (laneList m).headD 0

/-- The lanes of a mask at or above lane k. -/
def fromLane (m : LaneMask) (k : Nat) : LaneMask := maskOf (fun l => inMask m l && decide (k ≤ l))

/-- All lanes below a width. -/
def widthMask (w : Nat) : LaneMask := maskOf (fun l => decide (l < w))

/-- The lanes of the mask take their value from f, the others keep theirs (09 R247, R250). -/
def blendRow (m : LaneMask) (f : Nat → Word) (old : Row) : Row :=
  rowOf (fun l => if inMask m l then f l else laneOf old l)

/-- Byte i of a line. -/
def byteOf (x : Line) (i : Nat) : Byte := x.extractLsb' (8 * i) 8

/-- The line whose byte i is f i. -/
def lineOf (f : Nat → Byte) : Line := BitVec.ofNat 512 (packNat 8 (fun i => (f i).toNat) 64)

/-- The bytes of the mask come from new, the others from old. -/
def mergeLine (m : BitVec 64) (new old : Line) : Line :=
  lineOf (fun i => if m.getLsbD i then byteOf new i else byteOf old i)

/-- The byte mask of n bytes from offset o. -/
def byteMask (o n : Nat) : BitVec 64 := BitVec.ofNat 64 ((2 ^ n - 1) * 2 ^ o)

/-- n bytes of a line from offset o, little-endian (00 R5). -/
def lineField (x : Line) (o n : Nat) : Nat := x.toNat / 2 ^ (8 * o) % 2 ^ (8 * n)

/-- n bytes of v placed at offset o of a line of zeros. -/
def linePlace (v o n : Nat) : Line := BitVec.ofNat 512 (v % 2 ^ (8 * n) * 2 ^ (8 * o))

/-- The low 64 bits of a number. -/
def w64 (n : Nat) : Word64 := BitVec.ofNat 64 n
/-- The low 32 bits of a number. -/
def w32 (n : Nat) : Word := BitVec.ofNat 32 n
/-- The two's-complement value of the low w bits (14 R391). -/
def signedOf (w n : Nat) : Int :=
  let x := n % 2 ^ w
  if 2 * x ≥ 2 ^ w then (x : Int) - (2 : Int) ^ w else x
/-- An integer's low w bits. -/
def unsignedOf (w : Nat) (i : Int) : Nat := (i % (2 : Int) ^ w).toNat
/-- The place of the highest 1 bit below bit n, if any. -/
def msbBelow (x : Nat) : Nat → Option Nat
  | 0 => none
  | n + 1 => if x.testBit n then some n else msbBelow x n
/-- ⌈a / b⌉. -/
def ceilDiv (a b : Nat) : Nat := (a + b - 1) / b
/-- The number of 1 bits among the low n. -/
def popCount (x : Nat) : Nat → Nat
  | 0 => 0
  | n + 1 => popCount x n + bit (x.testBit n)

/-! ### Sorted maps -/

/-- The value under a key. -/
def mget {α : Type} : List (Nat × α) → Nat → Option α
  | [], _ => none
  | (k, v) :: r, a => if k = a then some v else mget r a

/-- The value under a key, or a default. -/
def mgetD {α : Type} (m : List (Nat × α)) (k : Nat) (d : α) : α := (mget m k).getD d

/-- Put a value under a key, keys kept strictly rising. -/
def mset {α : Type} : List (Nat × α) → Nat → α → List (Nat × α)
  | [], a, x => [(a, x)]
  | (k, v) :: r, a, x =>
    if a < k then (a, x) :: (k, v) :: r
    else if a = k then (a, x) :: r
    else (k, v) :: mset r a x

/-- Remove a key. -/
def mdel {α : Type} : List (Nat × α) → Nat → List (Nat × α)
  | [], _ => []
  | (k, v) :: r, a => if k = a then mdel r a else (k, v) :: mdel r a

/-- Put a value, where `none` removes the key. -/
def mput {α : Type} (m : List (Nat × α)) (k : Nat) : Option α → List (Nat × α)
  | none => mdel m k
  | some x => mset m k x

/-- Put a number, where 0 is what an unlisted key reads as. -/
def nset (m : List (Nat × Nat)) (k v : Nat) : List (Nat × Nat) := if v = 0 then mdel m k else mset m k v
/-- A number under a key; 0 when unlisted. -/
def nget (m : List (Nat × Nat)) (k : Nat) : Nat := mgetD m k 0

/-- Keys strictly rising. -/
def sortedKeys {α : Type} : List (Nat × α) → Bool
  | [] => true
  | [_] => true
  | (k, _) :: (j, y) :: r => decide (k < j) && sortedKeys ((j, y) :: r)

/-- Replace the value under a key by a function of it, if present. -/
def mupd {α : Type} (m : List (Nat × α)) (k : Nat) (f : α → α) : List (Nat × α) :=
  match mget m k with
  | none => m
  | some x => mset m k (f x)

/-! ### Lists -/

/-- Put x at place i of a list, if there is one. -/
def lset {α : Type} : List α → Nat → α → List α
  | [], _, _ => []
  | _ :: r, 0, x => x :: r
  | y :: r, n + 1, x => y :: lset r n x

/-- Put x at place i of a list read as endless copies of d. -/
def lput {α : Type} (d : α) : List α → Nat → α → List α
  | [], 0, x => [x]
  | [], n + 1, x => d :: lput d [] n x
  | _ :: r, 0, x => x :: r
  | y :: r, n + 1, x => y :: lput d r n x

/-- Split off the first entry that satisfies p: it and the rest. -/
def takeFirst {α : Type} (p : α → Bool) : List α → Option (α × List α)
  | [] => none
  | x :: r =>
    if p x then some (x, r)
    else match takeFirst p r with
      | none => none
      | some (y, r') => some (y, x :: r')

/-- Fold a function over the numbers 0 … n−1, in order. -/
def foldUpto {β : Type} (f : β → Nat → β) (b : β) : Nat → β
  | 0 => b
  | n + 1 => f (foldUpto f b n) n

/-- The entry with the least key by `lt`; the earlier one on a tie. -/
def bestBy {α : Type} (lt : α → α → Bool) : List α → Option α
  | [] => none
  | x :: r =>
    match bestBy lt r with
    | none => some x
    | some y => if lt y x then some y else some x

/-- Insert into a list ordered by `le`. -/
def insertBy {α : Type} (le : α → α → Bool) (x : α) : List α → List α
  | [] => [x]
  | y :: r => if le x y then x :: y :: r else y :: insertBy le x r

/-- Sort by insertion, equal entries in their order. -/
def sortBy {α : Type} (le : α → α → Bool) : List α → List α
  | [] => []
  | x :: r => insertBy le x (sortBy le r)

end Sys2Proof.Machine
end

