-- ==== Sys2Proof/Syntax.lean ====
section
/-! DEFINITION. The part's steps: one constructor of `Instr` per row of spec/opcode_table.json, and the
operand types they carry. Instructions carry the fields of their encodings (spec/12_instruction_formats.md);
events carry what arrives from outside the part, or name the pending work they perform. -/

namespace Sys2Proof

/-! ### Operand codes -/

/-- A register named by a field with no marker: dst and src3 (12 R334). -/
inductive Reg where
  /-- vector register v0-v383 -/
  | v (n : Fin 384)
  /-- scalar register s0-s127 -/
  | s (n : Fin 128)
  deriving DecidableEq, Repr, Inhabited

/-- A source named by src1 or src2 with its marker (12 R334, R337). -/
inductive Src where
  /-- vector register and its last-read flag -/
  | v (n : Fin 384) (last : Bool)
  /-- scalar register -/
  | s (n : Fin 128)
  /-- queue register q0-q7, popped by the read -/
  | q (n : Fin 8)
  /-- 9-bit signed immediate (src2 only) -/
  | imm (i : BitVec 9)
  deriving DecidableEq, Repr, Inhabited

/-- A source field that holds a predicate number, with its marker (14 R393). -/
structure PField where
  code : BitVec 9
  mark : Bool
  deriving DecidableEq, Repr, Inhabited

/-- The run bit and the guard of a long instruction (12 R336). -/
structure Ctl where
  /-- E: this instruction ends its run -/
  e : Bool
  /-- guard predicate p0-p15 -/
  pred : BitVec 4
  /-- 1 inverts the guard -/
  neg : Bool
  deriving DecidableEq, Repr, Inhabited

/-- Integer types (12 R338). -/
inductive IType where
  | s8 | s16 | s32 | s64 | z8 | z16 | z32 | z64
  deriving DecidableEq, Repr, Inhabited

/-- Floating-point arithmetic types (13 R373). -/
inductive FType where
  | f32 | f16 | bf16 | f16x2 | bf16x2
  deriving DecidableEq, Repr, Inhabited

/-- Element formats (13 R374). -/
inductive EFmt where
  | e4m3 | e5m2 | mx8e4 | mx8e5 | vf4 | h4 | bf16 | f16
  deriving DecidableEq, Repr, Inhabited

/-- Coherence policies, coded as POL (04 R109). -/
inductive Policy where
  | own | wt | sinv | winv
  deriving DecidableEq, Repr, Inhabited

/-- Scopes, coded 001 to 101 as ATSC (04 R101). -/
inductive Scope where
  | grp | blk | twr | pkg | sys
  deriving DecidableEq, Repr, Inhabited

/-- Retention hints (10 R293). -/
inductive Hint where
  | normal | evictFirst | evictLast | noAllocate
  deriving DecidableEq, Repr, Inhabited

/-- Typed buffers (10 R268). -/
inductive Buf where
  | wbuf | abuf | cbuf | gbuf
  deriving DecidableEq, Repr, Inhabited

/-- The class field of form M (12 R337): ordering, scope (none is the default), hint, policy (none: POL of the leaf). -/
structure MForm where
  ord : BitVec 2
  scope : Option Scope
  hint : Hint
  policy : Option Policy
  deriving DecidableEq, Repr, Inhabited

/-! ### Operand shapes -/

/-- One-source integer operands. -/
structure IOp1 where
  ty : IType
  d : Reg
  a : Src
  deriving DecidableEq, Repr, Inhabited

/-- Two-source integer operands. -/
structure IOp2 where
  ty : IType
  d : Reg
  a : Src
  b : Src
  deriving DecidableEq, Repr, Inhabited

/-- Three-source integer operands; c is src3. -/
structure IOp3 where
  ty : IType
  d : Reg
  a : Src
  b : Src
  c : Reg
  deriving DecidableEq, Repr, Inhabited

/-- Floating-point operand modifiers of modifier a (15 R421). -/
structure FMods where
  /-- bit [29]: negate src1 -/
  negA : Bool
  /-- bit [30]: negate src2 (src3 in ffma) -/
  negB : Bool
  /-- bit [31]: absolute value of src1 -/
  absA : Bool
  deriving DecidableEq, Repr, Inhabited

/-- One-source floating-point operands. -/
structure FOp1 where
  ty : FType
  negA : Bool
  absA : Bool
  d : Reg
  a : Src
  deriving DecidableEq, Repr, Inhabited

/-- Two-source floating-point operands. -/
structure FOp2 where
  ty : FType
  mods : FMods
  d : Reg
  a : Src
  b : Src
  deriving DecidableEq, Repr, Inhabited

/-- Short integer instruction (12 R339). -/
structure SI where
  ty : IType
  pred : BitVec 4
  last : Bool
  s : BitVec 7
  d : BitVec 7
  e : Bool
  deriving DecidableEq, Repr, Inhabited

/-- Short shift: s is a 7-bit count (12 R340, kind Si). -/
structure SShift where
  ty : IType
  pred : BitVec 4
  cnt : BitVec 7
  d : BitVec 7
  e : Bool
  deriving DecidableEq, Repr, Inhabited

/-- Short floating-point instruction. -/
structure SF where
  ty : FType
  pred : BitVec 4
  last : Bool
  s : BitVec 7
  d : BitVec 7
  e : Bool
  deriving DecidableEq, Repr, Inhabited

/-- Short `cvt.to` (15 R428). -/
structure SC where
  fmt : EFmt
  pred : BitVec 4
  last : Bool
  s : BitVec 7
  d : BitVec 7
  e : Bool
  deriving DecidableEq, Repr, Inhabited

/-- The fields of a prefix parcel (12 R343), reserved bits [31:21] included. -/
structure Pfx where
  rsv : BitVec 11
  dhi : BitVec 2
  shi : BitVec 2
  leaf : Bool
  flush : Bool
  hint : BitVec 2
  scope : BitVec 3
  policy : BitVec 2
  sat : BitVec 2
  round : BitVec 3
  e : Bool
  deriving DecidableEq, Repr, Inhabited

/-- Integer comparison conditions (14 R401). -/
inductive ICond where
  | eq | ne | lt | le | gt | ge
  deriving DecidableEq, Repr, Inhabited

/-- Floating-point comparison conditions (15 R425). -/
inductive FCond where
  | eq | ne | lt | le | gt | ge | un | ord
  deriving DecidableEq, Repr, Inhabited

/-- `brc` conditions (14 R410): predicate variants name no register. -/
inductive BrCond where
  | all | any | none | snz (s : Fin 128) | sz (s : Fin 128)
  deriving DecidableEq, Repr, Inhabited

/-- `movi` long variants (14 R403). -/
inductive MoviVar where
  | k30 | b30 | b60
  deriving DecidableEq, Repr, Inhabited

/-- `pmov` variants (14 R406). -/
inductive PmovOp where
  | pp (pd : BitVec 9) (pa : PField)
  | sp (pd : BitVec 9) (sa : Fin 128)
  | ps (sd : Fin 128) (pa : PField)
  deriving DecidableEq, Repr, Inhabited

/-- `cvt` variants with their types (15 R428). -/
inductive CvtVar where
  | to (f : EFmt) | from (f : EFmt) | toi (t : IType) | fromi (t : IType) | rint
  deriving DecidableEq, Repr, Inhabited

/-- `shfl` variants (15 R435). -/
inductive ShflVar where
  | lane | off | flip | rot
  deriving DecidableEq, Repr, Inhabited

/-- src2 of a lane operation: a register with the valid predicate of src3, or an immediate (15 R434). -/
inductive LaneB where
  | reg (b : Src) (pd : BitVec 9)
  | imm (i : BitVec 9)
  deriving DecidableEq, Repr, Inhabited

/-- src2 of `bcast` and `carry`: a scalar with the valid predicate of src3, or an immediate (15 R434). -/
inductive LaneS where
  | s (n : Fin 128) (pd : BitVec 9)
  | imm (i : BitVec 9)
  deriving DecidableEq, Repr, Inhabited

/-- `vote` variants (15 R436). -/
inductive VoteVar where
  | every | some | same
  deriving DecidableEq, Repr, Inhabited

/-- `permb` variants (15 R437). -/
inductive PermVar where
  | lo | hi | idx
  deriving DecidableEq, Repr, Inhabited

/-- `scan` and `fold` operations (15 R438). -/
inductive RedOp where
  | add | or | max | min | and | xor
  deriving DecidableEq, Repr, Inhabited

/-- `scan` and `fold` elements (15 R438). -/
inductive RedTy where
  | f32 | s32 | z32
  deriving DecidableEq, Repr, Inhabited

/-- Access sizes of `ld` (16 R447). -/
inductive LdSize where
  | z8 | z16 | b32 | b64 | s8 | s16 | b128
  deriving DecidableEq, Repr, Inhabited

/-- Access sizes of `st` (16 R447). -/
inductive StSize where
  | b8 | b16 | b32 | b64 | b128
  deriving DecidableEq, Repr, Inhabited

/-- Modes of `lbuf` and `sbuf` (16 R461). -/
inductive BufMode where
  | w | idx | b | h | d | t8 | t16 | t32
  deriving DecidableEq, Repr, Inhabited

/-- `atom` operations with their types (16 R456). -/
inductive AtomOp where
  | add (t : IType) | min (t : IType) | max (t : IType) | and (t : IType) | or (t : IType)
  | xor (t : IType) | swap (t : IType) | faddF32 | faddBf16x2
  deriving DecidableEq, Repr, Inhabited

/-- Which lines a cache-control instruction names (16 R445): all, or each lane's address. -/
inductive CacheTarget where
  | all
  | line (base : Src) (off : BitVec 9)
  deriving DecidableEq, Repr, Inhabited

/-- Variants of `flush` (16 R469). -/
inductive FlushVar where
  | all
  | line (base : Src) (off : BitVec 9)
  | wbi (base : Src) (off : BitVec 9)
  deriving DecidableEq, Repr, Inhabited

/-- `mmov` direction with its first vector register (17 R472). -/
inductive MmovDir where
  | ld (d : Fin 384)
  | st (s : Fin 384) (last : Bool)
  deriving DecidableEq, Repr, Inhabited

/-- Column counts of `mmov` (17 R484). -/
inductive MmovCount where
  | c1 | c2 | c4 | c8
  deriving DecidableEq, Repr, Inhabited

/-- `nmo` commands with their operands (17 R490). -/
inductive NmoOp where
  | addF32 (x : Src) | addBf16x2 (x : Src) | addS32 (x : Src) | maxF32 (x : Src) | maxS32 (x : Src)
  | cas32 (d : Fin 384) (c : Src) (w : Reg)
  | cas64 (d : Fin 384) (c : Src) (w : Reg)
  | saccF32 (x : Src) (a : Fin 128)
  | saccBf16 (x : Src) (a : Fin 128)
  deriving DecidableEq, Repr, Inhabited

/-- Member index of `barx` (18 R497). -/
inductive Member where
  | s (n : Fin 128)
  | imm (i : BitVec 9)
  deriving DecidableEq, Repr, Inhabited

/-! ### What events carry -/

/-- Sensor classes (01 R19). -/
inductive SensorClass where
  | core | base | bank
  deriving DecidableEq, Repr, Inhabited

/-- One raw reading of a sensor, in units of 0.25 degrees (01 R19). -/
structure Reading where
  cls : SensorClass
  idx : Nat
  raw : Int
  deriving DecidableEq, Repr, Inhabited

/-- What a scrub read finds (01 R30). -/
inductive ScrubResult where
  | clean | corrected | uncorrectable
  deriving DecidableEq, Repr, Inhabited

/-- What a request from, or to, a peer package asks of its home (02 R41, 04 R106). -/
inductive PeerOp where
  | load (size : Nat)
  | store (size : Nat) (data : BitVec 512)
  | atomic (op : AtomOp) (x : Word64)
  | cas (t : IType) (c w : Word64)
  deriving DecidableEq, Repr, Inhabited

/-- What a response from, or to, a peer carries. -/
inductive PeerReply where
  | data (v : BitVec 512)
  | done
  | fault (cause sub : BitVec 8)
  | machineCheck
  deriving DecidableEq, Repr, Inhabited

/-- The content of a flit's payload by class (02 R41; the spec gives no byte layout of it). -/
inductive FlitBody where
  | request (ia : Addr) (op : PeerOp)
  | response (r : PeerReply)
  | barrier (ia : Addr) (member : Nat) (stamp : Word64)
  | remoteCompletion (launch : Word) (block : Nat)
  | remoteCompletionAck (launch : Word) (block : Nat)
  | stealReturn (launch : Word) (block : Nat)
  | linkControl
  /-- link control: the sender's directories have swept the entries of an agent that rejoins (02 R49) -/
  | sweepDone (agent : Nat)
  deriving DecidableEq, Repr, Inhabited

/-- One Glatravo flit (02 R41). -/
structure Flit where
  seq : BitVec 16
  cls : Byte
  src : Byte
  dst : Byte
  stream : BitVec 16
  tag : BitVec 16
  body : FlitBody
  /-- the CRC over bytes 0-247 holds -/
  crcOk : Bool
  deriving DecidableEq, Repr, Inhabited

/-- A host CXL.mem access to device HBM4E (02 R37). -/
inductive HdmOp where
  /-- the host reads the line, taking a copy that may become stale -/
  | read
  /-- the host writes the bytes of the mask -/
  | write (mask : BitVec 64) (data : Line)
  deriving DecidableEq, Repr, Inhabited

/-- What SET_KEY carries: the slot and the two keys of SM4-XTS (03 R91). -/
structure KeyLoad where
  slot : BitVec 7
  key1 : BitVec 128
  key2 : BitVec 128
  deriving DecidableEq, Repr, Inhabited

/-- What the firmware check finds (03 R89). -/
inductive FwResult where
  | running (svn : BitVec 16)
  | mismatch | svnBelow | malformed
  deriving DecidableEq, Repr, Inhabited

/-- A count change at a completion-tree node (06 R177). -/
inductive TreeNode where
  | column (c : Nat) | cluster (t k : Nat) | tower (t : Nat) | package
  deriving DecidableEq, Repr, Inhabited

/-! ### The steps -/

/-- The part's steps, one constructor per row of the opcode table. -/
inductive Instr where
  -- reset (03 R57)
  | coldReset (hmode : Bool)
  | devrst (v : Word)
  -- sensors, refresh, budgets (01, 05)
  | sensorSample (rs : List Reading)
  | evacuationLimit (tower layer : Nat)
  | drainWindowEnd (stack : Nat)
  | refreshCommand (stack bank : Nat)
  | reflossWindow (stack : Nat)
  | scrubLine (pa : Addr) (r : ScrubResult)
  | colbgtWrite (col : Nat) (v : Word)
  | ttripWrite (cls : SensorClass) (idx : Nat) (v : Word)
  -- links (02)
  | flitReceive (link : Nat) (f : Flit)
  | replayRequest (link : Nat) (seq : BitVec 16)
  | linkRetrain (link : Nat)
  | peerUnreachableTimeout (pkg : Byte)
  | snpInv (ia : Addr) (newData : Option Line)
  | snpData (ia : Addr)
  | snpCur (ia : Addr)
  | biRsp (ia : Addr)
  | hostHdmAccess (ia : Addr) (op : HdmOp)
  | extentGrant (ext : Nat) (base len : Word64)
  | extentRelease (ext : Nat)
  | extentReleaseAck (ext : Nat)
  | extentReleaseForced (ext : Nat)
  | agentLost (a : Nat)
  | joinRequest (a : Nat) (invalidated : Bool)
  | joinComplete (a : Nat)
  | dataRateChangeRequest (stack : Nat)
  | retrainTrigger (stack : Nat)
  | interfaceRetrainStart (stack : Nat)
  | retrainDone (stack : Nat)
  | ptpMessage (offset : Int)
  -- command queues (03)
  | cqtailWrite (q : Nat) (v : Word)
  | cqcfgWrite (q : Nat) (v : Word)
  | cqpoke (q : Nat) (v : Word)
  | commandAccept (q : Nat)
  | launchCommand (q : Nat)
  | bulkCopy (q : Nat)
  | signal (q : Nat)
  | wait (q : Nat)
  | waitPollReturn (q : Nat) (seq : Word)
  | waitTimeout (q : Nat) (seq : Word)
  | successorReleaseRetry (q : Nat)
  | commandRetire (q : Nat)
  | ttSlotFire (slot : Nat)
  | fwgo (v : Word)
  | firmwareCheckDone (r : FwResult)
  | setKey (load : KeyLoad)
  | setKeyComplete (slot : BitVec 7)
  | ctrclr (v : Word)
  | registerWrite (addr : BitVec 32) (size : Nat) (v : Word64)
  -- walks and faults (04)
  | parkTableEntryFree (tower : Nat)
  | faultRecordPost (tower : Nat)
  | fqcfgWrite (tower : Nat) (v : Word)
  | frelReplay (tower : Nat) (park : BitVec 10)
  | frelFail (tower : Nat) (park : BitVec 10)
  -- stacks (05)
  | drcmdMarkDead (stack : Nat) (region : BitVec 20)
  | drcmdMarkLive (stack : Nat) (region : BitVec 20)
  | drcmdDone (stack : Nat)
  | bankCommandExecute (stack bank : Nat)
  -- distribution (06)
  | batchDeal (slot : Nat)
  | batchHandoff (tower : Nat)
  | blockPlace (tower cluster : Nat)
  | entryBlocking (tower cluster : Nat) (entry : Nat)
  | gangMemberReserve (tower cluster : Nat)
  | diffusionExchange (tower cluster : Nat)
  | slotFree (slot : Nat)
  | saveStart (block : Nat)
  | saveComplete (block : Nat)
  | saveDeadline (block : Nat)
  | restoreComplete (block : Nat)
  | regspillSave (core : Nat)
  -- Sheepdog (07)
  | activityWindowEnd (core : Nat)
  | allotmentPeriodEnd (col : Nat)
  | adviseMove (core : Nat)
  | migrationStop (col : Nat)
  | migrationDrain (col : Nat)
  | migrationXfer (col : Nat)
  | migrationResume (col : Nat)
  -- tasks, barriers, steals (08)
  | goatReclaim (col : Nat)
  | tileClaim (tower cluster : Nat)
  | tileClaimResult (tower cluster : Nat)
  | stealAttempt (tower cluster : Nat)
  | stealCasResult (tower cluster : Nat)
  | stolenBlockDone (block : Nat)
  | remoteCompletion (launch : Word) (block : Nat)
  | remoteCompletionAck (launch : Word) (block : Nat)
  | stealReturn (launch : Word) (block : Nat)
  -- issue (06, 09)
  | issueGrant (core : Nat)
  | runResume (core slot : Nat)
  | supervisorStart (core : Nat)
  | pushAccept (core slot : Nat)
  | pipeDelivery (block pipe : Nat)
  -- coherence (11)
  -- BTE (10)
  | kickFetch (core : Nat)
  | bteTransactionIssue (core : Nat)
  | chunkLanding (core req chunk : Nat)
  | scatterBumpReturn (core req : Nat)
  | yieldTimeout (core slot : Nat)
  | sleepExpire (core slot : Nat)
  -- prefix
  | pfx (p : Pfx)
  -- control (14)
  | nop (c : Ctl)
  | nopShort (ty : BitVec 3) (pred : BitVec 4) (e : Bool)
  | bra (c : Ctl) (k : BitVec 30)
  | brc (c : Ctl) (cond : BrCond) (k : BitVec 12)
  | jmp (c : Ctl) (t : Src)
  | call (c : Ctl) (d : Reg) (k : BitVec 30)
  | ret (c : Ctl) (t : Src)
  | meet (c : Ctl) (clr : Bool) (k : BitVec 30)
  | exit (c : Ctl)
  | yield (c : Ctl)
  | sleep (c : Ctl) (k : BitVec 12)
  -- integer (14)
  | iadd (c : Ctl) (sat : Bool) (o : IOp2)
  | iaddShort (o : SI)
  | isub (c : Ctl) (sat : Bool) (o : IOp2)
  | isubShort (o : SI)
  | imul (c : Ctl) (o : IOp2)
  | imulShort (o : SI)
  | imad (c : Ctl) (sat : Bool) (o : IOp3)
  | imulh (c : Ctl) (o : IOp2)
  | imulhShort (o : SI)
  | imin (c : Ctl) (o : IOp2)
  | iminShort (o : SI)
  | imax (c : Ctl) (o : IOp2)
  | imaxShort (o : SI)
  | iabs (c : Ctl) (sat : Bool) (o : IOp1)
  | iabsShort (o : SI)
  | and (c : Ctl) (o : IOp2)
  | andShort (o : SI)
  | or (c : Ctl) (o : IOp2)
  | orShort (o : SI)
  | xor (c : Ctl) (o : IOp2)
  | xorShort (o : SI)
  | andn (c : Ctl) (o : IOp2)
  | andnShort (o : SI)
  | shl (c : Ctl) (o : IOp2)
  | shlShort (o : SShift)
  | shr (c : Ctl) (o : IOp2)
  | shrShort (o : SShift)
  | sar (c : Ctl) (o : IOp2)
  | sarShort (o : SShift)
  | rotl (c : Ctl) (o : IOp2)
  | rotlShort (o : SShift)
  | popc (c : Ctl) (o : IOp1)
  | popcShort (o : SI)
  | clz (c : Ctl) (o : IOp1)
  | clzShort (o : SI)
  | brev (c : Ctl) (o : IOp1)
  | brevShort (o : SI)
  | bfx (c : Ctl) (o : IOp2)
  | bfi (c : Ctl) (o : IOp3)
  | icmp (c : Ctl) (cond : ICond) (ty : IType) (pd : Fin 384) (a b : Src)
  | sel (c : Ctl) (ty : IType) (d : Fin 384) (a b : Src) (pc : BitVec 9)
  | mov (c : Ctl) (o : IOp1)
  | movShort (o : SI)
  | movi (c : Ctl) (var : MoviVar) (d : Reg) (k : BitVec 30)
  | moviShort (pred : BitVec 4) (k : BitVec 7) (d : BitVec 7) (e : Bool)
  | lea (c : Ctl) (scale : BitVec 3) (o : IOp2)
  -- predicates (14)
  | pand (c : Ctl) (pd : BitVec 9) (pa pb : PField)
  | por (c : Ctl) (pd : BitVec 9) (pa pb : PField)
  | pxor (c : Ctl) (pd : BitVec 9) (pa pb : PField)
  | pnot (c : Ctl) (pd : BitVec 9) (pa : PField)
  | pmov (c : Ctl) (o : PmovOp)
  -- floating point (15)
  | fadd (c : Ctl) (o : FOp2)
  | faddShort (o : SF)
  | fsub (c : Ctl) (o : FOp2)
  | fsubShort (o : SF)
  | fmul (c : Ctl) (o : FOp2)
  | fmulShort (o : SF)
  | ffma (c : Ctl) (o : FOp2) (c3 : Reg)
  | fmin (c : Ctl) (o : FOp2)
  | fminShort (o : SF)
  | fmax (c : Ctl) (o : FOp2)
  | fmaxShort (o : SF)
  | fcmp (c : Ctl) (cond : FCond) (ty : FType) (pd : Fin 384) (a b : Src)
  | frcp (c : Ctl) (o : FOp1)
  | frcpShort (o : SF)
  | frsq (c : Ctl) (o : FOp1)
  | frsqShort (o : SF)
  | fsqrt (c : Ctl) (o : FOp1)
  | fsqrtShort (o : SF)
  | fexp2 (c : Ctl) (o : FOp1)
  | fexp2Short (o : SF)
  | flog2 (c : Ctl) (o : FOp1)
  | flog2Short (o : SF)
  | fsin (c : Ctl) (o : FOp1)
  | fsinShort (o : SF)
  | fcos (c : Ctl) (o : FOp1)
  | fcosShort (o : SF)
  | ftanh (c : Ctl) (o : FOp1)
  | ftanhShort (o : SF)
  -- conversion (15)
  | cvt (c : Ctl) (var : CvtVar) (d : Reg) (a : Src)
  | cvtShort (o : SC)
  | pack (c : Ctl) (p : BitVec 3) (fmt : EFmt) (d : Fin 384) (a b : Src)
  | unpack (c : Ctl) (e : BitVec 3) (fmt : EFmt) (d : Fin 384) (a : Src)
  | qnt (c : Ctl) (h4 : Bool) (d : Fin 384) (a : Src) (b : Fin 128)
  -- lane operations (15)
  | shfl (c : Ctl) (var : ShflVar) (d : Fin 384) (a : Src) (b : LaneB)
  | bcast (c : Ctl) (d : Reg) (a : Src) (b : LaneS)
  | vote (c : Ctl) (var : VoteVar) (pd : Fin 384) (pa : PField)
  | ballot (c : Ctl) (wide : Bool) (d : Fin 128) (pa : PField)
  | permb (c : Ctl) (var : PermVar) (d : Fin 384) (a : Src) (t : Fin 128)
  | scan (c : Ctl) (op : RedOp) (ty : RedTy) (d : Fin 384) (a : Src)
  | fold (c : Ctl) (op : RedOp) (ty : RedTy) (d : Reg) (a : Src)
  | carry (c : Ctl) (n : Fin 3) (d : Fin 384) (a : Src) (b : LaneS)
  | lid (c : Ctl) (w : Bool) (d : Reg)
  -- memory (16)
  | ld (c : Ctl) (size : LdSize) (m : MForm) (d : Reg) (base : Src) (off : BitVec 9)
  | st (c : Ctl) (size : StSize) (m : MForm) (d : Reg) (base : Src) (off : BitVec 9)
  | ldq (c : Ctl) (q : Fin 8) (m : MForm) (base : Src) (off : BitVec 9)
  | lbuf (c : Ctl) (mode : BufMode) (buf : Buf) (d : Fin 384) (base : Src) (k : BitVec 10)
  | sbuf (c : Ctl) (mode : BufMode) (buf : Buf) (base : Src) (x : Src) (k : BitVec 10)
  | atom (c : Ctl) (op : AtomOp) (ord : BitVec 2) (d : Option Reg) (addr x : Src)
  | cas (c : Ctl) (ty : IType) (ord : BitVec 2) (d : Reg) (addr cmp : Src) (w : Reg)
  | fence (c : Ctl) (sc : Bool) (ord : BitVec 2) (scope : Option Scope)
  | own (c : Ctl) (buf : Buf) (f : Fin 128) (cnt : BitVec 10)
  | owt (c : Ctl) (buf : Buf) (d f : Fin 128) (cnt : BitVec 10)
  | prf (c : Ctl) (l2 : Bool) (m : MForm) (base : Src) (off : BitVec 9)
  | inv (c : Ctl) (ord : BitVec 2) (scope : Option Scope) (t : CacheTarget)
  | flush (c : Ctl) (ord : BitVec 2) (scope : Option Scope) (t : FlushVar)
  -- engines (17)
  | mma (c : Ctl) (z : Bool) (fmt : EFmt) (acc : Fin 128) (a b : Fin 64)
  | mmaComplete (core : Nat)
  | mmov (c : Ctl) (dir : MmovDir) (cnt : MmovCount) (base : Fin 128) (j0 : BitVec 6)
  | xkick (c : Ctl) (base : Fin 128) (k : BitVec 12)
  | xstage (c : Ctl)
  | xwait (c : Ctl) (buf : Buf) (f : Fin 128) (cnt : BitVec 10) (m : Option (Fin 128))
  | xtest (c : Ctl) (d : Fin 128) (buf : Buf) (f : Fin 128) (cnt : BitVec 10) (m : Option (Fin 128))
  | nmo (c : Ctl) (op : NmoOp) (base : Fin 128)
  -- tasks (18)
  | spawn (c : Ctl) (d a x y : Fin 128)
  | fget (c : Ctl) (d h : Fin 128)
  | fpoll (c : Ctl) (d h : Fin 128)
  | fret (c : Ctl) (h : Fin 128)
  | frel (c : Ctl) (h : Fin 128)
  | fset (c : Ctl) (x : Fin 128)
  | commit (c : Ctl)
  | rclm (c : Ctl)
  | bar (c : Ctl) (count : BitVec 5) (id : BitVec 3)
  | barx (c : Ctl) (a : Fin 128) (m : Member)
  | push (c : Ctl) (x : Src) (mask : BitVec 8) (pipe : BitVec 4)
  | qlen (c : Ctl) (d : Fin 128) (q : Fin 8)
  -- traps and system (18)
  | trap (c : Ctl) (code : BitVec 12)
  | eret (c : Ctl)
  | csrr (c : Ctl) (d : Fin 128) (n : BitVec 12)
  | csrw (c : Ctl) (x : Fin 128) (n : BitVec 12)
  | wsync (c : Ctl)
  | rinv (c : Ctl) (x : Fin 128)
  | halt (c : Ctl) (x : Fin 128)
  -- supply and link
  | hostLinkTrained (rate : Byte) (width : BitVec 4)
  -- steps that carry nothing: each acts on the oldest pending work of its kind, or on the whole part
  | deviceReset
  | ppsEdge
  | ptpMasterTimeout
  | ppsTimeout
  | bulkCopyLineDone
  | getVersion
  | getCapabilities
  | negotiateAlgorithms
  | getDigests
  | getCertificate
  | challenge
  | getMeasurements
  | keyExchange
  | finish
  | endSession
  | walkHandoff
  | walkComplete
  | bankCommandHome
  | diffusionArrival
  | completionTreeUpdate
  | itemMoveAck
  | barrierArrival
  | ldqLand
  | loadReturn
  | homeRequest
  | drainAck
  | pushApply
  | towerRequest
  | standbySupplyLoss
  deriving DecidableEq, Repr

end Sys2Proof
end

