-- ==== Sys2Proof/Machine/Fp.lean ====
section
/-! DEFINITION. Number formats, rounding, saturation, flushing and exact arithmetic (spec/13_number_formats.md
R367-R387), and the functions of spec/15 R426 to the precision that decides every rounding. -/

namespace Sys2Proof.Machine

/-! ### Values -/

/-- An extended real: ±m·2^e, exactly when `st` is false; with `st` the magnitude lies strictly between m·2^e and
(m + 1)·2^e. -/
inductive Num where
  | nan
  | inf (neg : Bool)
  | fin (neg : Bool) (m : Nat) (e : Int) (st : Bool)
  deriving DecidableEq, Repr, Inhabited

/-- A binary format (13 R367, R369): fraction bits, exponent bits, bias, code of the largest finite magnitude, code of
infinity where it has one, canonical NaN where it has one, place of the sign. -/
structure Fmt where
  mb : Nat
  eb : Nat
  bias : Nat
  maxCode : Nat
  infCode : Option Nat
  nanCode : Option Nat
  signBit : Nat
  deriving DecidableEq, Repr, Inhabited

def fmt32 : Fmt := ⟨23, 8, 127, 0x7F7FFFFF, some 0x7F800000, some 0x7FC00000, 31⟩
def fmt16 : Fmt := ⟨10, 5, 15, 0x7BFF, some 0x7C00, some 0x7E00, 15⟩
def fmtB16 : Fmt := ⟨7, 8, 127, 0x7F7F, some 0x7F80, some 0x7FC0, 15⟩
def fmtE4M3 : Fmt := ⟨3, 4, 7, 0x7E, none, some 0x7F, 7⟩
def fmtE5M2 : Fmt := ⟨2, 5, 15, 0x7B, some 0x7C, some 0x7E, 7⟩
def fmtE2M1 : Fmt := ⟨1, 2, 1, 0x7, none, none, 3⟩
def fmtE3M5 : Fmt := ⟨5, 3, 3, 0xFF, none, none, 8⟩

/-- The smallest normal exponent. -/
def Fmt.emin (F : Fmt) : Int := 1 - (F.bias : Int)

/-- The value of a magnitude code (13 R367). -/
def decMag (F : Fmt) (neg : Bool) (c : Nat) : Num :=
  let x := c / 2 ^ F.mb
  let f := c % 2 ^ F.mb
  if x = 0 then .fin neg f (F.emin - F.mb) false
  else .fin neg (2 ^ F.mb + f) ((x : Int) - F.bias - F.mb) false

/-- dec(c, F) (13 R387): the value of a code. -/
def decFmt (F : Fmt) (c : Nat) : Num :=
  let neg := c.testBit F.signBit
  let a := c % 2 ^ F.signBit
  if a ≤ F.maxCode then decMag F neg a
  else if F.infCode = some a then .inf neg else .nan

/-- dec of an H4 code: n + 0.5 (13 R368). -/
def decH4 (c : Nat) : Num :=
  let v := 2 * signedOf 4 c + 1
  .fin (v < 0) v.natAbs (-1) false

/-- The number of bits of x. -/
def bitLen (x : Nat) : Nat := if x = 0 then 0 else Nat.log2 x + 1

/-- The code of the magnitude k·2^q, which F represents (13 R367). -/
def encMag (F : Fmt) (k : Nat) (q : Int) : Nat :=
  if k = 0 then 0
  else
    let n := bitLen k
    let ex := q + (n : Int) - 1
    if ex < F.emin then
      let d := q - (F.emin - F.mb)
      if 0 ≤ d then k * 2 ^ d.toNat else k / 2 ^ (-d).toNat
    else
      let frac := if n ≤ F.mb + 1 then k * 2 ^ (F.mb + 1 - n) else k / 2 ^ (n - F.mb - 1)
      ((ex - F.emin).toNat + 1) * 2 ^ F.mb + (frac - 2 ^ F.mb)

/-- The encoding of a rounded and saturated value (13 R379): a format with no infinity encodes it as its NaN, or as
its largest finite value where it has no NaN; there NaN is +0. -/
def encFmt (F : Fmt) (x : Num) : Nat :=
  match x with
  | .nan => F.nanCode.getD 0
  | .inf neg =>
    match F.infCode, F.nanCode with
    | some c, _ => bit neg * 2 ^ F.signBit + c
    | none, some c => c
    | none, none => bit neg * 2 ^ F.signBit + F.maxCode
  | .fin neg m e _ => bit neg * 2 ^ F.signBit + encMag F m e

/-- The encoding of a rounded H4 value (13 R379). -/
def encH4 (x : Num) : Nat :=
  match x with
  | .nan => 0
  | .inf neg => if neg then 0x8 else 0x7
  | .fin neg m e _ =>
    let t : Nat := if 0 ≤ e then m * 2 ^ (e.toNat + 1) else m * 2 / 2 ^ (-e).toNat
    let n : Int := (if neg then -(t : Int) - 1 else (t : Int) - 1) / 2
    unsignedOf 4 n

/-- The value of the largest finite code. -/
def maxNum (F : Fmt) (neg : Bool) : Num := decMag F neg F.maxCode

/-! ### Flags: NV 16, DZ 8, OF 4, UF 2, NX 1 (13 R384) -/

def flNV : Nat := 16
def flDZ : Nat := 8
def flOF : Nat := 4
def flUF : Nat := 2
def flNX : Nat := 1

/-! ### Comparison -/

/-- Align two dyadics: their integer magnitudes over a common exponent. -/
def align (m1 : Nat) (e1 : Int) (m2 : Nat) (e2 : Int) : Nat × Nat × Int :=
  let e := min e1 e2
  (m1 * 2 ^ (e1 - e).toNat, m2 * 2 ^ (e2 - e).toNat, e)

/-- Signed integer value of a dyadic over its exponent. -/
def sInt (neg : Bool) (m : Nat) : Int := if neg then -(m : Int) else m

/-- x < y for exact values that are no NaN; −0 and +0 are equal. -/
def numLt (x y : Num) : Bool :=
  match x, y with
  | .nan, _ | _, .nan => false
  | .inf a, .inf b => a && !b
  | .inf a, _ => a
  | _, .inf b => !b
  | .fin s1 m1 e1 _, .fin s2 m2 e2 _ =>
    let (a, b, _) := align m1 e1 m2 e2
    decide (sInt s1 a < sInt s2 b)

def isNan : Num → Bool
  | .nan => true
  | _ => false

def isZero : Num → Bool
  | .fin _ 0 _ false => true
  | _ => false

def signOf : Num → Bool
  | .nan => false
  | .inf s => s
  | .fin s _ _ _ => s

def numEq (x y : Num) : Bool := !isNan x && !isNan y && !numLt x y && !numLt y x

/-- fmax(a, b) of R387, taking −0 < +0; NaN only when both are. -/
def numMax (a b : Num) : Num :=
  if isNan a then b else if isNan b then a
  else if numLt a b || (numEq a b && signOf a) then b else a

def numMin (a b : Num) : Num :=
  if isNan a then b else if isNan b then a
  else if numLt b a || (numEq a b && signOf b) then b else a

/-! ### Exact operations -/

/-- Exact sum; the sign of an exact zero follows R377: `rm` is the mode's "rounds down" flag. -/
def numAdd (rm : Bool) (x y : Num) : Num × Nat :=
  match x, y with
  | .nan, _ | _, .nan => (.nan, 0)
  | .inf a, .inf b => if a = b then (.inf a, 0) else (.nan, flNV)
  | .inf a, _ => (.inf a, 0)
  | _, .inf b => (.inf b, 0)
  | .fin s1 m1 e1 _, .fin s2 m2 e2 _ =>
    let (a, b, e) := align m1 e1 m2 e2
    let v := sInt s1 a + sInt s2 b
    if v = 0 then (.fin (if s1 = s2 then s1 else rm) 0 0 false, 0)
    else (.fin (v < 0) v.natAbs e false, 0)

def numNeg : Num → Num
  | .nan => .nan
  | .inf s => .inf (!s)
  | .fin s m e t => .fin (!s) m e t

def numAbs : Num → Num
  | .nan => .nan
  | .inf _ => .inf false
  | .fin _ m e t => .fin false m e t

/-- Exact product; NV for 0 × ∞ (13 R384). -/
def numMul (x y : Num) : Num × Nat :=
  match x, y with
  | .nan, _ | _, .nan => (.nan, 0)
  | .inf a, .inf b => (.inf (a != b), 0)
  | .inf a, .fin s m _ _ => if m = 0 then (.nan, flNV) else (.inf (a != s), 0)
  | .fin s m _ _, .inf b => if m = 0 then (.nan, flNV) else (.inf (b != s), 0)
  | .fin s1 m1 e1 _, .fin s2 m2 e2 _ => (.fin (s1 != s2) (m1 * m2) (e1 + e2) false, 0)

/-- x / y for finite y ≠ 0 and finite x, to 256 bits and a sticky bit. -/
def numDiv (x y : Num) : Num :=
  match x, y with
  | .fin s1 m1 e1 _, .fin s2 m2 e2 _ =>
    let n := m1 * 2 ^ (256 + bitLen m2)
    .fin (s1 != s2) (n / m2) (e1 - e2 - 256 - (bitLen m2 : Int)) (n % m2 != 0)
  | .inf a, y => .inf (a != signOf y)
  | _, _ => .nan

/-! ### Rounding (13 R378) -/

/-- The magnitude m·2^e (+ sticky) rounded to a multiple of 2^q: the multiple chosen, and whether it differs from the
magnitude. `mode` is the code of R378 and r the random bits of R380. -/
def roundAt (q : Int) (mode : Nat) (neg : Bool) (m : Nat) (e : Int) (st : Bool) (r : Nat) : Nat × Bool :=
  let k := (q - e).toNat
  let lo := if q ≤ e then m * 2 ^ (e - q).toNat else m / 2 ^ k
  let rem := if q ≤ e then 0 else m % 2 ^ k
  if rem = 0 && !st then (lo, false)
  else
    let half := decide (2 * rem = 2 ^ k)
    let above := decide (2 * rem > 2 ^ k) || (half && st)
    let up :=
      match mode with
      | 0 => above || (half && !st && lo % 2 == 1)
      | 1 => false
      | 2 => !neg
      | 3 => neg
      | 4 => above || half
      | _ => decide (2 ^ 24 ≤ rem * 2 ^ 24 / 2 ^ k + r)
    (if up then lo + 1 else lo, true)

/-- The overflowed result of a mode (13 R379). -/
def overflowNum (F : Fmt) (mode : Nat) (neg : Bool) : Num :=
  match mode with
  | 1 => maxNum F neg
  | 2 => if neg then maxNum F neg else .inf neg
  | 3 => if neg then .inf neg else maxNum F neg
  | _ => .inf neg

/-- round(x, mode, F): the rounded value and the flags OF, UF, NX that rounding raises. -/
def roundF (F : Fmt) (mode : Nat) (r : Nat) (x : Num) : Num × Nat :=
  match x with
  | .nan => (.nan, 0)
  | .inf s => (.inf s, 0)
  | .fin s m e st =>
    if m = 0 && !st then (.fin s 0 0 false, 0)
    else
      let ex := e + (bitLen m : Int) - 1
      let q := max ex F.emin - F.mb
      let (c, inex) := roundAt q mode s m e st r
      let (c', _) := roundAt (ex - F.mb) mode s m e st r
      let past := decide (F.maxCode < encMag F c q)
      let tiny := inex && decide (c' ≠ 0) && decide (ex - F.mb + (bitLen c' : Int) - 1 < F.emin)
      if past then (overflowNum F mode s, flOF + flNX)
      else (.fin s c q false, (if tiny then flUF else 0) + (if inex then flNX else 0))

/-- round(x, mode, H4) (13 R378). -/
def roundH4 (mode : Nat) (r : Nat) (x : Num) : Num × Nat :=
  match x with
  | .nan => (.nan, 0)
  | .inf s => (.inf s, 0)
  | .fin s m e st =>
    -- t is ⌊abs(x) − 0.5⌋ where abs(x) ≥ 0.5, over the exponent −1
    let big := decide (1 ≤ (if 0 ≤ e + 1 then m * 2 ^ (e + 1).toNat else m / 2 ^ (-(e + 1)).toNat))
    if big then
      -- round abs(x) − 0.5 at 2^0; its parity rules the tie of rn by the even code
      let e' := min e (-1)
      let mm := m * 2 ^ (e - e').toNat - 2 ^ (-1 - e').toNat
      let k := (-e').toNat
      let lo := mm / 2 ^ k
      let rem := mm % 2 ^ k
      let exact := rem == 0 && !st
      let half := decide (2 * rem = 2 ^ k)
      let above := decide (2 * rem > 2 ^ k) || (half && st)
      -- code of the positive value j + 0.5 is j; of the negative one, −j − 1: even when j is odd
      let loEven := if s then lo % 2 == 1 else lo % 2 == 0
      let up :=
        match mode with
        | 0 => above || (half && !st && !loEven)
        | 1 => false
        | 2 => !s
        | 3 => s
        | 4 => above || half
        | _ => decide (2 ^ 24 ≤ rem * 2 ^ 24 / 2 ^ k + r)
      let j := if up && !exact then lo + 1 else lo
      if j > 7 then
        ((match mode with
          | 1 => .fin s 15 (-1) false
          | 2 => if s then .fin s 15 (-1) false else .inf s
          | 3 => if s then .inf s else .fin s 15 (-1) false
          | _ => .inf s), flOF + flNX)
      else (.fin s (2 * j + 1) (-1) false, if exact then 0 else flNX)
    else
      let zero := m = 0 && !st
      let neg :=
        match mode with
        | 0 => if zero then false else s
        | 2 => false
        | 3 => true
        | 5 =>
          -- ⌊(x + 0.5) · 2^24⌋, the floor of the value
          let a : Nat := if 0 ≤ e + 24 then m * 2 ^ (e + 24).toNat else m / 2 ^ (-(e + 24)).toNat
          let exact := !st && (if 0 ≤ e + 24 then true else m % 2 ^ (-(e + 24)).toNat == 0)
          let f : Int := if s then (2 : Int) ^ 23 - a - (if exact then 0 else 1) else (2 : Int) ^ 23 + a
          !decide ((2 : Int) ^ 24 ≤ f + r)
        | _ => s
      (.fin neg 1 (-1) false, flNX)

/-! ### Saturation and flushing (13 R382, R383) -/

def oneNum (neg : Bool) : Num := .fin neg 1 0 false

/-- sat(x, mode): the saturated value and NX when it changes. (DEDUCED, log 62) -/
def satF (largest : Bool → Num) (mode : Nat) (x : Num) : Num × Nat :=
  let y : Num :=
    match mode, x with
    | 1, .inf s => largest s
    | 2, .nan => .fin false 0 0 false
    | 2, .inf s => if s then .fin false 0 0 false else oneNum false
    | 2, .fin s m e t => if s || m = 0 then .fin false 0 0 false
        else if numLt (oneNum false) x then oneNum false else .fin s m e t
    | 3, .nan => .fin false 0 0 false
    | 3, .inf s => oneNum s
    | 3, .fin s m e t => if numLt (oneNum false) (numAbs x) then oneNum s else .fin s m e t
    | _, x => x
  (y, if isNan x != isNan y || (!isNan x && !numEq x y) then flNX else 0)

/-- The values an H4 destination receives in place of ±0 and ±1.0 (13 R382). -/
def satH4 (mode : Nat) (x : Num) : Num × Nat :=
  let (y, _) := satF (fun s => .fin s 15 (-1) false) mode x
  let z : Num :=
    if mode = 0 || mode = 1 then y
    else match y with
      | .fin s m e t =>
        if m = 0 then .fin false 1 (-1) false
        else if mode = 2 then .fin false 1 (-1) false
        else .fin s (if numEq (numAbs y) (oneNum false) then 1 else m) (if numEq (numAbs y) (oneNum false) then -1 else e) t
      | _ => y
  (z, if isNan x != isNan z || (!isNan x && !numEq x z) then flNX else 0)

/-- x is subnormal in F. -/
def isSubnormal (F : Fmt) (x : Num) : Bool :=
  match x with
  | .fin _ m e _ => m != 0 && decide (e + (bitLen m : Int) - 1 < F.emin)
  | _ => false

/-- ftz(x) of a source: no flags (15 R422). -/
def ftzIn (F : Fmt) (on : Bool) (x : Num) : Num :=
  if on && isSubnormal F x then .fin (signOf x) 0 0 false else x

/-- ftz of a result: flushing a nonzero result raises UF and NX (13 R384). -/
def ftzOut (F : Fmt) (on : Bool) (x : Num) : Num × Nat :=
  if on && isSubnormal F x then (.fin (signOf x) 0 0 false, flUF + flNX) else (x, 0)

/-- How one instruction rounds, saturates and flushes (13 R346, R382, R383), and the random bits of a lane's element. -/
structure FpEnv where
  mode : Nat
  sat : Nat
  flush : Bool
  seed : Nat
  scnt : Nat

/-- srand(lane, e) (13 R380). -/
def srand (v : FpEnv) (lane e : Nat) : Nat :=
  let z0 := (v.seed + v.scnt * 0x9E3779B97F4A7C15 + (8 * lane + e + 1) * 0xD1B54A32D192ED03) % 2 ^ 64
  let z1 := (z0 ^^^ (z0 / 2 ^ 30)) * 0xBF58476D1CE4E5B9 % 2 ^ 64
  let z2 := (z1 ^^^ (z1 / 2 ^ 27)) * 0x94D049BB133111EB % 2 ^ 64
  let z3 := z2 ^^^ (z2 / 2 ^ 31)
  z3 / 2 ^ 40 % 2 ^ 24

/-- ftz(sat(round(x))) in format F with its flags, encoded (13 R383). -/
def deliver (F : Fmt) (v : FpEnv) (r : Nat) (x : Num × Nat) : Nat × Nat :=
  let (a, f1) := roundF F v.mode r x.1
  let (b, f2) := satF (maxNum F) v.sat a
  let (c, f3) := ftzOut F v.flush b
  (encFmt F c, x.2 ||| f1 ||| f2 ||| f3)

/-- The same for an H4 destination, which flushing never reaches (13 R383). -/
def deliverH4 (v : FpEnv) (r : Nat) (x : Num × Nat) : Nat × Nat :=
  let (a, f1) := roundH4 v.mode r x.1
  let (b, f2) := satH4 v.sat a
  (encH4 b, x.2 ||| f1 ||| f2)

/-- x rounded to an integer by a mode: its magnitude, and whether it differs from x. -/
def roundInt (mode r : Nat) (x : Num) : Nat × Bool :=
  match x with
  | .fin s m e st => roundAt 0 mode s m e st r
  | _ => (0, false)

/-! ### The functions of 15 R426

Fixed point with 1,100 fraction bits. Each result is cut to 1,000 bits or more of fraction with its sticky bit set, so
that it rounds as the exact value does unless that value lies within 2^−900 of a rounding boundary. -/

def fpBits : Nat := 1100
/-- ⌊ln 2 · 2^1100⌋ -/
def ln2Fix : Nat := 0xb17217f7d1cf79abc9e3b39803f2f6af40f343267298b62d8a0d175b8baafa2be7b876206debac98559552fb4afa1b10ed2eae35c138214427573b291169b8253e96ca16224ae8c51acbda11317c387eb9ea9bc3b136603b256fa0ec7657f74b72ce87b19d6548caf5dfa6bd38303248655fa1872f20e3a2da2d97c50f3fd5c607f4ca11fb5bfb90610
/-- ⌊π · 2^1100⌋ -/
def piFix : Nat := 0x3243f6a8885a308d313198a2e03707344a4093822299f31d0082efa98ec4e6c89452821e638d01377be5466cf34e90c6cc0ac29b7c97c50dd3f84d5b5b54709179216d5d98979fb1bd1310ba698dfb5ac2ffd72dbd01adfb7b8e1afed6a267e96ba7c9045f12c7f9924a19947b3916cf70801f2e2858efc16636920d871574e69a458fea3f4933d7e0d9

/-- Σ over the terms t, t·y/(k), …: the exponential series from term number k. -/
def expSeries (y t k acc : Nat) : Nat → Nat
  | 0 => acc
  | n + 1 =>
    let t' := t * y / 2 ^ fpBits / k
    expSeries y t' (k + 1) (acc + t') n

/-- exp(y) for 0 ≤ y < 1. -/
def expFix (y : Nat) : Nat := expSeries y (2 ^ fpBits) 1 (2 ^ fpBits) 220

/-- Alternating series of the sine or cosine: term t, next denominators k(k+1). -/
def trigSeries (y2 : Nat) (t : Int) (k : Nat) (acc : Int) : Nat → Int
  | 0 => acc
  | n + 1 =>
    let t' := -(t * y2 / 2 ^ fpBits / (k * (k + 1) : Nat))
    trigSeries y2 t' (k + 2) (acc + t') n

/-- sin(y) for 0 ≤ y < 2. -/
def sinFix (y : Nat) : Nat := (trigSeries (y * y / 2 ^ fpBits) y 2 y 120).toNat
/-- cos(y) for 0 ≤ y < 1.6. -/
def cosFix (y : Nat) : Nat := (trigSeries (y * y / 2 ^ fpBits) ((2 : Int) ^ fpBits) 1 ((2 : Int) ^ fpBits) 120).toNat

/-- Σ z^(2k+1)/(2k+1): the series of the inverse hyperbolic tangent. -/
def atanhSeries (z2 t k acc : Nat) : Nat → Nat
  | 0 => acc
  | n + 1 =>
    let t' := t * z2 / 2 ^ fpBits
    atanhSeries z2 t' (k + 2) (acc + t' / (k + 2)) n

/-- ln(num / den) for 1 ≤ num / den < 2. -/
def lnFix (num den : Nat) : Nat :=
  let z := (num - den) * 2 ^ fpBits / (num + den)
  2 * atanhSeries (z * z / 2 ^ fpBits) z 1 z 360

/-- A fixed-point magnitude as a sticky value cut to 1,020 fraction bits. (DEDUCED, log 61) -/
def fixNum (neg : Bool) (x : Nat) (e : Int) : Num := .fin neg (x / 2 ^ 80) (e - 1020) true

/-- ⌊√n⌋ by bits from bit k down. -/
def isqrtGo (n acc : Nat) : Nat → Nat
  | 0 => acc
  | k + 1 =>
    let a := acc + 2 ^ k
    isqrtGo n (if a * a ≤ n then a else acc) k

/-- ⌊√n⌋. -/
def isqrt (n : Nat) : Nat := isqrtGo n 0 (bitLen n / 2 + 1)

/-- 1 / x. -/
def fRcp (x : Num) : Num × Nat :=
  match x with
  | .nan => (.nan, 0)
  | .inf s => (.fin s 0 0 false, 0)
  | .fin s m e t => if m = 0 then (.inf s, flDZ) else (numDiv (oneNum s) (.fin false m e t), 0)

/-- √x. -/
def fSqrt (x : Num) : Num × Nat :=
  match x with
  | .nan => (.nan, 0)
  | .inf s => if s then (.nan, flNV) else (.inf false, 0)
  | .fin s m e _ =>
    if m = 0 then (.fin s 0 0 false, 0)
    else if s then (.nan, flNV)
    else
      let odd := e % 2 != 0
      let n := (if odd then 2 * m else m) * 2 ^ 256
      let r := isqrt n
      (.fin false r ((if odd then e - 1 else e) / 2 - 128) (r * r != n), 0)

/-- 1 / √x. -/
def fRsq (x : Num) : Num × Nat :=
  match x with
  | .nan => (.nan, 0)
  | .inf s => if s then (.nan, flNV) else (.fin false 0 0 false, 0)
  | .fin s m e _ =>
    if m = 0 then (.inf s, flDZ)
    else if s then (.nan, flNV)
    else
      let odd := e % 2 != 0
      let mm := if odd then 2 * m else m
      let n := 2 ^ 512 / mm
      let r := isqrt n
      (.fin false r (-(if odd then e - 1 else e) / 2 - 256) (r * r * mm != 2 ^ 512), 0)

/-- 2^x. -/
def fExp2 (x : Num) : Num × Nat :=
  match x with
  | .nan => (.nan, 0)
  | .inf s => if s then (.fin false 0 0 false, 0) else (.inf false, 0)
  | .fin s m e _ =>
    if m = 0 then (oneNum false, 0)
    else if e + (bitLen m : Int) > 14 then (.fin false 1 (if s then -16000 else 16000) true, 0)
    else
      let fx : Int := sInt s (if 0 ≤ e then m * 2 ^ (e.toNat + fpBits) else m * 2 ^ fpBits / 2 ^ (-e).toNat)
      let i := fx / (2 : Int) ^ fpBits
      let f := (fx % (2 : Int) ^ fpBits).toNat
      if f = 0 then (.fin false 1 i false, 0)
      else (fixNum false (expFix (f * ln2Fix / 2 ^ fpBits)) i, 0)

/-- log2 x. -/
def fLog2 (x : Num) : Num × Nat :=
  match x with
  | .nan => (.nan, 0)
  | .inf s => if s then (.nan, flNV) else (.inf false, 0)
  | .fin s m e _ =>
    if m = 0 then (.inf true, flDZ)
    else if s then (.nan, flNV)
    else
      let n := bitLen m - 1
      let i : Int := e + n
      if m = 2 ^ n then (.fin (i < 0) i.natAbs 0 false, 0)
      else
        let v : Int := i * (2 : Int) ^ fpBits + (lnFix m (2 ^ n) * 2 ^ fpBits / ln2Fix : Nat)
        (fixNum (v < 0) v.natAbs 0, 0)

/-- The fraction of x in half-turns, x mod 2, over 2^fpBits; exact for every binary32 value. -/
def turnFix (m : Nat) (e : Int) : Nat :=
  (if 0 ≤ e then m * 2 ^ (e.toNat + fpBits) else m * 2 ^ fpBits / 2 ^ (-e).toNat) % 2 ^ (fpBits + 1)

/-- sin(π a) for a in [0, 1/2] over 2^fpBits, with a = 1/2 exact. -/
def sinPi (neg : Bool) (a : Nat) : Num :=
  if 2 * a = 2 ^ fpBits then oneNum neg
  else if 4 * a ≤ 2 ^ fpBits then fixNum neg (sinFix (a * piFix / 2 ^ fpBits)) 0
  else fixNum neg (cosFix ((2 ^ (fpBits - 1) - a) * piFix / 2 ^ fpBits)) 0

/-- sin(π x). -/
def fSin (x : Num) : Num × Nat :=
  match x with
  | .nan => (.nan, 0)
  | .inf _ => (.nan, flNV)
  | .fin s m e _ =>
    if m = 0 then (.fin s 0 0 false, 0)
    else
      let one := 2 ^ fpBits
      let t := turnFix m e
      let neg := decide (one ≤ t)
      let u := t % one
      if u = 0 then (.fin s 0 0 false, 0)
      else (sinPi (s != neg) (if 2 * u ≤ one then u else one - u), 0)

/-- cos(π x). -/
def fCos (x : Num) : Num × Nat :=
  match x with
  | .nan => (.nan, 0)
  | .inf _ => (.nan, flNV)
  | .fin _ m e _ =>
    let one := 2 ^ fpBits
    let t := turnFix m e
    -- cos(π t) for t in [0, 2): fold to [0, 1], then to [0, 1/2]
    let u := if one < t then 2 * one - t else t
    let neg := decide (one < 2 * u)
    let w := if neg then one - u else u
    if 2 * w = one then (.fin false 0 0 false, 0) else (sinPi neg (2 ^ (fpBits - 1) - w), 0)

/-- tanh x = (1 − E) / (1 + E) with E = exp(−2 |x|). -/
def fTanh (x : Num) : Num × Nat :=
  match x with
  | .nan => (.nan, 0)
  | .inf s => (oneNum s, 0)
  | .fin s m e _ =>
    if m = 0 then (.fin s 0 0 false, 0)
    else if e + (bitLen m : Int) > 8 then (.fin s (2 ^ 300 - 1) (-300) true, 0)
    else
      let one := 2 ^ fpBits
      let y := if 0 ≤ e + 1 then m * 2 ^ ((e + 1).toNat + fpBits) else m * one / 2 ^ (-(e + 1)).toNat
      -- exp(−y) = 2^(−k−1) · exp((1 − f) ln 2) with y / ln 2 = k + f
      let t := y * one / ln2Fix
      let k := t / one
      let f := t % one
      let ex := expFix ((one - f) * ln2Fix / one) / 2 ^ (k + 1)
      (fixNum s ((one - ex) * one / (one + ex)) 0, 0)

/-! ### Scales and conversions (13 R370, R387) -/

/-- ue8m7_of_e8m0 (13 R370). -/
def ue8m7OfE8m0 (e : Nat) : Nat := if e = 0xFF then 0x7FC0 else if e = 0 then 0x0040 else e * 128

/-- ue8m7_of_e3m5 (13 R370). -/
def ue8m7OfE3m5 (c : Nat) : Nat :=
  let x := c / 32
  let f := c % 32
  if x ≠ 0 then (x + 124) * 128 + f * 4
  else if f = 0 then 0
  else
    let h := bitLen f - 1
    (h + 120) * 128 + (f - 2 ^ h) * 2 ^ (7 - h) % 128

/-- dec of a UE8M7 scale (13 R369). -/
def decUE8M7 (c : Nat) : Num :=
  if c.testBit 15 || c / 128 % 256 = 255 then .nan else decMag fmtB16 false (c % 2 ^ 15)

end Sys2Proof.Machine
end

