-- ==== Sys2Proof/Config.lean ====
section
/-! DEFINITION. What the spec leaves to an implementation or leaves open: free values with no body, so that nothing
can evaluate them and every statement about them holds for all their values. -/

namespace Sys2Proof.Config

/-- The n-th free value of up to 64 bits, for the values the spec leaves open (DESIGN CHOICE, log 2). -/
opaque freeValue : Nat → BitVec 64
/-- The n-th free choice between two allowed outcomes (DESIGN CHOICE, log 2). -/
opaque freeChoice : Nat → Bool
/-- The time that passes before the n-th reading of DTC, in nanoseconds (02 R53, DESIGN CHOICE, log 9). -/
opaque elapsed : Nat → Nat
/-- The set of a column L1 that a line number hashes to (10 R292; DESIGN CHOICE, log 65). -/
opaque l1Set : Nat → Nat
/-- The L2 slice and set of a tower that a line number hashes to (04 R111, 10 R294; DESIGN CHOICE, log 65). -/
opaque l2Set : Nat → Nat
/-- The L2 slice of a tower, 0-191, that a line number hashes to (04 R111; DESIGN CHOICE, log 65). -/
opaque l2Slice : Nat → Nat
/-- The identifier of this package on the Glatravo fabric (02 R41; DESIGN CHOICE, log 65). -/
opaque packageId : Nat
/-- The link, 0-11, that a stream and a destination package hash to (02 R43; DESIGN CHOICE, log 65). -/
opaque linkHash : Nat → Nat → Nat
/-- The 236 payload bytes that carry the content of a flit (02 R41; DESIGN CHOICE, log 106). -/
opaque flitPayload : FlitBody → BitVec 1888
/-- CRC-64 over bytes 0-247 of a flit (02 R41; DESIGN CHOICE, log 106). -/
opaque crc64 : BitVec 1984 → BitVec 64
/-- SM3 over the firmware image, its signature field left out, from the bytes that are not 0 (03 R89, R90; DESIGN CHOICE, log 106). -/
opaque imageDigest : List Host.Cell → BitVec 512
/-- The bits a line's bytes read as under a key other than the one they were written under: line, key written, key read
(03 R92; DESIGN CHOICE, log 66). -/
opaque wrongKey : Nat → Nat → Nat → BitVec 512
/-- Bytes of a digital certificate, digest, signature or nonce that the attestation responder returns (03 R90; PRESUMED, log 14). -/
opaque spdmBytes : Nat → BitVec 512

/-- The version of an entry of the capability list (03 R95; DESIGN CHOICE, log 43). -/
opaque capVersion : Nat → Nat

end Sys2Proof.Config
end

