-- ==== Sys2Proof/Machine/State.lean ====
section
/-! DEFINITION. The machine's state as plain data: everything the spec gives the part, unit by unit, with the model's
own bookkeeping last. A map is a list of (key, value) with strictly rising keys; a register map's unlisted key reads as
its reset value. -/

namespace Sys2Proof.Machine

/-- A sorted map by number. -/
abbrev Map (α : Type) := List (Nat × α)

/-! ### Translation (04) -/

/-- A leaf entry as a walk read it: its bits, the entry's address and its level, 2 or 3 (04 R109). -/
structure Leaf where
  val : Nat
  pa : Nat
  level : Nat
  deriving DecidableEq, Repr, Inhabited

/-- What a walk returns: a well-formed leaf, or a fault with the level, bits and address of the entry (04 R112). -/
inductive WOut where
  | leaf (l : Leaf)
  | fault (sub : Nat) (l : Leaf)
  /-- a table lies in a stack that refuses requests (05 R153) -/
  | refused
  deriving DecidableEq, Repr, Inhabited

/-- What a walk returned to the unit that asked: the 64 KiB page, whether a `wsync` had begun since it started (04 R113), and
whether an instruction fetch asked. -/
structure Walked where
  page : Nat
  out : WOut
  marked : Bool
  fetch : Bool
  deriving DecidableEq, Repr, Inhabited

/-- Who made a request that is being translated (04 R112, R122, R123, R106). -/
inductive Who where
  /-- a group's lane access or fetch -/
  | group (key : Nat)
  /-- a transaction of a BTE request of a core, by number -/
  | bte (core id tx : Nat)
  /-- a request from a peer package, as it arrived -/
  | peer (f : Flit)
  /-- a cluster queue engine's access (08 R236) -/
  | engine (key : Nat)
  deriving DecidableEq, Repr, Inhabited

/-- What a translation is asked for (04 R119, R126). -/
structure XReq where
  who : Who
  tower : Nat
  ia : Nat
  va : Nat
  launch : Nat
  col : Nat
  layer : Nat
  slot : Nat
  write : Bool
  /-- an atomic or a bank-side command -/
  atomic : Bool
  nmo : Bool
  fetch : Bool
  /-- zero-and-flag allowed (04 R132) -/
  zf : Bool
  priv : Bool
  deriving DecidableEq, Repr, Inhabited

/-- A walk in flight (04 R112, R113). -/
structure Walk where
  req : XReq
  level : Nat
  /-- address of the table to read next -/
  table : Nat
  /-- a `wsync` has begun since it started -/
  marked : Bool
  out : Option WOut
  deriving DecidableEq, Repr, Inhabited

/-- A previous parked fault of a request: subcode, entry bits, entry address, repeat count (04 R130). -/
structure ParkHist where
  sub : Nat
  val : Nat
  pa : Nat
  count : Nat
  deriving DecidableEq, Repr, Inhabited

/-- A park-table entry (04 R123). -/
structure Park where
  page : Nat
  sub : Nat
  members : List XReq
  deriving DecidableEq, Repr, Inhabited

/-- A fault record on its way to the ring: its bytes, its park-table entry, or the page of a NOPARK record (04 R126,
R132). -/
structure FRec where
  tower : Nat
  park : Option Nat
  page : Nat
  bytes : Line
  deriving DecidableEq, Repr, Inhabited

/-! ### Groups (09) -/

/-- One lane of a group (09 R243); `kept` is its meeting register while a trap handler runs (R260). -/
structure Lane where
  pc : Word64
  meet : Word64
  live : Bool
  kept : Word64
  deriving DecidableEq, Repr, Inhabited

/-- A register that awaits a value: a vector row or a scalar (09 R248). -/
inductive AReg where
  | v (n : Nat)
  | s (n : Nat)
  deriving DecidableEq, Repr, Inhabited

/-- Why a group is BROKEN (09 R248). -/
inductive BreakWhy where
  /-- registers awaiting a global return -/
  | operand (rs : List AReg)
  /-- a queue register short of entries -/
  | queue (q n : Nat)
  /-- an `ldq` with 16 entries held or outstanding -/
  | ldqRoom (q : Nat)
  /-- register rows not available from the pool (R252) -/
  | rows (n : Nat)
  /-- weighted issue refused (07 R187) -/
  | budget
  /-- a walk for this address is under way (04 R112) -/
  | walk (ia : Nat)
  /-- the lane's access is parked (04 R122) -/
  | parked (id : Nat)
  /-- a full kick queue (10 R278) -/
  | kickFull
  /-- a matrix unit that can take no `mma` of the group (17 R477) -/
  | matrix
  /-- accumulator chunks held by an `mma` (17 R485) -/
  | chunks (first n : Nat)
  /-- a full bank queue (05 R143) -/
  | bankFull (bank : Nat)
  /-- earlier accesses of the lane that an acquire or a future operation holds up (16 R451, 18 R505) -/
  | order
  /-- a task's first instruction: requests of its parent's column below a bound, and the parent's commands, that the `spawn`
  releases (08 R214) -/
  | release (col upto key : Nat)
  deriving DecidableEq, Repr, Inhabited

/-- Why a group is WAITING (09 R248, 18 R499, 16 R460-R469, 18 R517, R518). -/
inductive WaitWhy where
  | fget (handle : Nat)
  | xwait (buf : Buf) (chunks : List Nat)
  | bar
  | barx
  | push
  | sleep (until_ : Nat)
  /-- a fence, inv, flush or rinv, or an exit, until requests numbered below this are done: the column's, or
  every column's; whether it is a release's wait, and whether a sequential fence then acquires (11 R305, R330) -/
  | drain (upto : Nat) (all rel acq : Bool)
  /-- a `wsync`, until requests numbered below this are performed, and those of walks it marked (04 R114) -/
  | wsync (upto : Nat)
  deriving DecidableEq, Repr, Inhabited

/-- States of a group (09 R244); HANDLER is the presence of `handler`. -/
inductive GStatus where
  | ready
  | issuing
  | broken (why : BreakWhy)
  | waiting (why : WaitWhy)
  /-- with its cause, 0x1F (R263) -/
  | frozen (cause : Nat)
  deriving DecidableEq, Repr, Inhabited

/-- Wait record of a group (18 R499). -/
inductive WaitRec where
  | bar (id gen : Nat)
  /-- object, its intermediate address and leaf, the phase found, whether it lies in a peer package, and whether that
  package has told of the change -/
  | barx (obj : Word64) (ia : Nat) (leaf : Leaf) (phase peer told : Bool)
  /-- pipe, the entry's data, the consumers that have accepted and those still to -/
  | push (pc : Word64) (pipe : Nat) (data : Row) (accepted : Nat) (waiting : Nat)
  deriving DecidableEq, Repr, Inhabited

/-- A trap handler in progress (09 R260, R261). -/
structure Handler where
  /-- handler lanes: TMASK at the trap -/
  lanes : LaneMask
  /-- handler lanes that have executed `eret` -/
  returned : LaneMask
  /-- active mask of the trapped instruction -/
  active : LaneMask
  /-- instructions of its run so far -/
  count : Nat
  /-- the queue latch of the trapped instruction -/
  latch : List Row
  deriving DecidableEq, Repr, Inhabited

/-- A run in progress (09 R245, R249, R258; 12 R351). -/
structure Run where
  active : LaneMask
  /-- address of the next instruction's first parcel, or of its prefix -/
  pc : Word64
  count : Nat
  /-- lane from which the next instruction executes: lane progress, 64 when it counts as complete -/
  start : Nat
  /-- the prefix read, with its address -/
  pre : Option (Pfx × Word64)
  deriving DecidableEq, Repr, Inhabited

/-- The trap registers (09 R262); TMASK, TPC and TADDR whole, TLANE and the fields of TCAUSE. -/
structure Trap where
  cause : Byte
  sub : Byte
  lane : Nat
  mask : LaneMask
  pc : Word64
  addr : Word64
  deriving DecidableEq, Repr, Inhabited

def Trap.zero : Trap := ⟨0, 0, 0, 0, 0, 0⟩

/-- A queue register (09 R254): entries oldest first, the `ldq` results still to land in issue order, and its pipe
binding. -/
structure Queue where
  entries : List Row
  /-- per outstanding `ldq`: its number, lanes still due and the row so far -/
  pending : List (Nat × LaneMask × Row)
  pipe : Bool
  deriving DecidableEq, Repr, Inhabited

/-- FRND of a group (13 R386). -/
structure Frnd where
  seed : Word
  scnt : BitVec 16
  ten : BitVec 5
  flg : BitVec 5
  rm : BitVec 3
  deriving DecidableEq, Repr, Inhabited

/-- The `mma` context of a group (17 R482). -/
structure MCtx where
  z : Bool
  fmt : EFmt
  acc : Word64
  a0 : Word64
  a1 : Word64
  b0 : Word64
  b1 : Word64
  mask : LaneMask
  /-- k-blocks completed per row group, and those of them already in cbuf -/
  done : List Nat
  written : List Nat
  /-- busy cycles spent in the k-block under way -/
  part : Nat
  /-- 1 waiting, 2 executing, 3 checkpointed -/
  state : Nat
  /-- issued inside the trap handler that runs (R526) -/
  exempt : Bool
  deriving DecidableEq, Repr, Inhabited

/-- A lane's access to a peer package: its virtual address, the number of its request, and the peer's answer: a value, or
the cause and subcode of a trap (04 R106). -/
structure PeerWait where
  va : Nat
  id : Nat
  ans : Option (Nat ⊕ (Nat × Nat))
  deriving DecidableEq, Repr, Inhabited

/-- A group on a core or saved with its block (09 R242-R244). -/
structure Group where
  /-- identifier of its block -/
  block : Nat
  /-- group index in the block -/
  index : Nat
  width : Nat
  lanes : List Lane
  status : GStatus
  run : Option Run
  handler : Option Handler
  trap : Trap
  /-- the first trap of a FROZEN group (R263) -/
  trap2 : Option Trap
  /-- scalar registers; unlisted reads 0 -/
  sregs : Map Nat
  /-- rename map: mapped vector registers (R250) -/
  vregs : Map Row
  /-- predicates; unlisted reads 0 -/
  preds : Map Nat
  queues : List Queue
  /-- the queue latch: entries popped by an instruction not yet complete (R254) -/
  latch : List Row
  frnd : Frnd
  mctx : Option MCtx
  waitRec : Option WaitRec
  /-- registers awaiting returns, with the request that returns them -/
  awaiting : List (AReg × Nat)
  /-- requests of the group not yet performed that an acquire, fence or future operation waits for -/
  pendingOrd : List Nat
  /-- references to futures: handle and multiplicity, in list order (08 R219) -/
  refs : List (Nat × Nat)
  /-- remaining activity exemption (07 R188) -/
  exempt : Nat
  /-- the instruction under way has been charged (07 R187) -/
  paid : Bool
  /-- a yielding group does not compete until another has issued (14 R415) -/
  yielded : Bool
  /-- when it became READY, in the core's cycles (06 R174) -/
  since : Nat
  /-- the parked access was released with verdict FAIL (04 R120) -/
  parkFail : Bool
  /-- what a walk for the group returned -/
  walked : Option Walked
  /-- the parked fault that the lane's access last met (04 R130) -/
  parkHist : Option ParkHist
  /-- a supervisor group (09 R263) -/
  super : Bool
  /-- a task descriptor that a `spawn` has read (18 R500) -/
  fetched : Option Nat
  /-- parcels its fetch unit holds that came from a peer package, by virtual address (04 R106, 11 R531) -/
  parcels : Map Nat
  /-- cause and subcode of a fetch that failed: released with verdict FAIL, or at a peer (04 R106, R120) -/
  fetchFail : Option (Nat × Nat)
  /-- an access of the lane to a peer package (04 R106) -/
  peerWait : Option PeerWait
  deriving DecidableEq, Repr, Inhabited

/-! ### Cores (07, 10, 17, 18) -/

/-- A core's own registers (07 R187-R190, 18 R516). -/
structure Core where
  charge : Nat
  value : Nat
  pendValue : Option Nat
  allot : Nat
  /-- a throttle clamp holds (01 R23), and ALLOT and VALUE before it (R24) -/
  clamp : Bool
  prior : Option (Nat × Nat)
  /-- an advise holds with no move possible (07 R196) -/
  advCap : Bool
  /-- weights of classes 0-7 in force, as SDWT packs them -/
  wtab : Word
  /-- core cycles counted, and those of the instruction under way that follow a window's end -/
  cycles : Nat
  owed : Nat
  /-- its cycles when the allotment period began (07 R192), and when a group last had the issue slot (09 R253) -/
  period : Nat
  idleFrom : Nat
  /-- group slot that holds the issue slot -/
  issuing : Option Nat
  perf : Map Nat
  perfsel : Map Nat
  /-- kick queue: group key, block and gbuf address, oldest first (10 R278) -/
  kicks : List (Nat × Nat × Nat)
  /-- group keys whose `mma` is in the matrix unit, in issue order (17 R478) -/
  mmas : List Nat
  /-- FROZEN groups waiting for the supervisor slot, oldest first (09 R264) -/
  frozen : List Nat
  /-- the frozen group the running supervisor serves -/
  serves : Option Nat
  deriving DecidableEq, Repr, Inhabited

def Core.reset : Core := ⟨0, 96, none, 96, false, none, false, 0x00121344, 0, 0, 0, 0, none, [], [], [], [], [], none⟩

/-! ### Block-transfer engine (10) -/

/-- A request descriptor (10 R279) or a schedule entry in its form. -/
structure Desc where
  op : Nat
  zf : Bool
  policy : Option Policy
  scope : Scope
  hint : Hint
  fmt : Nat
  buf : Buf
  gaddr : Nat
  boff : Nat
  stride : Nat
  size : Nat
  auxa : Nat
  auxb : Nat
  nbins : Nat
  nchk : Nat
  deriving DecidableEq, Repr, Inhabited

/-- A request at work (10 R276, R283, R288, R291). -/
structure BteReq where
  id : Nat
  block : Nat
  desc : Desc
  /-- next transaction to issue: storage unit · 4,096 + line of the unit; for a scatter, line of the row -/
  next : Nat
  /-- transactions to issue again before it, and the one whose answer is awaited -/
  again : List Nat
  cur : Nat
  /-- values read so far, by transaction -/
  got : Map Nat
  /-- storage bytes read as zero under ZF: offset and length -/
  zeroed : List (Nat × Nat)
  /-- destination chunks still to land, or chunks to return together -/
  chunks : List Nat
  /-- 2,048 while it waits for a park-table entry, 4,096 while a walk, 4,097 while the answer of its transaction is
  awaited -/
  stall : Option Nat
  /-- parked transactions, with their park-table entries -/
  parks : List (Nat × Nat)
  /-- what a walk for it returned -/
  walked : Option Walked
  /-- the answer to its transaction -/
  answer : Option Nat
  /-- scatter: the row under way, its phase (0 bump, 1 bump returned, 2 capacity, 3 and 4 base, 5 writing), slot, bin base -/
  row : Nat
  phase : Nat
  slot : Nat
  binBase : Nat
  /-- scatter: value of each finished row -/
  results : Map Nat
  /-- transactions issued -/
  issued : Nat
  /-- kicks released before it and not yet fetched, and its place in the rotation among active requests (10 R276) -/
  gate : Nat
  turn : Nat
  deriving DecidableEq, Repr, Inhabited

/-! ### Column L1 and home (10 R292-R294, 11 R307-R321) -/

/-- States of a line in a column L1 (11 R308); I is absence. -/
inductive L1St where
  | u | t | e | m | p
  deriving DecidableEq, Repr, Inhabited

/-- Retention marks (10 R293). -/
inductive Mark where
  | normal | evictFirst | evictLast
  deriving DecidableEq, Repr, Inhabited

/-- A line in a column L1 (11 R308). -/
structure L1Line where
  st : L1St
  /-- dirty bytes (U, M, P) -/
  dirty : BitVec 64
  /-- valid bytes; for P the bytes of its word mask -/
  valid : BitVec 64
  data : Line
  mark : Mark
  /-- poisoned words -/
  poison : BitVec 16
  /-- stamp of last use -/
  used : Nat
  /-- the leaf it was reached through -/
  leaf : Leaf
  deriving DecidableEq, Repr, Inhabited

/-- State of a line in one tower's L2 (11 R317). -/
inductive Moesi where
  | i | s | e | o | m
  deriving DecidableEq, Repr, Inhabited

/-- The home's record of a line (11 R312-R320): its tower-level data and states, where it lives, and the lazy-release
record. -/
structure HomeLine where
  data : Line
  poison : BitVec 16
  /-- DRAM, host or fabric memory is stale -/
  dirty : Bool
  pa : Nat
  key : Nat
  ht : Nat
  /-- a propagation bit and a dead bit of the leaf: PROP and DEAD (04 R109) -/
  prop : Bool
  deadLeaf : Bool
  /-- host-side state of a host line: 0 I, 1 S, 2 E, 3 M (02 R35) -/
  hst : Nat
  /-- the host may hold a copy of this device line, and it can be no more than a shared one (02 R37) -/
  hostBit : Bool
  hostShared : Bool
  /-- pinned by a stack shutdown (05 R154) -/
  pinned : Bool
  /-- state in the L2 of towers 0 and 1 -/
  st0 : Moesi
  st1 : Moesi
  /-- releasing column, scope and the words released (R314, R316) -/
  lazy : Option (Nat × Scope × BitVec 16)
  /-- number of the request that made the record -/
  lazyNo : Nat
  /-- bytes the non-home tower's L2 holds ahead of home under PROP 1 (R320) -/
  ahead : BitVec 64
  aheadData : Line
  mark : Mark
  cls : Nat
  used : Nat
  /-- bank-side commands in progress on the line (05 R141) -/
  busy : Nat
  /-- L2 holds the line; else this is a directory entry alone, and the bytes are where the line lives -/
  cached : Bool
  deriving DecidableEq, Repr, Inhabited

/-- Where a returned value goes. -/
inductive Dest where
  /-- no value returns -/
  | none
  /-- lane of a vector register (first of `words` rows), extended to 32 bits as signed when `sx` -/
  | lane (n l bytes : Nat) (sx : Bool)
  /-- scalar register -/
  | scalar (n bytes : Nat) (sx : Bool)
  /-- lane of the row an `ldq` fills: queue, number of the `ldq`, lane -/
  | queue (q id l : Nat)
  /-- a peer package's request (04 R106) -/
  | peer (f : Flit)
  /-- a BTE request of a core (10 R276) -/
  | bte (core id : Nat)
  /-- a cluster queue engine's access to a peer package (08 R236) -/
  | engine (key : Nat)
  /-- the task descriptor a `spawn` reads, whose handle goes to a scalar register (18 R500) -/
  | desc (n : Nat)
  /-- a parcel at a virtual address, from a peer package (04 R106) -/
  | parcel (va : Nat)
  /-- the lane that waits for a peer package's answer (04 R106) -/
  | peerLane
  deriving DecidableEq, Repr, Inhabited

/-- One Glatravo link (02 R41, R42). -/
structure Link where
  failed : Bool
  /-- sequence number of the next flit sent, and of the next expected -/
  out : Nat
  expect : Nat
  /-- the last 128 flits sent, oldest first, each with how often it has been replayed -/
  sent : List (Flit × Nat)
  deriving DecidableEq, Repr, Inhabited

def Link.reset : Link := ⟨false, 0, 0, []⟩

/-- Bank-side operations (05 R139). -/
inductive NmoKind where
  | addF32 | addBf16x2 | addS32 | maxF32 | maxS32 | cas32 | cas64 | saccF32 | saccBf16
  deriving DecidableEq, Repr, Inhabited

/-- What a column asks of a line's home. -/
inductive ReqKind where
  | load
  | store (data : Line)
  | atomic (op : AtomOp) (x : Nat)
  | cas (c w : Nat)
  /-- push or write-back of dirty bytes, with their poisoned words (11 R310, 01 R31) -/
  | push (data : Line) (poison : BitVec 16)
  /-- a prefetch (16 R467): into L2 only, or into the column L1 -/
  | prefetch (l2 : Bool)
  /-- `flush.wbi` of a line, or its write-back to DRAM for `wsync` (16 R469, 04 R114) -/
  | writeback (wbi : Bool)
  deriving DecidableEq, Repr, Inhabited

def ReqKind.isAtomic : ReqKind → Bool
  | .atomic _ _ | .cas _ _ => true
  | _ => false

/-- A request of a column to a home (11 R309), or to the host, fabric memory or a peer through it. -/
structure Req where
  id : Nat
  col : Nat
  /-- requesting group's key; none for the column itself -/
  group : Option Nat
  kind : ReqKind
  /-- line number: IA / 64 -/
  line : Nat
  mask : BitVec 64
  policy : Policy
  scope : Scope
  hint : Hint
  acquire : Bool
  release : Bool
  dest : Dest
  leaf : Leaf
  /-- peer package, when the range names one -/
  peer : Option Nat
  launch : Nat
  /-- has passed the requester's tower (11 R317) -/
  tower : Bool
  deriving DecidableEq, Repr, Inhabited

/-- Why a request is held at home. -/
inductive HoldWhy where
  /-- a drain order to this column, for what it accepted before: its requests numbered below a bound (11 R315) -/
  | drain (col upto : Nat)
  /-- a release waits for peer writes (11 R328) -/
  | peers
  /-- a bank-side command has the line (05 R141) -/
  | busy
  /-- the host must answer a back-invalidate (02 R37) -/
  | bi
  /-- a key slot is being loaded (03 R92) -/
  | key (slot : Nat)
  /-- a stack's interface retrains (02 R50) -/
  | retrain (stack : Nat)
  deriving DecidableEq, Repr, Inhabited

/-- A return on its way to its destination (16 R452). -/
structure Ret where
  id : Nat
  group : Option Nat
  dest : Dest
  /-- value, or none when poisoned -/
  value : Option Nat
  acquire : Bool
  scope : Scope
  col : Nat
  launch : Nat
  deriving DecidableEq, Repr, Inhabited

/-- A bank-side command (05 R139-R144): at home, or in its bank's queue. -/
structure BankCmd where
  id : Nat
  /-- issuing group; none for a peer's -/
  group : Option Nat
  line : Nat
  leaf : Leaf
  op : NmoKind
  /-- compare and swap values, or the scalar a -/
  c : Nat
  w : Nat
  /-- offset of the word of a compare-exchange -/
  off : Nat
  data : Line
  /-- bytes of the elements in the mask -/
  mask : BitVec 64
  dest : Dest
  launch : Nat
  /-- in the bank's queue; else held at home -/
  queued : Bool
  deriving DecidableEq, Repr, Inhabited

/-! ### Blocks, launches, tasks (06, 08) -/

/-- States of a block (06 R167). -/
inductive BlockState where
  | queued | reserved | staging | running | stopping | saving | saved | restoring | done
  deriving DecidableEq, Repr, Inhabited

/-- A region or copy-schedule entry of a launch record (03 R81). -/
structure CopyEnt where
  stage : Nat
  src : Nat
  size : Nat
  buf : Buf
  off : Nat
  fmt : Nat
  stride : Nat
  deriving DecidableEq, Repr, Inhabited

/-- Demands of a block or task: register rows and typed-buffer chunks (03 R80, 08 R210). -/
structure Shape where
  entry : Nat
  floor : Nat
  peak : Nat
  wbuf : Nat
  abuf : Nat
  cbuf : Nat
  gbuf : Nat
  groups : Nat
  width : Nat
  deriving DecidableEq, Repr, Inhabited

/-- Progress of a block barrier (18 R506). -/
structure Barrier where
  gen : Nat
  arrived : Nat
  count : Nat
  deriving DecidableEq, Repr, Inhabited

/-- Where a stolen block came from (08 R235, R237): the member's package, its tile argument, its tile queue, the launch
of the directory record, the thief's engine, the column it ran in, and how far its end has come: 0 running, 1 releasing,
2 its state to be stored, 3 awaiting the acknowledgement. -/
structure Stolen where
  pkg : Nat
  arg : Word64
  tiles : Nat
  cmd : Word
  engine : Nat
  col : Nat
  phase : Nat
  deriving DecidableEq, Repr, Inhabited

/-- A block or a task (06 R167; a task is a block of one group, 08 R211). -/
structure Block where
  /-- launch slot -/
  launch : Nat
  index : Nat
  /-- gang member -/
  member : Nat
  shape : Shape
  state : BlockState
  /-- core number 4·c + layer, once reserved -/
  core : Option Nat
  /-- slots of its groups on the core, by group index -/
  slots : List Nat
  /-- groups that have exited -/
  exited : Nat
  /-- typed-buffer bytes; unlisted reads 0: key buffer · 2^20 + address -/
  bytes : Map Nat
  /-- chunks on the engine side: key buffer · 1,024 + chunk, value its holder: 0 none named, 1 the matrix unit, 2 + id a
  BTE request (10 R272) -/
  owner : Map Nat
  /-- chunks last returned by a request at `.twr` or wider, until a group has found them returned (11 R322) -/
  returned : Map Nat
  stage : Nat
  kfet : Nat
  barriers : List Barrier
  /-- future entry of a task: column · 1,024 + entry -/
  task : Option Nat
  depth : Nat
  /-- privileged by inheritance (18 R496) -/
  priv : Bool
  /-- what its parent's `spawn` releases, or its save does: column, bound and group (08 R214, 11 R299) -/
  after : Option (Nat × Nat × Nat)
  /-- groups saved or in transfer -/
  saved : Map Group
  /-- pipe storage of its shares as a consumer: pipe number, entries oldest first with their consumer group (09 R256) -/
  shares : List (Nat × List (Nat × Row))
  /-- stolen from a member package (08 R235) -/
  stolen : Option Stolen
  /-- values of s0, s1 … of its groups at start -/
  init : List Word64
  /-- placement order, and DTC of its last move (07 R195) -/
  placed : Nat
  moved : Option Nat
  /-- charged units, windows refused, whether refused in the window under way, and a full period spent in the column
  (07 R192) -/
  units : Nat
  refWins : Nat
  refNow : Bool
  full : Bool
  demand : Nat
  share : Nat
  /-- its save slot: stack · 256 + slot, and the check value written with the save (06 R181, R182) -/
  saveSlot : Option Nat
  check : Word64
  /-- stopped to relieve allocation: its groups broken on allocation stop where they are (09 R253) -/
  spill : Bool
  /-- kicks recorded for replay: group index and gbuf address (06 R181) -/
  recKicks : List (Nat × Nat)
  deriving DecidableEq, Repr, Inhabited

/-- States of a future entry (08 R217); FREE is absence of a task. -/
inductive FutState where
  | free | queued | running | committed | doomed | done
  deriving DecidableEq, Repr, Inhabited

/-- A future entry (08 R216). -/
structure Future where
  state : FutState
  count : Nat
  tag : Nat
  result : Word64
  depth : Nat
  /-- block identifier of its task -/
  task : Nat
  deriving DecidableEq, Repr, Inhabited

/-- A range register (04 R100, R101). -/
structure RangeReg where
  base : Word64
  limit : Word64
  offset : Word64
  attr : Word64
  deriving DecidableEq, Repr, Inhabited

/-- The kernel of a launch or of a gang member, from its launch record (03 R80, 06 R170). -/
structure Kernel where
  shape : Shape
  trapEntry : Word64
  regions : List CopyEnt
  schedule : List CopyEnt
  args : List Word64
  /-- pre-emption class -/
  cls : Nat
  /-- save deadline in microseconds -/
  deadline : Nat
  maySpawn : Bool
  deriving DecidableEq, Repr, Inhabited

/-- A launch's binding to a member of a barrier object (08 R233). -/
structure Bind where
  /-- virtual addresses of the object and of its steal directory -/
  obj : Nat
  dir : Nat
  member : Nat
  /-- its own tile queue and entry count -/
  tiles : Nat
  count : Nat
  deriving DecidableEq, Repr, Inhabited

/-- A launch that holds a slot (06 R157). -/
structure Launch where
  /-- queue [31:26], sequence [25:0] -/
  cmd : Word
  /-- launch record address -/
  recAddr : Nat
  priority : Nat
  /-- a fault-handler launch of a tower (04 R127), and whether it is the current one -/
  handler : Bool
  tower : Nat
  current : Bool
  kernels : List Kernel
  gang : Bool
  blocks : Nat
  /-- gang pipes: number, producer member, consumer mask, depth, queue register -/
  pipes : List (Nat × Nat × Nat × Nat × Nat)
  /-- copies of the range registers held by issuing units; none after `rinv` (04 R104) -/
  ranges : Option (List RangeReg)
  /-- tower of its first region's home (06 R159) -/
  home : Option Nat
  /-- next block index to deal, and batches dealt to each tower (06 R159) -/
  dealt : Nat
  batches : Nat × Nat
  bind : Option Bind
  /-- a binding is under way: its arrivals wait -/
  binding : Bool
  /-- blocks claimed or found unmanaged, and blocks whose stolen item the package node holds (08 R233, R234) -/
  claimed : List Nat
  stolen : List Nat
  /-- blocks remotely completed before their engine came to them (08 R237) -/
  remote : List Nat
  /-- finished with an error status (06 R179, 03 R74) -/
  ended : Option Nat
  /-- pre-empted by a later timed instance: its blocks stop and none is placed (03 R84) -/
  paused : Bool
  deriving DecidableEq, Repr, Inhabited

/-! ### Distribution (06) -/

/-- What an entry of a cluster queue engine holds (06 R163). -/
inductive EntKind where
  /-- blocks `first … first + n − 1` of a launch -/
  | batch (first n : Nat)
  /-- gang instance i -/
  | gang (i : Nat)
  /-- a task, a saved block or a stolen block, by block identifier -/
  | task (block : Nat)
  | saved (block : Nat)
  | stolen (block : Nat)
  /-- a saved gang instance: its members' block identifiers -/
  | savedGang (blocks : List Nat)
  deriving DecidableEq, Repr, Inhabited

/-- An entry of a cluster queue engine (06 R163, R164). -/
structure QEnt where
  id : Nat
  launch : Nat
  kind : EntKind
  prio : Nat
  /-- passed over for lack of fit -/
  passed : Bool
  blocking : Bool
  deriving DecidableEq, Repr, Inhabited

/-- A gang placement in progress (06 R172): the entry, the column, the members reserved so far (block identifiers), and
the columns tried without a fit. -/
structure Placing where
  ent : Nat
  col : Nat
  reserved : List Nat
  tried : List Nat
  deriving DecidableEq, Repr, Inhabited

/-- A steal attempt in progress (08 R235): launch, the object's flags, member, its package, its tile queue and launch, the
entry to read next and how many more, the tile argument, the word the swap returned, and the phase: 0 flags, 1 directory
record, 3 scan, 6 swap, 7 swap returned. -/
structure Steal where
  launch : Nat
  flags : Nat
  member : Nat
  pkg : Nat
  tiles : Nat
  count : Nat
  cmd : Word
  entry : Nat
  left : Nat
  arg : Word64
  old : Nat
  phase : Nat
  deriving DecidableEq, Repr, Inhabited

/-- The binding of a launch to a member of a barrier object under way (08 R233): launch, virtual address of the object,
member, directory, tile queue, entry count, the phase (0 directory address, 1 record, 2 departed blocks), and the next
block; or, at phase 3, the recovery of its tiles from a lost package, which stands in `dir` (R239); or, at phase 4, the return of
tile `next` of a failed thief to the member's package, which stands in `dir`, with its launch in `obj`, after the answer to the steal's
swap at phase 5 (R239). -/
structure BindJob where
  launch : Nat
  obj : Nat
  member : Nat
  dir : Nat
  tiles : Nat
  count : Nat
  phase : Nat
  next : Nat
  deriving DecidableEq, Repr, Inhabited

/-- A cluster queue engine (06 R163-R173, 08 R232-R239). -/
structure Engine where
  entries : List QEnt
  placing : Option Placing
  /-- the victim set being stopped, with the entry that chose it (06 R180) -/
  victims : List Nat
  victimFor : Nat
  /-- victim sets not to be chosen again for an entry, with the DTC of their abandonment (06 R183) -/
  banned : List (Nat × List Nat × Nat)
  /-- claim under way: launch, block index, and the word its swap returned (08 R233) -/
  claim : Option (Nat × Nat × Option Nat)
  steal : Option Steal
  /-- DTC of the last steal attempt -/
  lastSteal : Option Nat
  /-- launches being bound or recovered (08 R233, R239), and done stores still to make: launch, address, value (R233,
  R237) -/
  jobs : List BindJob
  stores : List (Nat × Nat × Nat)
  /-- scan cursors, and flags last seen, by launch slot · 16 + member (08 R235) -/
  cursors : Map Nat
  flagsSeen : Map Nat
  /-- an access awaiting a park-table entry (its number), a walk (4,096), a held line (5,000) or a peer's answer (6,000 +
  the request's number) (08 R236); what a walk returned; and a peer's answer -/
  waiting : Option Nat
  walked : Option Walked
  answer : Option Nat
  deriving DecidableEq, Repr, Inhabited

def Engine.reset : Engine := ⟨[], none, [], 0, [], none, none, none, [], [], [], [], none, none, none⟩

/-- An arrival at a system barrier on its way to the object's home (08 R230). -/
structure Arrival where
  /-- the waiting group, or a peer's flit -/
  who : Who
  ia : Nat
  leaf : Leaf
  member : Nat
  stamp : Word64
  launch : Nat
  /-- virtual address of the object -/
  va : Nat
  /-- package that holds the object, when another does -/
  peer : Option Nat
  /-- its release waits for the column's requests numbered below this (11 R311, R328) -/
  upto : Nat
  deriving DecidableEq, Repr, Inhabited

/-! ### Sheepdog (07) -/

/-- States of a migration (07 R198). -/
inductive MigState where
  | defer | stop | hold | drain | xfer
  deriving DecidableEq, Repr, Inhabited

/-- A migration of a column (07 R198, R206). -/
structure Mig where
  block : Nat
  source : Nat
  target : Nat
  state : MigState
  /-- slots reserved on the target -/
  slots : List Nat
  /-- part of a layer evacuation -/
  evac : Bool
  /-- it has entered DEFER or HOLD, and the DTC at which it last did -/
  deferred : Bool
  since : Nat
  deriving DecidableEq, Repr, Inhabited

/-! ### Commands (03) -/

/-- Journal states of a command (03 R75). -/
inductive CmdState where
  | accepted | started | finished | retired
  deriving DecidableEq, Repr, Inhabited

/-- A journal entry (03 R75): both copies. -/
structure Cmd where
  words : Line
  state : CmdState
  /-- remaining predecessor count -/
  remaining : Nat
  status : Nat
  start : Nat
  finish : Nat
  /-- timed-table entry, and the DTC of its slot (03 R84) -/
  tt : Option Nat
  origin : Nat
  /-- waits for this command to finish first: EXTEND (03 R84) -/
  after : Option Nat
  deriving DecidableEq, Repr, Inhabited

/-- The copy engine's bulk copy (03 R66): command, source, destination, lines, lines done, poisoned source met. -/
structure Copy where
  cmd : Nat
  src : Nat
  dst : Nat
  lines : Nat
  finished : Nat
  bad : Bool
  deriving DecidableEq, Repr, Inhabited

/-- The attestation responder (03 R90). -/
structure Spdm where
  /-- 0 none, 1 version, 2 capabilities, 3 algorithms -/
  stage : Nat
  /-- a key exchange awaits FINISH -/
  exchanging : Bool
  /-- a secured session is open -/
  session : Bool
  deriving DecidableEq, Repr, Inhabited

/-- The algorithm sets that the responder offers (03 R90). -/
inductive SpdmAlg where
  | sm2P256 | sm3Hash256 | sm4Gcm
  deriving DecidableEq, Repr, Inhabited

/-- What the responder answers (03 R90). -/
inductive SpdmRsp where
  | version
  | capabilities
  | algorithms (offered : List SpdmAlg)
  | digests (d : Line)
  | certificate (d : Line)
  | challengeAuth (sig : Line)
  /-- measurements 1 and 3 are values the spec leaves open; 2 is the digest of the firmware image, 4 the occupancy of the key
  slots -/
  | measurements (rom firmware fuses : Line) (slots : BitVec 128)
  | keyExchange (sig : Line)
  | finished
  | ended
  | keySet (slot : Nat)
  | unexpected
  deriving DecidableEq, Repr, Inhabited

/-- What the part sends to the host, the fabric and the requester, oldest first. -/
inductive OutMsg where
  /-- the answer to a host snoop, with the line where the snoop gathers it (02 R36) -/
  | snoop (ia : Nat) (data : Option Line)
  /-- a back-invalidate snoop, BISnpInv or BISnpData (02 R37) -/
  | biSnoop (ia : Nat) (inv : Bool)
  /-- data of a host read of device memory -/
  | hdm (ia : Nat) (data : Line)
  | hdmDone (ia : Nat)
  | extentAck (i : Nat)
  /-- join refused, or retry-later (02 R47, R48) -/
  | joinRefused (a : Nat)
  | replay (link seq : Nat)
  | spdm (r : SpdmRsp)
  deriving DecidableEq, Repr, Inhabited

/-! ### Sensors and stacks (01, 05) -/

/-- A sensor (01 R19-R28). -/
structure Sensor where
  /-- in units of 0.25 degrees -/
  value : Int
  reason : Nat
  failed : Bool
  subst : Bool
  /-- the last 64 values and activities, oldest first -/
  hist : List (Int × Nat)
  /-- what its activity counter stood at when it was last sampled (01 R26) -/
  total : Nat
  adv : Bool
  thr : Bool
  shd : Bool
  /-- refresh rate of a bank: 0, 1, 2 for 1×, 2×, 4× (05 R151) -/
  rate : Nat
  /-- SHD, THR, ADV in degrees -/
  shdPt : Nat
  thrPt : Nat
  advPt : Nat
  badwr : Bool
  deriving DecidableEq, Repr, Inhabited

/-- A stack's interface and refresh controller (02 R50-R52, 05 R146, R151-R154). -/
structure Stack where
  /-- data-rate change requested and deferred -/
  rateReq : Bool
  /-- mandatory retraining triggered -/
  trigger : Bool
  /-- retraining: no data move -/
  retraining : Bool
  /-- DRCMD operation in progress -/
  busy : Bool
  /-- refresh commands performed in the window under way -/
  refreshed : Nat
  /-- next group of 8 rows of each bank -/
  refPtr : Map Nat
  /-- commands that each bank has performed (01 R26) -/
  cmds : Map Nat
  deriving DecidableEq, Repr, Inhabited

def Stack.reset : Stack := ⟨false, false, false, false, 0, [], []⟩

/-! ### Management (03) -/

/-- A black-box record (03 R94). -/
structure BBRec where
  dtc : Word64
  code : Nat
  cls : Nat
  /-- severity, a free value 0-3; bit 7 is set where the entry reads back with its error bit (01 R29) -/
  sev : Nat
  index : Nat
  data : Nat
  deriving DecidableEq, Repr, Inhabited

/-! ### Soft errors (01 R29) -/

/-- Protected storage that an error strikes: the registers of a group, by key; a block's typed buffers; a line of a column
L1; a line of L2; a directory entry; the future tables, queue engines and counters that serve a launch, by slot; a
transfer of a column's Mule bus; a transfer of a request on the base-die interconnect, by number; a line of HBM4E, by address / 64; an entry
of the black-box ring. -/
inductive Store where
  | registers (key : Nat)
  | buffer (block : Nat)
  | columnL1 (col line : Nat)
  | l2 (line : Nat)
  | directory (line : Nat)
  | counters (slot : Nat)
  | mule (col : Nat)
  | baseDie (req : Nat)
  | hbm (line : Nat)
  | blackBox (slot : Nat)
  deriving DecidableEq, Repr, Inhabited

/-- An error that has struck and that nothing has read yet, and whether the protection corrects it. -/
structure Strike where
  place : Store
  corrected : Bool
  deriving DecidableEq, Repr, Inhabited

/-! ### Stops -/

/-- What stops the machine outside the effects the spec gives. -/
inductive Fault where
  /-- raised by an instruction of a group executed while no group holds an issue slot; safe: `step` executes one only
  for the group it has just fetched for -/
  | noIssuingGroup
  deriving DecidableEq, Repr

/-- Instructions without a meaning. -/
inductive Refusal where
  /-- raised by the dispatch of an instruction the model does not cover; safe -/
  | notModelled (mnemonic : String)
  deriving DecidableEq, Repr

/-- The issue slot while an instruction executes: core, group slot, address of the instruction's first parcel, its bytes
(12 R332, R333). -/
structure Cur where
  core : Nat
  slot : Nat
  pc : Word64
  bytes : Nat
  deriving DecidableEq, Repr, Inhabited

/-! ### The machine -/

/-- The whole part. -/
structure State where
  /-- memory by physical address, canonical: addresses rising, no 0 byte listed (04 R99) -/
  mem : List Host.Cell
  /-- poisoned words, by physical address / 4 (01 R31) -/
  poison : Map Nat
  /-- key slot · 2^257 + key material a line was last written under, by physical line (03 R92) -/
  keyTags : Map Nat
  /-- column L1 lines by column · 2^46 + line -/
  l1 : Map L1Line
  /-- home lines by line number; the second copy of a replicated page's line at line + 2^46 -/
  home : Map HomeLine
  /-- rows of HBM4E that are dead, by address / 1,024 (05 R145) -/
  dead : Map Nat
  /-- key material of each key slot: 1 + its two keys; 0 or unlisted is empty (03 R91). That of slot 0 is a number of the draw
  (DESIGN CHOICE, log 66) -/
  keys : Map Nat
  /-- leaf caches: tower · 2^37 + IA / 2^16, or tower · 2^37 + 2^36 + IA / 2^21 for a 2 MiB page (04 R112) -/
  leaves : Map Leaf
  walks : List Walk
  /-- park tables: tower · 1,024 + entry -/
  parks : Map Park
  /-- requests waiting for a free park-table entry, oldest first, with their fault -/
  parkWait : List (XReq × Nat × Leaf)
  /-- fault records not yet posted -/
  frecs : List FRec
  /-- NOPARK records not yet consumed: tower, page, ring index -/
  noparks : List (Nat × Nat × Option Nat)
  /-- parked faults of BTE and peer requests that were released, for R130: by requester -/
  hists : List (Who × ParkHist)
  /-- requests on their way to homes, oldest first -/
  reqs : List Req
  /-- requests held at home, oldest first -/
  held : List (Req × HoldWhy)
  /-- requests sent to peer packages and not answered: package, stream, tag and the request (04 R106) -/
  peerOut : List (Nat × Nat × Nat × Req)
  /-- flits sent to peers, oldest first, with their link; link 12 stands for none live (02 R41) -/
  flits : List (Nat × Flit)
  /-- Glatravo links 0-11; unlisted is `Link.reset` (02 R42) -/
  links : Map Link
  /-- next transaction tag by stream · 256 + destination (02 R41) -/
  tags : Map Nat
  /-- host lines, by physical address / 64, accesses of which the host does not complete with data: they come from outside (04
  R99) -/
  hostErrors : List Nat
  /-- bank-side commands, oldest first -/
  bankCmds : List BankCmd
  /-- returns on their way back, oldest first -/
  rets : List Ret
  /-- number of the next request -/
  reqNo : Nat
  /-- groups by core · 64 + slot; slot 32 is the supervisor's -/
  groups : Map Group
  /-- cores 0-1,535, number 4 · column + layer; unlisted reads `Core.reset` -/
  cores : Map Core
  /-- BTE requests at work, by core, in release order -/
  bte : Map (List BteReq)
  /-- blocks and tasks by identifier -/
  blocks : Map Block
  blockNo : Nat
  /-- launches by launch slot -/
  launches : Map Launch
  /-- future entries by column · 1,024 + entry; unlisted is FREE with tag 0 -/
  futures : Map Future
  /-- management-space registers and counters, by address; unlisted reads the reset value -/
  mgmt : Map Nat
  /-- cluster queue engines by 12 · tower + cluster; unlisted reads `Engine.reset` -/
  engines : Map Engine
  entNo : Nat
  /-- batches and gang instances at the tower distributors, oldest first (06 R160) -/
  dealtTo : List (Nat × QEnt)
  /-- pushed entries in transit: source engine, target engine (06 R176) -/
  transit : List (Nat × Nat × QEnt)
  /-- decrements that await an acknowledgement: slot · 1,024 + node, items (06 R178) -/
  moves : List (Nat × Nat)
  /-- save slots that hold a save: stack · 256 + slot, with the block (06 R182) -/
  saves : Map Nat
  /-- tasks waiting for each column's reclamation engine, in order (08 R226) -/
  goats : Map (List Nat)
  /-- arrivals on their way to barrier objects, oldest first -/
  arrivals : List Arrival
  /-- peers' arrivals that await a phase change: flit, address, leaf, phase found -/
  barWaits : List (Flit × Nat × Leaf × Bool)
  /-- migrations by column, and each column's redirect table: source core and request (07 R198, R199) -/
  migs : Map Mig
  redirs : Map (List (Nat × Nat))
  /-- logic layers evacuated or evacuating: 4 · tower + layer (07 R206) -/
  evac : List Nat
  /-- the journal: commands by queue · 2^32 + sequence -/
  cmds : Map Cmd
  /-- decrements for commands not yet accepted: the finished command, or none for the host's, and the target (03 R69) -/
  pendDec : List (Option Nat × Nat)
  /-- releases that wait for pending-decrement space: the finished command, or none, and its target -/
  relWait : List (Option Nat × Nat)
  /-- queue served last, for round-robin (03 R68) -/
  lastQueue : Nat
  copy : Option Copy
  /-- started bulk copies waiting for the copy engine, in start order -/
  copyQueue : List Nat
  /-- timed copies inserted and not yet accepted: command, entry, slot's DTC, the instance to await (03 R84, R86) -/
  ttIns : List (Nat × Nat × Nat × Option Nat)
  /-- timed entries: the latest instance, and the pre-empted one (03 R84, R85) -/
  ttPrev : Map Nat
  ttPre : Map Nat
  /-- slot the table last fired for (03 R87) -/
  ttSlot : Nat
  /-- key slots being loaded, with their new material (03 R92) -/
  keyLoads : List (Nat × Nat)
  spdm : Spdm
  out : List OutMsg
  /-- lines whose back-invalidate snoop the host has not answered, and whether it was BISnpInv (02 R37) -/
  bi : List (Nat × Bool)
  /-- sensors by class · 2^20 + index; unlisted reads its reset (01 R20) -/
  sensors : Map Sensor
  hbmStacks : Map Stack
  /-- bytes of the firmware window 0x1000_0000 that are not 0, by offset (03 R89) -/
  image : List Host.Cell
  /-- flits delivered: source, stream, tag (02 R44) -/
  seen : List (Nat × Nat × Nat)
  /-- agents whose caches are to be reported swept: index (02 R47) -/
  joining : List Nat
  /-- peer packages on the fabric, which come from outside, and sweeps they have reported: agent and package (02 R49) -/
  peers : List Nat
  sweeps : List (Nat × Nat)
  /-- configured IDE streams of the host link, and whether each has keys (02 R33) -/
  ide : List Bool
  /-- windows of the HDM decoder, which firmware programs: base and length (02 R37) -/
  hdm : List (Nat × Nat)
  /-- thermal halt (01 R25) -/
  thermal : Bool
  /-- completion-tree counts by slot · 1,024 + node: 0 package, 1 + t towers, 4 + 12t + k clusters, 32 + c columns -/
  tree : Map Nat
  /-- count changes on their way to a node, oldest first: slot · 1,024 + node, and whether it rises (06 R177) -/
  treeMsgs : List (Nat × Bool)
  /-- black-box records by place in the ring (03 R93) -/
  bbox : Map BBRec
  /-- MSI-X vectors sent, oldest first (03 R88) -/
  msix : List Nat
  /-- device time counter (02 R53) -/
  dtc : Word64
  /-- HALTST.HALTED (18 R519) -/
  halted : Bool
  /-- soft errors not yet met, which come from outside (01 R29) -/
  strikes : List Strike
  /-- the model's: number of the next free value -/
  freeCount : Nat
  /-- the model's: events that are due, oldest first -/
  agenda : List Instr
  /-- the model's: the group whose instruction is executing -/
  cur : Option Cur
  /-- the model's: the core that issues next -/
  turn : Nat
  /-- the model's: whether cores go before work of engines that goes on in the background -/
  flip : Bool
  deriving DecidableEq, Repr

/-- The part after a cold reset (03 R57) with the HMODE pin low (DESIGN CHOICE, log 6). Registers whose
reset value the spec does not give are 0 (DESIGN CHOICE, log 5), and all links are up (DESIGN CHOICE, log 7). -/
def State.reset : State where
  mem := []
  poison := []
  keyTags := []
  dead := []
  keys := [(0, 1)]
  leaves := []
  walks := []
  parks := []
  parkWait := []
  frecs := []
  noparks := []
  hists := []
  l1 := []
  home := []
  reqs := []
  held := []
  peerOut := []
  flits := []
  links := []
  tags := []
  hostErrors := []
  bankCmds := []
  rets := []
  reqNo := 0
  groups := []
  cores := []
  bte := []
  blocks := []
  blockNo := 0
  launches := []
  futures := []
  mgmt := []
  engines := []
  entNo := 0
  dealtTo := []
  transit := []
  moves := []
  saves := []
  goats := []
  arrivals := []
  barWaits := []
  migs := []
  redirs := []
  evac := []
  cmds := []
  pendDec := []
  relWait := []
  lastQueue := 0
  copy := none
  copyQueue := []
  ttIns := []
  ttPrev := []
  ttPre := []
  ttSlot := 0
  keyLoads := []
  spdm := ⟨0, false, false⟩
  out := []
  bi := []
  sensors := []
  hbmStacks := []
  image := []
  seen := []
  joining := []
  peers := []
  sweeps := []
  ide := []
  hdm := []
  thermal := false
  tree := []
  treeMsgs := []
  bbox := []
  msix := []
  dtc := 0
  halted := false
  strikes := []
  freeCount := 0
  agenda := []
  cur := none
  turn := 0
  flip := false

end Sys2Proof.Machine
end

