-- ==== Sys2Proof/Machine/Ops.lean ====
section
/-! DEFINITION. Named operations over registers, lanes, counters and memory bytes, and the taking of a trap and the
return from one (09 R242-R264). -/

namespace Sys2Proof.Machine

/-! ### Cores, towers, groups -/

/-- Key of a group slot on a core. -/
def gkey (core slot : Nat) : Nat := core * 64 + slot
def keyCore (k : Nat) : Nat := k / 64
def keySlot (k : Nat) : Nat := k % 64
/-- Column of a core (01 R14). -/
def coreCol (core : Nat) : Nat := core / 4
def coreLayer (core : Nat) : Nat := core % 4
/-- Tower of a column. -/
def colTower (c : Nat) : Nat := if c < 192 then 0 else 1
/-- Cluster engine key of a column: 12 · tower + cluster. -/
def colEngine (c : Nat) : Nat := c / 16

def coreOf (s : State) (c : Nat) : Core := mgetD s.cores c Core.reset
def setCore (s : State) (c : Nat) (x : Core) : State := { s with cores := mset s.cores c x }
def updCore (s : State) (c : Nat) (f : Core → Core) : State := setCore s c (f (coreOf s c))

def groupOf (s : State) (k : Nat) : Option Group := mget s.groups k
def setGroup (s : State) (k : Nat) (g : Group) : State := { s with groups := mset s.groups k g }
def updGroup (s : State) (k : Nat) (f : Group → Group) : State := { s with groups := mupd s.groups k f }
def blockOf (s : State) (b : Nat) : Option Block := mget s.blocks b
def setBlock (s : State) (b : Nat) (x : Block) : State := { s with blocks := mset s.blocks b x }
def updBlock (s : State) (b : Nat) (f : Block → Block) : State := { s with blocks := mupd s.blocks b f }
def launchOf (s : State) (l : Nat) : Option Launch := mget s.launches l
def updLaunch (s : State) (l : Nat) (f : Launch → Launch) : State := { s with launches := mupd s.launches l f }
def btesOf (s : State) (c : Nat) : List BteReq := mgetD s.bte c []
def setBtes (s : State) (c : Nat) (l : List BteReq) : State :=
  { s with bte := if l.isEmpty then mdel s.bte c else mset s.bte c l }

def engineOf (s : State) (k : Nat) : Engine := mgetD s.engines k Engine.reset
def updEngine (s : State) (k : Nat) (f : Engine → Engine) : State := { s with engines := mset s.engines k (f (engineOf s k)) }
/-- The kernel a block runs: its launch's, by gang member (06 R170). -/
def kernelOf (s : State) (b : Block) : Option Kernel := (launchOf s b.launch).bind (fun l => l.kernels[b.member]?)

/-- Launch slot of a group. -/
def groupLaunch (s : State) (g : Group) : Nat := (blockOf s g.block).elim 0 (·.launch)

/-- Append events that have fallen due. -/
def due (s : State) (es : List Instr) : State := { s with agenda := s.agenda ++ es }

/-- The next free value, and the state after drawing it. -/
def drawFree (s : State) : Word64 × State := (Config.freeValue s.freeCount, { s with freeCount := s.freeCount + 1 })
/-- The next free choice. -/
def drawChoice (s : State) : Bool × State := (Config.freeChoice s.freeCount, { s with freeCount := s.freeCount + 1 })

/-- DTC some nanoseconds on: it never decreases (02 R53, R54). -/
def dtcAfter (s : State) (n : Nat) : Word64 := w64 (min (s.dtc.toNat + n) (2 ^ 64 - 1))

/-- Read DTC: time moves forward by an amount the model leaves free (02 R53). -/
def readDtc (s : State) : Word64 × State :=
  let t := dtcAfter s (Config.elapsed s.freeCount)
  (t, { s with dtc := t, freeCount := s.freeCount + 1 })

/-! ### Counters and management registers -/

/-- Reset value of a management register, where it is not 0: CQCFG, time-triggered entries, COLBGT, FQCFG, DSCFG, SDCFG,
SDWT, TKCFG, L2QUOTA (03 R59, R83; 01 R17; 04 R124; 06 R161; 07 R208; 08 R240; 10 R295). -/
def regDefault (a : Nat) : Nat :=
  match a / 65536 with
  | 1 => if a % 64 = 0x18 && a < 0x11000 then 6 else 0
  | 2 => if 0x21000 ≤ a && a < 0x22000 && a % 16 = 8 then 2 ^ 32 else 0
  | 4 => if a < 0x40600 then 560 else 0
  | 9 => if a = 0x90010 || a = 0x90110 then 0x040A else 0
  | 11 => if a = 0xB0000 || a = 0xB0400 then 0x2008 else 0
  | 12 => if a = 0xC0000 || a = 0xC0400 then 0x400007 else if a = 0xC0008 || a = 0xC0408 then 0x00121344 else 0
  | 13 => if a = 0xD0000 || a = 0xD0400 then 0x401 else 0
  | 15 => if a = 0xF0000 || a = 0xF0400 then 0x31910 else 0
  | _ => 0

/-- A management register; one that is not listed has its reset value. -/
def mreg (s : State) (a : Nat) : Nat := mgetD s.mgmt a (regDefault a)
def setMreg (s : State) (a v : Nat) : State :=
  { s with mgmt := if v = regDefault a then mdel s.mgmt a else mset s.mgmt a v }
/-- The firmware runs: until then the device answers only reads, FWGO and DEVRST (03 R89). -/
def fwRunning (s : State) : Bool := field (mreg s 0x80004) 31 30 == 2
/-- Add to a 64-bit counter. (DEDUCED, log 55) -/
def bump (s : State) (a n : Nat) : State := setMreg s a ((mreg s a + n) % 2 ^ 64)
/-- Set bits of a status register. -/
def setBits (s : State) (a bits : Nat) : State := setMreg s a (mreg s a ||| bits)

/-- Count an event on a core's PERF registers (18 R516). -/
def countPerf (s : State) (core ev n : Nat) : State :=
  let c := coreOf s core
  if c.perfsel.isEmpty then s
  else
    setCore s core { c with
      perf := foldUpto (fun p i =>
        let sel := nget c.perfsel i
        if sel.testBit 31 && sel % 256 == ev && ev != 0 then nset p i ((nget p i + n) % 2 ^ 64) else p) c.perf 16 }

/-- Tower counters by name: bases of 09 R266, 10 R295, 11 R329, 08 R240, 06 R161, 07 R208. -/
def aCore (t off : Nat) : Nat := 0xE0000 + 0x400 * t + off
def aBte (t off : Nat) : Nat := 0xF0000 + 0x400 * t + off
def aCoh (t off : Nat) : Nat := 0x100000 + 0x400 * t + off
def aTask (t off : Nat) : Nat := 0xD0000 + 0x400 * t + off
def aDist (t off : Nat) : Nat := 0xB0000 + 0x400 * t + off
def aSheep (t off : Nat) : Nat := 0xC0000 + 0x400 * t + off
def aFault (t off : Nat) : Nat := 0x90000 + 0x100 * t + off

/-- One MSI-X message of an event class, with its EVSTAT bit (03 R88). (DEDUCED, log 56) (DEDUCED, log 93) -/
def raiseEvent (s : State) (cls : Nat) : State :=
  let s := setBits s 0x30100 (2 ^ cls)
  { s with msix := s.msix ++ [field (mreg s (0x30000 + 4 * cls)) 5 0] }

/-- The ring is in stop mode and holds 4,096 records when its count is n (03 R93). -/
def bbFull (s : State) (n : Nat) : Bool :=
  (mreg s 0x60000).testBit 0 && (n + 2 ^ 32 - mreg s 0x60008) % 2 ^ 32 == 4096

/-- Append a black-box record, or refuse it in stop mode when full (03 R93). (PRESUMED, log 53) -/
def blackBox (s : State) (code cls index data : Nat) : State :=
  let d := readDtc s
  let f := drawFree d.2
  let n := mreg s 0x60004
  if bbFull s n then setMreg f.2 0x6000C (min (mreg s 0x6000C + 1) (2 ^ 32 - 1))
  else
    let r := setMreg { f.2 with
      bbox := mset s.bbox (n % 4096) ⟨d.1, code, cls, f.1.toNat % 4, index, data⟩
      strikes := s.strikes.filter (fun x => x.place != .blackBox (n % 4096)) } 0x60004
      ((n + 1) % 2 ^ 32)
    if bbFull s (n + 1) then raiseEvent r 8 else r

/-! ### Registers of a group -/

/-- Scalar register n (09 R243). -/
def sreg (g : Group) (n : Nat) : Nat := nget g.sregs n % 2 ^ 64
def setSreg (g : Group) (n v : Nat) : Group := { g with sregs := nset g.sregs n (v % 2 ^ 64) }
/-- Vector register n: an unmapped register reads 0 (09 R250). -/
def vreg (g : Group) (n : Nat) : Row := mgetD g.vregs n 0
def setVreg (g : Group) (n : Nat) (r : Row) : Group := { g with vregs := mset g.vregs n r }
/-- Predicate n: p0 reads as all-true (00 R12). -/
def preg (g : Group) (n : Nat) : LaneMask := if n = 0 then BitVec.allOnes 64 else w64 (nget g.preds n)
/-- A write of p0 is discarded (14 R393). -/
def setPreg (g : Group) (n : Nat) (m : LaneMask) : Group :=
  if n = 0 then g else { g with preds := nset g.preds n m.toNat }
/-- Write lanes of a mask of vector register n, mapping its row first (09 R250). -/
def writeLanes (g : Group) (n : Nat) (m : LaneMask) (f : Nat → Word) : Group :=
  setVreg g n (blendRow m f (vreg g n))
/-- Unmap a register row (09 R251). -/
def unmapRow (g : Group) (n : Nat) : Group := { g with vregs := mdel g.vregs n }
def laneAt (g : Group) (l : Nat) : Lane := (g.lanes[l]?).getD ⟨0, 0, false, 0⟩
/-- Change every lane of a group. -/
def mapLanes (g : Group) (f : Nat → Lane → Lane) : Group :=
  { g with lanes := (List.range g.lanes.length).map (fun l => f l (laneAt g l)) }
/-- The live lanes. -/
def liveMask (g : Group) : LaneMask := maskOf (fun l => (laneAt g l).live)
def queueAt (g : Group) (q : Nat) : Queue := (g.queues[q]?).getD ⟨[], [], false⟩
def setQueue (g : Group) (q : Nat) (x : Queue) : Group := { g with queues := lset g.queues q x }

/-- The group is privileged (18 R496). -/
def privileged (s : State) (g : Group) : Bool :=
  g.super || (match blockOf s g.block with
    | none => false
    | some b => b.priv || ((launchOf s b.launch).elim false (·.handler)))

/-! ### Lane selection (09 R245, R246) -/

/-- The lanes that hold and release concern: the handler's lanes while one runs, else all. -/
def pool (g : Group) : LaneMask :=
  match g.handler with
  | none => liveMask g
  | some h => liveMask g &&& h.lanes &&& ~~~h.returned

/-- A lane is held at its meeting register (R246). -/
def heldAt (g : Group) (l : Nat) : Bool :=
  let x := laneAt g l
  x.live && x.meet != 0 && x.pc == x.meet

/-- Release every meeting point at which all its live lanes are held (R246). -/
def releaseHeld (g : Group) : Group :=
  let ls := laneList (pool g)
  mapLanes g (fun l x =>
    if inMask (pool g) l && heldAt g l &&
        ls.all (fun j => (laneAt g j).meet != x.meet || heldAt g j) then { x with meet := 0 } else x)

/-- Candidate lanes: live and not held (R245). -/
def candidates (g : Group) : LaneMask := maskOf (fun l => inMask (pool g) l && !heldAt g l)

/-- The lowest program counter among the lanes of a mask. -/
def lowestPc (g : Group) (m : LaneMask) : Nat :=
  (laneList m).foldl (fun a l => min a (laneAt g l).pc.toNat) (2 ^ 64)

/-- Start a run: hold and release, then the lowest program counter and its lanes (R245). -/
def startRun (g : Group) : Group :=
  let g := releaseHeld g
  let c := candidates g
  let p := lowestPc g c
  { g with
    run := some ⟨maskOf (fun l => inMask c l && (laneAt g l).pc.toNat == p), w64 p, 0, 0, none⟩,
    status := .issuing, yielded := false }

/-- Lanes whose release the group counts (19: PERF 0x19). -/
def releases (g : Group) : Nat := laneCount (maskOf (fun l => (laneAt g l).meet != 0 && (laneAt (releaseHeld g) l).meet == 0))

/-! ### Completion trees (06 R177, R178) -/

/-- Nodes: 0 package, 1 + tower, 4 + 12 · tower + cluster, 32 + column. -/
def nodeTower (t : Nat) : Nat := 1 + t
def nodeCluster (k : Nat) : Nat := 4 + k
def nodeColumn (c : Nat) : Nat := 32 + c
def nodeParent (n : Nat) : Nat := if n ≥ 32 then 4 + (n - 32) / 16 else if n ≥ 4 then 1 + (n - 4) / 12 else 0

/-- A count rises by n items at a node; its parent is told when it rises from zero (06 R177). -/
def treeAdd (s : State) (slot node n : Nat) : State :=
  let k := slot * 1024 + node
  let old := nget s.tree k
  let s := { s with tree := nset s.tree k (old + n) }
  if old = 0 && n ≠ 0 && node ≠ 0 then due { s with treeMsgs := s.treeMsgs ++ [(k, true)] } [.completionTreeUpdate] else s

/-- A count falls; its parent, or for the package the command processor, is told when it falls to zero. -/
def treeSub (s : State) (slot node n : Nat) : State :=
  let k := slot * 1024 + node
  let old := nget s.tree k
  let s := { s with tree := nset s.tree k (old - n) }
  if old ≠ 0 && old ≤ n then due { s with treeMsgs := s.treeMsgs ++ [(k, false)] } [.completionTreeUpdate] else s

/-- Items move from a node to another: the increment first, the decrement when it is acknowledged (06 R178). -/
def treeMove (s : State) (slot a b n : Nat) : State :=
  if a = b then s
  else due { treeAdd s slot b n with moves := s.moves ++ [(slot * 1024 + a, n)] } [.itemMoveAck]

/-! ### Future entries (08 R215-R219) -/

def Future.freeAt (tag : Nat) : Future := ⟨.free, 0, tag, 0, 0, 0⟩
def futOf (s : State) (k : Nat) : Future := mgetD s.futures k (Future.freeAt 0)
def setFut (s : State) (k : Nat) (f : Future) : State := { s with futures := mset s.futures k f }
/-- An entry becomes FREE and its tag increases (08 R216). -/
def freeFut (s : State) (k : Nat) : State := setFut s k (Future.freeAt (((futOf s k).tag + 1) % 64))
/-- The entry a handle names (08 R215). -/
def handleEntry (h : Nat) : Nat := (192 * field h 30 30 + field h 29 22) * 1024 + field h 21 12

/-- A group stands at a run boundary, where it can be stopped or reclaimed (06 R181, 08 R225, 18 R498). -/
def atBoundary (g : Group) : Bool :=
  match g.status with
  | .ready => g.run.isNone
  | .waiting (.fget _) | .waiting (.xwait _ _) | .waiting .bar | .waiting .barx | .waiting .push => true
  | _ => false

/-- Where a block's task group is. -/
def taskGroup (s : State) (b : Block) : Option Group :=
  match b.core with
  | some c => (b.slots.head?).bind (fun sl => groupOf s (gkey c sl))
  | none => (b.saved.head?).map (·.2)

/-- A doomed task at a reclamation point, its exit among them, goes to the Goat of its column; a queued or saved one at once;
one in migration at the target (08 R225, 07 R204). -/
def reclaimIf (s : State) (b : Nat) : State :=
  match blockOf s b with
  | none => s
  | some x =>
    let ready := match x.state with
      | .queued | .saved => true
      | .running => (taskGroup s x).elim true atBoundary && !s.migs.any (fun (m : Nat × Mig) => m.2.block == b)
      | _ => false
    match x.task with
    | some e =>
      if ready && (futOf s e).state == .doomed then
        let col := match x.core with
          | some c => coreCol c
          | none => e / 1024
        let l := mgetD s.goats col []
        if l.contains b then s else due { s with goats := mset s.goats col (l ++ [b]) } [.goatReclaim col]
      else s
    | none => s

/-- COUNT falls by n (08 R217, R219). -/
def futSub (s : State) (k n : Nat) : State :=
  let f := futOf s k
  let c := f.count - n
  let f' := { f with count := c }
  if c ≠ 0 || f.state == .free then setFut s k f'
  else
    match f.state with
    | .done => freeFut s k
    | .queued | .running => reclaimIf (setFut s k { f' with state := .doomed }) f.task
    | _ => setFut s k f'

/-- A reference list is released in list order (08 R219, R228). -/
def releaseRefs (s : State) (refs : List (Nat × Nat)) : State :=
  refs.foldl (fun s (r : Nat × Nat) =>
    let k := handleEntry r.1
    if (futOf s k).tag = field r.1 11 6 then futSub s k r.2 else s) s

/-! ### Column budgets (01 R17, 07 R191-R194) -/

def aColbgt (c : Nat) : Nat := 0x40000 + 4 * c
/-- LIMIT, with the bits BADWR and CLAMPED in their places; it resets to 560. -/
def colbgt (s : State) (c : Nat) : Nat := mreg s (aColbgt c)
def colLimit (s : State) (c : Nat) : Nat := colbgt s c % 1024
def colClamped (s : State) (c : Nat) : Bool := (colbgt s c).testBit 26
def colEffect (s : State) (c : Nat) : Nat := if colClamped s c then min (colLimit s c) 392 else colLimit s c
def columnUnits (s : State) (c : Nat) : Nat := colEffect s c * 24 / 35

/-- SDCFG of a tower (07 R208). -/
def sdcfg (s : State) (t : Nat) : Nat := mreg s (aSheep t 0)

/-- cap[k] of R193. -/
def coreCap (s : State) (core : Nat) : Nat :=
  let c := coreOf s core
  if c.clamp then 48 else if c.advCap then 96 else 192

/-- Blocks resident in a column with their identifiers. -/
def columnBlocks (s : State) (col : Nat) : List (Nat × Block) :=
  s.blocks.filter (fun (b : Nat × Block) => b.2.core.elim false (fun c => coreCol c == col))

/-- Blocks resident on a core. -/
def resident (s : State) (core : Nat) : List (Nat × Block) :=
  s.blocks.filter (fun (b : Nat × Block) => b.2.core == some core)

/-- Shares in the order of R193: demand, layer, first slot. -/
def shareOut (units : Nat) : List (Nat × Block) → List (Nat × Nat)
  | [] => []
  | b :: r =>
    let x := min b.2.demand (units / (r.length + 1))
    (b.1, x) :: shareOut (units - x) r

/-- Give a core its allotment; when it changes, VALUE becomes it (07 R189). -/
def setAllot (s : State) (core a : Nat) : State :=
  let c := coreOf s core
  if c.allot = a then s else setCore s core { c with allot := a, value := a, pendValue := none }

/-- Divide a column's units among its blocks, or its cores (R193, R194). -/
def allotColumn (s : State) (col : Nat) : State :=
  let units := columnUnits s col
  if (sdcfg s (colTower col)).testBit 0 then
    let le (a b : Nat × Block) : Bool :=
      let la := a.2.core.getD 0
      let lb := b.2.core.getD 0
      decide (a.2.demand < b.2.demand) || (a.2.demand == b.2.demand &&
        (decide (la < lb) || (la == lb && decide (a.2.slots.headD 0 ≤ b.2.slots.headD 0))))
    let shares := shareOut units (sortBy le (columnBlocks s col))
    let s := shares.foldl (fun s (x : Nat × Nat) => updBlock s x.1 (fun b => { b with share := x.2 })) s
    foldUpto (fun s k =>
      let core := 4 * col + k
      let sum := (resident s core).foldl (fun n (b : Nat × Block) => n + b.2.share) 0
      setAllot s core (min (coreCap s core) sum)) s 4
  else
    foldUpto (fun s k => setAllot s (4 * col + k) (min (coreCap s (4 * col + k)) (units / 4))) s 4

/-- With EN of SDCFG at 0 a column's allotment follows its units and caps at once (R194); else it changes at the next
division (R193). -/
def allotStatic (s : State) (col : Nat) : State := if (sdcfg s (colTower col)).testBit 0 then s else allotColumn s col

/-! ### Ends of blocks and launches (06 R179) -/

/-- Requests that nobody waits for any more leave the park tables; their entries stay until they are released (04 R123, R128). -/
def unpark (s : State) (gone : Who → Bool) : State :=
  { s with
    parks := s.parks.map (fun (e : Nat × Park) => (e.1, { e.2 with members := e.2.members.filter (fun r => !gone r.who) }))
    parkWait := s.parkWait.filter (fun x => !gone x.1.who)
    walks := s.walks.filter (fun w => !gone w.req.who)
    hists := s.hists.filter (fun h => !gone h.1) }

/-- Remove a group from its core; a supervisor that serves it goes with it, and the next frozen group is served (09 R264). -/
def dropGroup (s : State) (k : Nat) : State :=
  let core := keyCore k
  let serving := (coreOf s core).serves == some k
  let s := { s with groups := mdel s.groups k }
  let s := if serving then { s with groups := mdel s.groups (gkey core 32) } else s
  let s := unpark s (fun w => w == .group k || (serving && w == .group (gkey core 32)))
  let s := if serving && (coreOf s core).frozen.any (· != k) then due s [.supervisorStart core] else s
  updCore s core (fun c => { c with
    issuing := if c.issuing = some (keySlot k) then none else c.issuing
    mmas := c.mmas.filter (· != k)
    frozen := c.frozen.filter (· != k)
    serves := if serving then none else c.serves })

/-- The cluster engine of a core looks for a block to place: resources were freed. -/
def placeAgain (s : State) (core : Nat) : State :=
  due s [.blockPlace (colTower (coreCol core)) (colEngine (coreCol core) % 12)]

/-- A BTE transaction is on its way, or its translation: of a launch, or of one request (06 R179, 08 R226). -/
def bteOut (s : State) (p : Who → Nat → Bool) : Bool :=
  let mine (r : Req) : Bool := match r.dest with
    | .bte c i => p (.bte c i 0) r.launch
    | _ => false
  s.reqs.any mine || s.held.any (fun x => mine x.1) || s.peerOut.any (fun x => mine x.2.2.2) ||
  s.rets.any (fun r => match r.dest with
    | .bte c i => p (.bte c i 0) r.launch
    | _ => false)

/-- A block's BTE requests stop; what still answers them is discarded, and their redirect entries are free (08 R226, 06 R179, 07
R199). -/
def dropRequests (s : State) (b : Nat) : State :=
  let mine : List Nat := s.bte.flatMap (fun (e : Nat × List BteReq) => (e.2.filter (fun r => r.block == b)).map (·.id))
  let s := unpark s (fun w => match w with
    | .bte _ i _ => mine.contains i
    | _ => false)
  { s with
    redirs := s.redirs.map (fun (e : Nat × List (Nat × Nat)) => (e.1, e.2.filter (fun x => !mine.contains x.2)))
    bte := s.bte.filterMap (fun (e : Nat × List BteReq) =>
      let l := e.2.filter (fun r => r.block != b)
      if l.isEmpty then none else some (e.1, l)) }

/-- Kicks leave a core's queue without being fetched; what was released after them has fewer before it (10 R276). -/
def dropKicks (s : State) (core : Nat) (gone : Nat × Nat × Nat → Bool) : State :=
  let ks := (coreOf s core).kicks
  let s := setBtes s core ((btesOf s core).map (fun r => { r with gate := ((ks.take r.gate).filter (fun e => !gone e)).length }))
  let s := if ks.any gone && !(btesOf s core).isEmpty then due s [.bteTransactionIssue core] else s
  updCore s core (fun c => { c with kicks := ks.filter (fun e => !gone e) })

/-- Transactions of a core's BTE that are outstanding: on their way, or parked (10 R276, R278 OUT). -/
def bteOutstanding (s : State) (core : Nat) : Nat :=
  (btesOf s core).foldl (fun n r => n + r.parks.length + bit r.stall.isSome) 0

/-- Release a block's core: its groups, queued kicks and requests stop. -/
def releaseCore (s : State) (b : Nat) : State :=
  match blockOf s b with
  | none => s
  | some x =>
    match x.core with
    | none => s
    | some c =>
      let s := x.slots.foldl (fun s sl =>
        match groupOf s (gkey c sl) with
        | some g => if g.block = b then dropGroup s (gkey c sl) else s
        | none => s) s
      let s := dropKicks s c (fun e => e.2.1 == b)
      let s := dropRequests s b
      let s := updBlock s b (fun x => { x with core := none, slots := [] })
      placeAgain (allotColumn s (coreCol c)) c

/-- Give a save slot back (06 R184). -/
def freeSave (s : State) (b : Nat) : State :=
  { s with saves := s.saves.filter (fun (e : Nat × Nat) => e.2 != b) }

/-- Cycles that a block spent in DEFER, HOLD or DRAIN are counted at its core, in base-die cycles: 1.8 a nanosecond (07 R209). -/
def leaveDefer (s : State) (m : Mig) : State :=
  match m.state with
  | .defer | .hold | .drain =>
    let (t, s) := readDtc s
    countPerf s m.source 0x36 ((t.toNat - m.since) * 9 / 5)
  | _ => s

/-- Cancel a block's migration: its target's reservation is released (07 R205). -/
def cancelMig (s : State) (b : Nat) : State :=
  let s := (s.migs.filter (fun (e : Nat × Mig) => e.2.block == b)).foldl (fun s (e : Nat × Mig) => leaveDefer s e.2) s
  { s with migs := s.migs.filter (fun (e : Nat × Mig) => e.2.block != b) }

/-- A killed block's groups release what they refer to, and a task's own entry is freed. -/
def killRefs (s : State) (b : Nat) : State :=
  match blockOf s b with
  | none => s
  | some x =>
    let gs := x.core.elim [] (fun c => x.slots.filterMap (fun sl => (groupOf s (gkey c sl)).filter (·.block == b))) ++
      x.saved.map (fun (e : Nat × Group) => e.2)
    let s := gs.foldl (fun s (g : Group) => releaseRefs s g.refs) s
    match x.task with
    | some e => if (futOf s e).task = b && (futOf s e).state != .free then freeFut s e else s
    | none => s

/-- A block is no longer a victim (06 R180). -/
def clearVictim (s : State) (b : Nat) : State :=
  { s with engines := s.engines.map (fun (e : Nat × Engine) => (e.1, { e.2 with victims := e.2.victims.filter (· != b) })) }

/-- A block or task leaves the machine. -/
def dropBlock (s : State) (b : Nat) : State :=
  let s := clearVictim (cancelMig (freeSave (releaseCore s b) b) b) b
  { s with
    blocks := mdel s.blocks b
    goats := s.goats.map (fun (e : Nat × List Nat) => (e.1, e.2.filter (· != b))) }

/-- The launch of an engine's access under way (08 R233-R239): a steal attempt's, else that of the first binding, store or
claim. -/
def Engine.busyFor (e : Engine) : Option Nat :=
  match e.steal, e.jobs, e.stores with
  | some x, _, _ => some x.launch
  | none, j :: _, _ => some j.launch
  | none, [], x :: _ => some x.1
  | none, [], [] => e.claim.map (·.1)

/-- An engine forgets the access it had under way. -/
def Engine.quiet (e : Engine) : Engine := { e with waiting := none, walked := none, answer := none }

/-- An engine gives up the return of a tile under way (08 R239). -/
def Engine.dropReturn (e : Engine) : Engine := match e.jobs with
  | j :: r => if 4 ≤ j.phase then { e.quiet with jobs := r } else e
  | [] => e

/-- The return of a tile of a failed thief: launch, member's package, its launch, tile queue and tile; `asked` when the steal's own swap
is still to be answered (08 R239). -/
def returnJob (slot pkg : Nat) (cmd : Word) (tiles tile : Nat) (asked : Bool) : BindJob :=
  ⟨slot, cmd.toNat, 0, pkg, tiles, 0, if asked then 5 else 4, tile⟩

/-- The tile whose steal an engine's failed launch has under way: its swap has been made, or its answer is awaited (08 R235, R239). -/
def stealReturn (slot : Nat) (e : Engine) : Option (Bool × BindJob) :=
  match e.steal with
  | some x =>
    if x.launch ≠ slot then none
    else if x.phase = 7 && x.old / 2 ^ 62 == 0 && field x.old 55 48 == x.pkg && field x.old 23 0 == x.entry then
      some (false, returnJob slot x.pkg x.cmd x.tiles x.entry false)
    else if x.phase = 6 && e.waiting.elim e.answer.isSome (fun w => decide (6000 ≤ w)) then
      some (true, returnJob slot x.pkg x.cmd x.tiles x.entry true)
    else none
  | none => none

/-- Pending entries of a launch are dropped everywhere (06 R179). -/
def dropEntries (s : State) (slot : Nat) : State :=
  { s with
    engines := s.engines.map (fun (e : Nat × Engine) =>
      let gone (id : Nat) : Bool := e.2.entries.any (fun q => q.id == id && q.launch == slot)
      let back := stealReturn slot e.2
      (e.1, { (if e.2.busyFor == some slot && !back.elim false (·.1) then e.2.quiet else e.2) with
        entries := e.2.entries.filter (fun q => q.launch != slot)
        placing := e.2.placing.filter (fun p => !gone p.ent)
        claim := e.2.claim.filter (fun c => c.1 != slot)
        jobs := (back.map (·.2)).toList ++ e.2.jobs.filter (fun j => j.launch != slot)
        stores := e.2.stores.filter (fun x => x.1 != slot)
        steal := e.2.steal.filter (fun x => x.launch != slot) }))
    dealtTo := s.dealtTo.filter (fun (e : Nat × QEnt) => e.2.launch != slot)
    transit := s.transit.filter (fun (e : Nat × Nat × QEnt) => e.2.2.launch != slot)
    arrivals := s.arrivals.filter (fun a => a.launch != slot || (match a.who with | .peer _ => true | _ => false)) }

/-- A fault-handler launch that is no longer current frees its slot once no block of it remains (04 R127). -/
def handlerGone (s : State) (slot : Nat) : State :=
  match launchOf s slot with
  | some l =>
    if l.handler && !l.current && s.blocks.all (fun (b : Nat × Block) => b.2.launch != slot) then due s [.slotFree slot] else s
  | none => s

/-- A launch finishes with an error status: its pending entries are dropped and its resident blocks killed (06 R179); a
record is written for the status (03 R74). A fault-handler launch loses its blocks only (04 R127).
(DEDUCED, log 72) -/
def killLaunch (s : State) (slot status : Nat) : State :=
  match launchOf s slot with
  | none => s
  | some l =>
    if l.ended.isSome then s
    else
      let s := blackBox s 0x30 4 (field l.cmd.toNat 31 26) status
      let s := if l.handler then s else updLaunch s slot (fun l => { l with ended := some status })
      let busy : List Nat := (s.engines.filter (fun (e : Nat × Engine) => e.2.busyFor == some slot)).map (·.1)
      let s := unpark (dropEntries s slot) (fun w => match w with
        | .engine k => busy.contains k
        | _ => false)
      let mine := s.blocks.filter (fun (b : Nat × Block) => b.2.launch = slot)
      let s := mine.foldl (fun s (b : Nat × Block) => killRefs s b.1) s
      -- tiles it has stolen and not finished go back (08 R239)
      let s := mine.foldl (fun s (b : Nat × Block) =>
        match b.2.stolen with
        | some x => if x.phase < 3 then updEngine s x.engine (fun e =>
            { e with jobs := e.jobs ++ [returnJob slot x.pkg x.cmd x.tiles b.2.index false] }) else s
        | none => s) s
      let s := mine.foldl (fun s (b : Nat × Block) => dropBlock s b.1) s
      let s := due s ((s.engines.filter (fun (e : Nat × Engine) => e.2.jobs.any (fun j => j.launch == slot))).map (fun e =>
        .tileClaim (e.1 / 12) (e.1 % 12)))
      if l.handler then handlerGone s slot else due s [.slotFree slot]

/-- A trap fatal to a block of a fault-handler launch kills that block only (04 R127). -/
def killBlock (s : State) (b : Nat) : State :=
  match blockOf s b with
  | none => s
  | some x =>
    let node := match x.core with
      | some c => nodeColumn (coreCol c)
      | none => 0
    let s := dropBlock (killRefs s b) b
    handlerGone (treeSub s x.launch node 1) x.launch

/-- The launch of a block finishes with a status, or only the block when the launch is a fault handler's (04 R127);
`code` is the record beside that of the status, 0 for none. -/
def failBlock (s : State) (b status code : Nat) : State :=
  match blockOf s b with
  | none => s
  | some x =>
    let s := if code ≠ 0 then blackBox s code 4 x.launch status else s
    match launchOf s x.launch with
    | some l => if l.handler then blackBox (killBlock s b) 0x30 4 x.launch status else killLaunch s x.launch status
    | none => s

/-- A launch receives a machine-check (01 R29, R31). -/
def machineCheck (s : State) (slot : Nat) : State := raiseEvent (killLaunch s slot 2) 2

/-! ### Traps (09 R258-R264) -/

/-- A trap about to be taken: cause, subcode, trapping lane, TMASK, TADDR. -/
structure TrapInfo where
  cause : Nat
  sub : Nat
  lane : Nat
  mask : LaneMask
  addr : Nat
  deriving DecidableEq, Repr, Inhabited

/-- The causes and subcodes that run no handler in any case (R260, 04 R119). -/
def fatalTrap (t : TrapInfo) : Bool :=
  t.cause == 0x1C || t.cause == 0x1F || fatalFault t
where
  /-- a translation fault that is fatal to the launch: of a parking kind, at a package whose fault unit posts none (04 R106, R119,
  R125) -/
  fatalFault (t : TrapInfo) : Bool := t.cause == 0x10 && [0x05, 0x06, 0x07, 0x09, 0x0E].contains t.sub

/-- The lanes of a mask enter the trap handler; every lane's meeting register is kept by the core (R260). -/
def enterHandler (g : Group) (r : Run) (entry : Word64) (tr : Trap) : Group :=
  let g := mapLanes g (fun l x =>
    if inMask tr.mask l then { x with kept := x.meet, pc := entry, meet := 0 } else { x with kept := x.meet })
  { g with
    trap := tr
    handler := some ⟨tr.mask, 0, r.active, r.count, g.latch⟩
    latch := []
    exempt := 2048
    parkFail := false
    fetchFail := none
    peerWait := none
    walked := none
    parkHist := none
    paid := false
    mctx := g.mctx.map (fun m => { m with exempt := false })
    run := none
    status := .ready }

/-- Take a trap of the group under key k (R258-R264). -/
def takeTrap (s : State) (k : Nat) (t : TrapInfo) : State :=
  match groupOf s k with
  | none => s
  | some g =>
    match g.run with
    | none => s
    | some r =>
      let core := keyCore k
      let tw := colTower (coreCol core)
      let tpc := match r.pre with
        | some (_, a) => a
        | none => r.pc
      let tr : Trap := ⟨BitVec.ofNat 8 t.cause, BitVec.ofNat 8 t.sub, t.lane, t.mask, tpc, w64 t.addr⟩
      let s := countPerf s core 0x18 1
      let s := if t.cause = 0x18 then countPerf s core 0x73 1 else s
      let s := if t.cause = 0x08 then bump (countPerf s core 0x56 1) (aBte tw 0x20) 1 else s
      let s := updCore s core (fun c => { c with issuing := none })
      let entry := ((blockOf s g.block).bind (kernelOf s)).elim 0 (·.trapEntry)
      if g.super then
        -- a trap inside a supervisor group (R264): a double fault that finishes the launch (R263, R266)
        let s := bump (bump s (aCore tw 0x10) 1) (aCore tw 0x18) 1
        let s := match (coreOf s core).serves with
          | some fk => (match groupOf s fk with
            | some fg => failBlock s fg.block 1 0
            | none => s)
          | none => s
        let s := updCore (dropGroup s k) core (fun c => { c with serves := none })
        if (coreOf s core).frozen.isEmpty then s else due s [.supervisorStart core]
      else if g.handler.isSome && !fatalTrap.fatalFault t then
        -- double fault (R263)
        let s := bump s (aCore tw 0x18) 1
        let s := setGroup s k { g with status := .frozen 0x1F, trap2 := some tr, run := none }
        let s := updCore s core (fun c => { c with frozen := c.frozen ++ [k] })
        due s [.supervisorStart core]
      else if fatalTrap t || entry = 0 then
        let s := bump s (aCore tw 0x10) 1
        let s := setGroup s k { g with trap := tr }
        failBlock s g.block 1 0
      else
        let s := bump s (aCore tw 0x08) 1
        setGroup s k { enterHandler g r entry tr with since := (coreOf s core).cycles }

/-- A handler ends: live handler lanes take TPC, kept meeting registers are restored, and the trapped instruction
resumes from lane TLANE (R261). -/
def endHandler (g : Group) (h : Handler) : Group :=
  let g := mapLanes g (fun l x =>
    { x with pc := if inMask h.lanes l && x.live then g.trap.pc else x.pc, meet := x.kept })
  { g with
    handler := none
    latch := h.latch
    exempt := 0
    run := if h.active &&& liveMask g = 0 then none else some ⟨h.active &&& liveMask g, g.trap.pc, h.count, g.trap.lane, none⟩
    status := .ready }

end Sys2Proof.Machine
end

