-- ==== Sys2Proof/Machine/Flags.lean ====
section
/-! DEFINITION. FRND and its flags (13 R384-R386), the way an instruction rounds (13 R346, R381), and the activity an
instruction charges (07 R186-R188). -/

namespace Sys2Proof.Machine

/-- FRND as csrr reads it (13 R386). -/
def frndBits (f : Frnd) : Nat :=
  f.seed.toNat * 2 ^ 32 + f.scnt.toNat * 2 ^ 16 + f.ten.toNat * 2 ^ 11 + f.flg.toNat * 2 ^ 6 + f.rm.toNat

/-- FRND from a written value; RM 110 and 111 discard the write (13 R386). -/
def frndOf (old : Frnd) (v : Nat) : Frnd :=
  if v % 8 ≥ 6 then old
  else ⟨BitVec.ofNat 32 (v / 2 ^ 32), BitVec.ofNat 16 (v / 2 ^ 16), BitVec.ofNat 5 (v / 2 ^ 11), BitVec.ofNat 5 (v / 2 ^ 6),
    BitVec.ofNat 3 v⟩

/-- The rounding, saturation and flushing in force: the prefix's, or FRND's rounding (13 R346). `ahead` is 1 in the
second instruction of a pair whose first rounds stochastically (13 R381). -/
def fpEnv (g : Group) (pre : Option Pfx) (ahead : Nat) : FpEnv :=
  match pre with
  | some p => ⟨p.round.toNat, p.sat.toNat, p.flush, g.frnd.seed.toNat, (g.frnd.scnt.toNat + ahead) % 65536⟩
  | none => ⟨g.frnd.rm.toNat, 0, false, g.frnd.seed.toNat, (g.frnd.scnt.toNat + ahead) % 65536⟩

/-- Set sticky flags (13 R385). -/
def raiseFlags (g : Group) (f : Nat) : Group :=
  { g with frnd := { g.frnd with flg := g.frnd.flg ||| BitVec.ofNat 5 f } }

/-- Advance SCNT by the instructions that rounded stochastically (13 R381). -/
def addScnt (g : Group) (n : Nat) : Group :=
  { g with frnd := { g.frnd with scnt := g.frnd.scnt + BitVec.ofNat 16 n } }

/-- The weight in force of an activity class (07 R190); class 6 is 0. -/
def weight (c : Core) (cls : Nat) : Nat := if cls = 6 then 0 else field c.wtab.toNat (4 * cls + 3) (4 * cls)

/-- VALUE in force: 48 while a throttle clamp holds (07 R189, 01 R23, R24). -/
def budgetValue (s : State) (core : Nat) : Nat :=
  let c := coreOf s core
  if c.clamp then 48 else c.value

/-- A weighted issue is refused: CHARGE has reached VALUE and no exemption remains (07 R187, R188). -/
def refused (s : State) (core : Nat) (g : Group) (units : Nat) : Bool :=
  units != 0 && g.exempt == 0 && decide (budgetValue s core ≤ (coreOf s core).charge)

/-- Charge units to a core and to the block of group k. -/
def chargeCore (s : State) (k units : Nat) : State :=
  match groupOf s k with
  | none => s
  | some g =>
    if units = 0 then s
    else
      let s := updCore s (keyCore k) (fun c => { c with charge := c.charge + units })
      updBlock s g.block (fun b => { b with units := b.units + units })

/-- Charge units: from the exemption while it lasts, its excess to CHARGE (07 R188). -/
def chargeUnits (s : State) (k : Nat) (units : Nat) : State :=
  match groupOf s k with
  | none => s
  | some g =>
    let fromEx := min g.exempt units
    let s := if fromEx = 0 then s else setGroup s k { g with exempt := g.exempt - fromEx }
    let s := countPerf s (keyCore k) 0x32 fromEx
    chargeCore s k (units - fromEx)

/-! ### The cycles of a core, and its matrix unit's busy cycles (17 R478, R479) -/

/-- K of one `mma` (13 R374). -/
def mmaK : EFmt → Nat
  | .vf4 | .h4 => 128
  | .bf16 | .f16 => 32
  | _ => 64
/-- Busy cycles of one k-block: 64 for a row group (17 R479). (DEDUCED, log 16) -/
def kbCycles (f : EFmt) : Nat := 512 / mmaK f
/-- Activity class of a busy cycle (07 R186). -/
def mmaClass : EFmt → Nat
  | .vf4 | .h4 => 1
  | .bf16 | .f16 => 2
  | _ => 0
/-- The row group under way: the first with k-blocks left (17 R479). -/
def nextRowGroup (m : MCtx) : Option Nat := (List.range 4).find? (fun r => decide ((m.done[r]?).getD 0 < mmaK m.fmt / 8))

/-- An `mma` after one more busy cycle in a row group; its k-block completes with the last of its cycles. -/
def oneBusy (m : MCtx) (rg : Nat) : MCtx :=
  if m.part + 1 < kbCycles m.fmt then { m with part := m.part + 1 }
  else { m with part := 0, done := lset m.done rg ((m.done[rg]?).getD 0 + 1) }

/-- Charge a busy cycle: an `mma` issued inside a trap handler draws on the exemption (07 R188, 18 R526). -/
def chargeBusy (s : State) (k : Nat) (m : MCtx) : State :=
  let units := weight (coreOf s (keyCore k)) (mmaClass m.fmt)
  let s := countPerf s (keyCore k) 0x91 1
  if m.exempt then chargeUnits s k units else chargeCore s k units

/-- Busy cycles an `mma` has left. -/
def mmaLeft (m : MCtx) : Nat :=
  ((List.range 4).foldl (fun n r => n + (mmaK m.fmt / 8 - (m.done[r]?).getD 0)) 0) * kbCycles m.fmt - m.part

/-- A migration takes the `mma` as it stands at a k-block boundary: with more than 1,024 busy cycles left, or in a layer evacuation (07
R200, R206). -/
def cutsMma (evac : Bool) (m : MCtx) : Bool := m.part == 0 && (evac || decide (1024 < mmaLeft m))

/-- The unit stops there while its block is stopped for a migration (17 R481, 07 R200, R206). -/
def stopsAtBlock (s : State) (g : Group) (m : MCtx) : Bool :=
  s.migs.any (fun (x : Nat × Mig) => x.2.block == g.block && x.2.state != .defer && cutsMma x.2.evac m)

/-- One cycle of a core's matrix unit, whose budget is tested against the CHARGE at the cycle's start (17 R479, 07 R187). -/
def unitCycle (s : State) (core charge : Nat) : State :=
  match (coreOf s core).mmas with
  | [] => s
  | k :: _ =>
    match groupOf s k with
    | none => s
    | some g =>
      match g.mctx with
      | none => s
      | some m =>
        match nextRowGroup m with
        | none => s
        | some rg =>
          let units := weight (coreOf s core) (mmaClass m.fmt)
          if stopsAtBlock s g m then s
          else if units ≠ 0 && !(m.exempt && g.exempt ≠ 0) && decide (budgetValue s core ≤ charge) then
            setGroup (countPerf s core 0x92 1) k { g with mctx := some { m with state := 2 } }
          else
            let m := oneBusy { m with state := 2 } rg
            let s := chargeBusy (setGroup s k { g with mctx := some m }) k m
            if (nextRowGroup m).isNone then { s with agenda := .mmaComplete core :: s.agenda } else s

/-- Cycles pass on a core, up to the end of its 32-cycle window; those beyond follow the window's end, which is due at
once (07 R186). `charge` is the CHARGE at the start of the first. -/
def tickFrom (s : State) (core n charge : Nat) : State :=
  let left := 32 - (coreOf s core).cycles % 32
  let k := min n left
  let s := if (coreOf s core).mmas.isEmpty then s
    else foldUpto (fun s i => unitCycle s core (if i = 0 then charge else (coreOf s core).charge)) s k
  let s := if bteOutstanding s core < 512 then s else countPerf s core 0x54 k
  let s := countPerf (updCore s core (fun c => { c with cycles := c.cycles + k })) core 0x01 k
  if n < left then s
  else
    let s := updCore s core (fun c => { c with owed := c.owed + (n - k) })
    { s with agenda := .activityWindowEnd core :: s.agenda }

/-- Cycles pass on a core. (DEDUCED, log 15) -/
def tick (s : State) (core n : Nat) : State := tickFrom s core n (coreOf s core).charge

/-- Cycles pass on a core while it issues; `charge` is its CHARGE before the instruction's own. -/
def passCycles (s : State) (core n charge : Nat) : State := tickFrom (countPerf s core 0x11 n) core n charge

end Sys2Proof.Machine
end

