-- ==== Sys2Proof/WellFormed.lean ====
section
/-! DEFINITION. What an instruction's operand types do not already say of its encoding: which source kinds, types
and predicates each instruction allows (12 R334-R338, 14-18). Events are well-formed as they stand. -/

namespace Sys2Proof

/-- The source is not an immediate. -/
def Src.noImm : Src → Bool
  | .imm _ => false
  | _ => true

/-- The source names a vector or a scalar register (16 R446, 14 R411). -/
def Src.isReg : Src → Bool
  | .v _ _ | .s _ => true
  | _ => false

/-- The source is one a scalar-form instruction allows: a scalar register or an immediate (12 R335). -/
def Src.scalarOk : Src → Bool
  | .s _ | .imm _ => true
  | _ => false

def Src.isS : Src → Bool
  | .s _ => true
  | _ => false

def Src.isV : Src → Bool
  | .v _ _ => true
  | _ => false

def Reg.isS : Reg → Bool
  | .s _ => true
  | .v _ => false

/-- The guard is p0 with negate 0. -/
def Ctl.plain (c : Ctl) : Bool := c.pred == 0 && !c.neg

/-- The scalar-form rule of 12 R335 for a destination and its sources. -/
def scalarForm (c : Ctl) (d : Reg) (srcs : List Src) : Bool :=
  !d.isS || (c.plain && srcs.all Src.scalarOk)

/-- A src3 register as a source. -/
def Reg.toSrc : Reg → Src
  | .v n => .v n false
  | .s n => .s n

def IType.isSigned : IType → Bool
  | .s8 | .s16 | .s32 | .s64 => true
  | _ => false

/-- s32, s64, z32 and z64: the types of `imulh` and of the atomics (14 R396, 16 R456). -/
def IType.isWide : IType → Bool
  | .s32 | .s64 | .z32 | .z64 => true
  | _ => false

/-- MXFP8 codes are not allowed in `cvt`, `pack` and `unpack` (15 R428). -/
def EFmt.plainElem : EFmt → Bool
  | .mx8e4 | .mx8e5 => false
  | _ => true

/-- The operations `scan` and `fold` allow on each element (15 R438). -/
def redAllowed (op : RedOp) (t : RedTy) : Bool :=
  match t, op with
  | .f32, .or | .f32, .and | .f32, .xor => false
  | _, _ => true

/-- The type of an `atom` operation is one 16 R456 lists. -/
def AtomOp.wf : AtomOp → Bool
  | .add t | .min t | .max t | .and t | .or t | .xor t | .swap t => t.isWide
  | .faddF32 | .faddBf16x2 => true

/-- `lbuf` and `sbuf`: src1 is a vector register in mode `.idx` and a scalar register in the others (16 R461). -/
def BufMode.baseOk (m : BufMode) (b : Src) : Bool :=
  match m with
  | .idx => b.isV
  | _ => b.isS

/-- No reserved prefix value (12 R344). -/
def Pfx.wf (p : Pfx) : Bool :=
  p.rsv == 0 && p.round != 6 && p.round != 7 && p.scope != 6 && p.scope != 7 &&
  (p.scope != 0 || (p.policy == 0 && p.hint == 0 && !p.leaf)) && (!p.leaf || p.policy == 0)

def IOp1.wf (c : Ctl) (o : IOp1) : Bool := o.a.noImm && scalarForm c o.d [o.a]
def IOp2.wf (c : Ctl) (o : IOp2) : Bool := o.a.noImm && scalarForm c o.d [o.a, o.b]
def IOp3.wf (c : Ctl) (o : IOp3) : Bool :=
  o.a.noImm && o.b.noImm && scalarForm c o.d [o.a, o.b, o.c.toSrc]
def FOp1.wf (c : Ctl) (o : FOp1) : Bool := o.a.noImm && scalarForm c o.d [o.a]
def FOp2.wf (c : Ctl) (o : FOp2) : Bool := o.a.noImm && o.b.noImm && scalarForm c o.d [o.a, o.b]

/-- The operand of `shfl` in src2 allows every kind; a register form is no immediate. -/
def LaneB.wf : LaneB → Bool
  | .reg b _ => b.isReg
  | .imm _ => true

def NmoOp.wf : NmoOp → Bool
  | .addF32 x | .addBf16x2 x | .addS32 x | .maxF32 x | .maxS32 x => x.noImm
  | .cas32 _ c _ | .cas64 _ c _ => c.noImm
  | .saccF32 x _ | .saccBf16 x _ => x.noImm

def CacheTarget.wf : CacheTarget → Bool
  | .all => true
  | .line b _ => b.isReg

def FlushVar.wf : FlushVar → Bool
  | .all => true
  | .line b _ | .wbi b _ => b.isReg

def CvtVar.wf : CvtVar → Bool
  | .to f | .from f => f.plainElem
  | .toi t => t != .s64 && t != .z64
  | .fromi _ | .rint => true

def MmovCount.val : MmovCount → Nat
  | .c1 => 1 | .c2 => 2 | .c4 => 4 | .c8 => 8

/-- Whether the c registers from n on are all vector registers (17 R484). -/
def mmovRegs (n : Nat) (c : MmovCount) : Bool := n + c.val ≤ 384

def MmovDir.reg : MmovDir → Nat
  | .ld d => d.val
  | .st s _ => s.val

/-- The checks an encoding passes beyond its operand types. -/
def Instr.wf : Instr → Bool
  | .pfx p => p.wf
  | .jmp _ t | .ret _ t => t.isReg
  | .iadd c _ o | .isub c _ o => o.wf c
  | .imul c o | .imin c o | .imax c o | .and c o | .or c o | .xor c o | .andn c o
  | .shl c o | .shr c o | .sar c o | .rotl c o | .bfx c o => o.wf c
  | .imulh c o => o.ty.isWide && o.wf c
  | .imulhShort o => o.ty.isWide
  | .imad c _ o | .bfi c o => o.wf c
  | .iabs c _ o => o.ty.isSigned && o.wf c
  | .iabsShort o => o.ty.isSigned
  | .popc c o | .clz c o | .brev c o | .mov c o => o.wf c
  | .icmp _ _ _ _ a _ => a.noImm
  | .sel _ _ _ a b _ => a.noImm && b.noImm
  | .movi c _ d _ => scalarForm c d []
  | .lea c _ o => o.ty.isWide && o.a.isReg && o.wf c
  | .fadd c o | .fsub c o | .fmul c o | .fmin c o | .fmax c o => o.wf c
  | .ffma c o c3 => o.a.noImm && o.b.noImm && scalarForm c o.d [o.a, o.b, c3.toSrc]
  | .fcmp _ _ t _ a b => t != .f16x2 && t != .bf16x2 && a.noImm && b.noImm
  | .frcp c o | .frsq c o | .fsqrt c o | .fexp2 c o | .flog2 c o | .fsin c o | .fcos c o
  | .ftanh c o => o.wf c
  | .cvt c v d a => v.wf && a.noImm && scalarForm c d [a]
  | .cvtShort o => o.fmt.plainElem
  | .pack _ _ f _ a b => f.plainElem && a.noImm && b.noImm
  | .unpack _ _ f _ a => f.plainElem && a.noImm
  | .qnt _ _ _ a _ => a.noImm
  | .shfl _ _ _ a b => a.noImm && b.wf
  | .bcast _ _ a _ => a.noImm
  | .permb _ _ _ a _ => a.noImm
  | .scan _ op t _ a => redAllowed op t && a.noImm
  | .fold _ op t _ a => redAllowed op t && a.noImm
  | .carry _ _ _ a _ => a.noImm
  | .lid _ w d => w || !d.isS
  | .ld c sz _ d b _ => b.isReg && (!d.isS || (sz != .b128 && b.isS && c.plain))
  | .st c sz _ d b _ => b.isReg && (!(d.isS && b.isS) || (sz != .b128 && c.plain))
  | .ldq _ _ _ b _ => b.isReg
  | .lbuf _ m _ _ b _ => m.baseOk b
  | .sbuf _ m _ b x _ => m.baseOk b && x.noImm
  | .atom c op _ d a x =>
      op.wf && a.isReg && x.noImm &&
      (match d with
       | some (.s _) => c.plain && a.isS && x.isS
       | _ => true)
  | .cas c t _ d a x w =>
      t.isWide && a.isReg && x.noImm && (!d.isS || (c.plain && a.isS && x.isS && w.isS))
  | .prf _ _ _ b _ => b.isReg
  | .inv _ _ _ t => t.wf
  | .flush _ _ _ t => t.wf
  | .nmo _ op _ => op.wf
  | .mmov _ dir n _ _ => mmovRegs dir.reg n
  | .push _ x _ _ => x.isReg
  | _ => true

end Sys2Proof
end

