-- ==== Sys2Proof/Machine/Operands.lean ====
section
/-! DEFINITION. Operand forms: registers, pairs, queues and immediates as lanes of numbers, with what reading them
needs, pops and frees (12 R334, R335, R341; 14 R391, R392; 09 R250, R251, R254). -/

namespace Sys2Proof.Machine

/-- A source of an instruction as the datapath reads it; a short operand's number may name a queue (12 R341). -/
structure Opnd where
  src : Src
  /-- a 64-bit vector or queue operand: a pair (14 R392) -/
  wide : Bool
  deriving DecidableEq, Repr, Inhabited

/-- The operand of a short instruction's full register number (12 R341). -/
def shortSrc (n : Nat) (last : Bool) : Src :=
  if h : n < 384 then .v ⟨n, h⟩ last
  else .q ⟨(n - 384) % 8, Nat.mod_lt _ (by decide)⟩

/-- Sign extension of a 9-bit immediate to 64 bits (12 R337). -/
def immVal (i : BitVec 9) : Nat := (i.signExtend 64).toNat

/-- How many queue entries an operand pops (09 R254, 14 R392). -/
def Opnd.pops (o : Opnd) : List Nat :=
  match o.src with
  | .q q => if o.wide then [q.val, q.val] else [q.val]
  | _ => []

/-- The registers an operand reads. -/
def Opnd.regs (o : Opnd) : List AReg :=
  match o.src with
  | .v n _ => if o.wide then [.v n.val, .v (n.val + 1)] else [.v n.val]
  | .s n => [.s n.val]
  | _ => []

/-- The rows an operand frees when its last-read flag is set (09 R251). -/
def Opnd.frees (o : Opnd) : List Nat :=
  match o.src with
  | .v n true => if o.wide then [n.val, n.val + 1] else [n.val]
  | _ => []

/-- The operand is a pair at an odd register (14 R392). -/
def Opnd.odd (o : Opnd) : Bool :=
  match o.src with
  | .v n _ => o.wide && n.val % 2 == 1
  | _ => false

/-- The vector rows an operand reads, for the banks of 12 R349. -/
def Opnd.rows (o : Opnd) : List Nat :=
  match o.src with
  | .v n _ => if o.wide then [n.val, n.val + 1] else [n.val]
  | _ => []

/-- The value of an operand in lane l; `popped` are its entries of the queue latch. -/
def Opnd.val (g : Group) (popped : List Row) (o : Opnd) (l : Nat) : Nat :=
  match o.src with
  | .v n _ =>
    if o.wide then (laneOf (vreg g n.val) l).toNat + 2 ^ 32 * (laneOf (vreg g (n.val + 1)) l).toNat
    else (laneOf (vreg g n.val) l).toNat
  | .s n => sreg g n.val
  | .q _ =>
    if o.wide then (laneOf ((popped[0]?).getD 0) l).toNat + 2 ^ 32 * (laneOf ((popped[1]?).getD 0) l).toNat
    else (laneOf ((popped[0]?).getD 0) l).toNat
  | .imm i => immVal i

/-- The latch entries of each operand of a list, in pop order. -/
def splitLatch : List Opnd → List Row → List (List Row)
  | [], _ => []
  | o :: os, ls => ls.take o.pops.length :: splitLatch os (ls.drop o.pops.length)

/-- The values of a list of operands in lane l. -/
def opndVals (g : Group) (latch : List Row) (os : List Opnd) (l : Nat) : List Nat :=
  (os.zip (splitLatch os latch)).map (fun p => p.1.val g p.2 l)

/-- A destination: nothing, or a register with its pair flag. -/
inductive DestReg where
  | none
  | v (n : Nat) (wide : Bool)
  | s (n : Nat)
  | p (n : Nat)
  deriving DecidableEq, Repr, Inhabited

def DestReg.ofReg (r : Reg) (wide : Bool) : DestReg :=
  match r with
  | .v n => .v n.val wide
  | .s n => .s n.val

/-- The rows a destination maps. -/
def DestReg.rows : DestReg → List Nat
  | .v n true => [n, n + 1]
  | .v n false => [n]
  | _ => []

def DestReg.regs : DestReg → List AReg
  | .v n true => [.v n, .v (n + 1)]
  | .v n false => [.v n]
  | .s n => [.s n]
  | _ => []

def DestReg.odd : DestReg → Bool
  | .v n w => w && n % 2 == 1
  | _ => false

def DestReg.isS : DestReg → Bool
  | .s _ => true
  | _ => false

/-- The destination of a short instruction's full register number; 384-391 names a queue, which traps (12 R341). -/
def shortQueueDst (n : Nat) : Bool := 384 ≤ n

/-- Width of an integer type (12 R338). -/
def tyWidth : IType → Nat
  | .s8 | .z8 => 8
  | .s16 | .z16 => 16
  | .s32 | .z32 => 32
  | .s64 | .z64 => 64

/-- A 64-bit type: pairs on vector operands (14 R392). -/
def tyWide (t : IType) : Bool := tyWidth t = 64

end Sys2Proof.Machine
end

