-- ==== Sys2Proof/Machine/Issue.lean ====
section
/-! DEFINITION. How one instruction, or a pair, issues: the checks of 12 R355 that precede its own traps, the breaks of
09 R248, streaming by lane (09 R247, R258), completion and the end of a run (09 R249, 12 R351). -/

namespace Sys2Proof.Machine

abbrev Out := Host.Outcome State Fault Refusal

/-- What an instruction's own effect came to. -/
inductive Res where
  /-- it completed -/
  | ok (s : State)
  /-- it traps, lanes below the trapping lane done -/
  | trap (s : State) (t : TrapInfo)
  /-- its run breaks at a lane (09 R248) -/
  | brk (s : State) (why : BreakWhy) (lane : Nat)
  /-- its group waits at it (09 R248) -/
  | wait (s : State) (why : WaitWhy)
  /-- its group has left the core -/
  | gone (s : State)

/-- The issuing group as an instruction sees it. -/
structure Ctx where
  key : Nat
  core : Nat
  g : Group
  r : Run
  pre : Option Pfx
  /-- address of the instruction's first parcel (14 R407) -/
  pc : Word64
  /-- address of the next instruction -/
  next : Word64
  /-- the whole stream mask (09 R247) -/
  full : LaneMask
  /-- its lanes from the lane progress on -/
  mask : LaneMask
  /-- queue entries popped for the instruction, in pop order -/
  latch : List Row

/-- What an instruction tells the issue logic about itself. -/
structure Spec where
  e : Bool
  pred : Nat
  neg : Bool
  /-- transfers control: needs E and sets the lanes' program counters itself (12 R352) -/
  transfer : Bool := false
  /-- privileged (18 R496) -/
  priv : Bool := false
  /-- a short destination that names a queue (12 R341) -/
  queueDst : Bool := false
  /-- an own trap of the encoding or of registers read at once: cause, subcode -/
  own : Option (Nat × Nat) := none
  /-- its own traps are met with an empty stream mask too (group-level instructions) -/
  ownAny : Bool := false
  srcs : List Opnd := []
  /-- further registers read -/
  reads : List AReg := []
  dst : DestReg := .none
  /-- further rows written -/
  dstRows : List Nat := []
  /-- rows freed beyond those of the flagged sources -/
  freeRows : List Nat := []
  /-- activity units charged for n lanes (07 R186) -/
  charge : Core → Nat → Nat := fun _ _ => 0
  /-- cycles for n lanes (09 R247) -/
  cycles : Nat → Nat := fun _ => 1

def Ctx.firstMask (c : Ctx) : LaneMask := if c.mask = 0 then (if c.full = 0 then c.r.active else c.full) else c.mask

/-- A trap at the first lane of the stream mask, or of the active mask when it is empty (09 R258, 12 R355). -/
def Ctx.trapFirst (c : Ctx) (cause sub addr : Nat) : TrapInfo :=
  ⟨cause, sub, firstLane c.firstMask, c.firstMask, addr⟩

/-- A trap at a lane of the stream mask (09 R258). -/
def Ctx.trapLane (c : Ctx) (cause sub addr lane : Nat) : TrapInfo :=
  ⟨cause, sub, lane, fromLane c.full lane, addr⟩

/-- A trap at the first lane of the active mask, as system instructions take it (18 R496, R520). -/
def Ctx.trapActive (c : Ctx) (cause sub addr : Nat) : TrapInfo :=
  ⟨cause, sub, firstLane c.r.active, c.r.active, addr⟩

/-- The issuing group's context, when a group holds the issue slot. (DESIGN CHOICE, log 4) -/
def issueCtx (s : State) (pred : Nat) (neg : Bool) : Option Ctx :=
  match s.cur with
  | none => none
  | some u =>
    let k := gkey u.core u.slot
    match groupOf s k with
    | none => none
    | some g =>
      match g.run with
      | none => none
      | some r =>
        let p := preg g pred
        let full := r.active &&& (if neg then ~~~p else p)
        some ⟨k, u.core, g, r, r.pre.map (·.1), u.pc, u.pc + w64 u.bytes, full, fromLane full r.start, g.latch⟩

/-! ### Breaks and register rows -/

/-- A register awaits a return. -/
def awaits (g : Group) (r : AReg) : Bool := g.awaiting.any (fun a => a.1 == r)

/-- Bytes of register file the rows of a block's groups hold (09 R242). -/
def rowsHeld (s : State) (core b : Nat) : Nat :=
  match blockOf s b with
  | none => 0
  | some x => x.slots.foldl (fun n sl =>
      match groupOf s (gkey core sl) with
      | some g => if g.block = b then n + g.vregs.length * g.width * 4 else n
      | none => n) 0

/-- Bytes of the register file neither reserved as floors nor held above them (06 R165, 09 R252). -/
def freeRowBytes (s : State) (core : Nat) : Nat :=
  393216 - (resident s core).foldl (fun n (b : Nat × Block) =>
    n + max (b.2.shape.groups * b.2.shape.floor * b.2.shape.width * 4) (rowsHeld s core b.1)) 0

/-- A block may map n more rows of one of its groups: within its reserve, or from the pool (09 R252). -/
def rowsFit (s : State) (core b n : Nat) : Bool :=
  match blockOf s b with
  | none => true
  | some x =>
    let floor := x.shape.groups * x.shape.floor * x.shape.width * 4
    let held := rowsHeld s core b
    let want := held + n * x.shape.width * 4
    decide (want ≤ floor) || decide (want - max held floor ≤ freeRowBytes s core)

/-- Most rows a group may map: the register peak, or the supervisor's 64 (09 R252, R263). (DESIGN CHOICE, log 22) -/
def peakRows (s : State) (g : Group) : Nat :=
  if g.super then 64 else (blockOf s g.block).elim 384 (·.shape.peak)

/-- A supervisor group has v0-v63 and s0-s31 alone (09 R263); an instruction that names another register meets the register peak
(DESIGN CHOICE, log 22). -/
def lacks (g : Group) (r : AReg) : Bool :=
  g.super && (match r with
    | .v n => decide (64 ≤ n)
    | .s n => decide (32 ≤ n))

/-- Rows of a list that a write would newly map. -/
def newRows (g : Group) (rows : List Nat) : Nat := (rows.filter (fun n => (mget g.vregs n).isNone)).length

/-- A queue register that can receive nothing more (09 R255, subcode 0x04). -/
def queueDry (s : State) (g : Group) (q : Nat) : Bool :=
  let x := queueAt g q
  if x.pipe then
    match blockOf s g.block with
    | none => true
    | some b =>
      match launchOf s b.launch with
      | none => true
      | some l =>
        let mine := l.pipes.filter (fun p => p.2.2.2.2 == q && Nat.testBit p.2.2.1 b.member)
        mine.all (fun p =>
          (b.shares.all (fun sh => sh.1 != p.1 || sh.2.isEmpty)) &&
          !s.blocks.any (fun (x : Nat × Block) => x.2.launch == b.launch && x.2.index == b.index &&
            x.2.member == p.2.1 && x.2.state != .done))
  else x.pending.isEmpty

/-- Count of a number in a list. -/
def countIn (l : List Nat) (n : Nat) : Nat := (l.filter (· == n)).length

/-- The first queue of a pop list that holds too few entries. -/
def shortQueue (g : Group) (pops : List Nat) : Option Nat :=
  pops.find? (fun q => decide ((queueAt g q).entries.length < countIn pops q))

/-- Pop the entries of a pop list into the latch, in order (09 R254). (DEDUCED, log 97) -/
def popQueues (g : Group) : List Nat → Group
  | [] => g
  | q :: qs =>
    let x := queueAt g q
    match x.entries with
    | [] => popQueues g qs
    | e :: es => popQueues { setQueue g q { x with entries := es } with latch := g.latch ++ [e] } qs

/-! ### Completion -/

/-- The group gives up the issue slot, ready from now (09 R249). -/
def leaveSlot (s : State) (k : Nat) (st : GStatus) : State :=
  let s := updCore s (keyCore k) (fun c => { c with issuing := none, idleFrom := c.cycles })
  let now := (coreOf s (keyCore k)).cycles
  updGroup s k (fun g => { g with status := st, since := now })

/-- The run ends: active lanes that were not sent elsewhere continue at the next instruction (14 R407). -/
def endRun (s : State) (k : Nat) (move : Option Word64) : State :=
  let s := updGroup s k (fun g =>
    match g.run with
    | none => g
    | some r =>
      let g := match move with
        | some a => mapLanes g (fun l x => if inMask r.active l then { x with pc := a } else x)
        | none => g
      { g with run := none })
  leaveSlot s k .ready

/-- An instruction, or a pair counting 2, completes in every lane: flagged sources are freed, the latch is emptied, and
the run goes on or ends (09 R249, R251; 12 R351). -/
def complete (s : State) (k : Nat) (next : Word64) (e transfer : Bool) (n : Nat) (frees keep : List Nat) : State :=
  let s := countPerf s (keyCore k) 0x02 n
  let s := updGroup s k (fun g =>
    let g := (frees.filter (fun f => !keep.contains f)).foldl unmapRow g
    { g with
      latch := []
      parkFail := false
      fetchFail := none
      peerWait := none
      walked := none
      parkHist := none
      paid := false
      run := g.run.map (fun r => { r with pc := next, count := r.count + n, start := 0, pre := none }) })
  if e then endRun s k (if transfer then none else some next) else s

/-- The group breaks its run, keeping its lane progress (09 R248, R249). -/
def breakRun (s : State) (k : Nat) (why : BreakWhy) (lane : Nat) : State :=
  let ev := match why with
    | .operand _ | .order => 0x14
    | .queue _ _ => 0x15
    | .kickFull => 0x55
    | .chunks _ _ => 0x94
    | .parked _ => 0x86
    | .budget => 0x31
    | _ => 0
  let s := countPerf s (keyCore k) ev 1
  -- chunks that an `mma` holds are operands not ready (R267)
  let s := match why with
    | .chunks _ _ => countPerf s (keyCore k) 0x14 1
    | _ => s
  let s := match why, groupOf s k with
    | .budget, some g => updBlock s g.block (fun b => { b with refNow := true })
    | _, _ => s
  let s := updGroup s k (fun g => { g with run := g.run.map (fun r => { r with start := lane }) })
  leaveSlot s k (.broken why)

/-- The group waits at an instruction (09 R248); a wait at a run boundary is a reclamation point (08 R225, 18 R498). -/
def waitAt (s : State) (k : Nat) (why : WaitWhy) : State :=
  let s := leaveSlot (countPerf s (keyCore k) 0x17 1) k (.waiting why)
  match groupOf s k with
  | some g => reclaimIf s g.block
  | none => s

/-! ### One instruction -/

/-- The checks of 12 R355 steps 7-12 that precede an instruction's own effect, the first that applies. An instruction's
own traps (step 12) are taken at the first lane of the stream mask: with an empty stream mask there is none.
(DEDUCED, log 29) -/
def preTrap (s : State) (c : Ctx) (i : Spec) : Option TrapInfo :=
  if c.r.count ≥ 24 then some (c.trapFirst 0x04 0 0)
  else if i.transfer && !i.e then some (c.trapFirst 0x05 0 0)
  else if i.priv && !privileged s c.g then some (c.trapActive 0x06 0 0)
  else if i.queueDst then some (c.trapFirst 0x14 0x01 0)
  else if c.mask = 0 && !i.ownAny then none
  else match i.own with
    | some (cause, sub) => some (c.trapFirst cause sub 0)
    | none => none

/-- The units an instruction is charged as it issues; one that broke its run after it had issued has been charged (07 R187). -/
def unitsDue (s : State) (c : Ctx) (i : Spec) : Nat :=
  if c.g.paid then 0 else i.charge (coreOf s c.core) (laneCount c.mask)

/-- The breaks and traps that reading operands and mapping rows can meet, before any lane is written (09 R248, R252,
R254). -/
def operandStop (s : State) (c : Ctx) (i : Spec) : Option (TrapInfo ⊕ BreakWhy) :=
  let regs := i.srcs.flatMap Opnd.regs ++ i.reads ++ i.dst.regs ++ i.dstRows.map AReg.v
  let late := regs.filter (awaits c.g)
  let pops := i.srcs.flatMap Opnd.pops
  let more := if c.mask = 0 then 0 else newRows c.g (i.dst.rows ++ i.dstRows)
  if !late.isEmpty then some (.inr (.operand late))
  else if regs.any (lacks c.g) then some (.inl (c.trapFirst 0x01 0x20 0))
  else if refused s c.core c.g (unitsDue s c i) then some (.inr .budget)
  else if more ≠ 0 && peakRows s c.g < c.g.vregs.length + more then some (.inl (c.trapFirst 0x01 0x20 0))
  else if more ≠ 0 && !c.g.super && !rowsFit s c.core c.g.block more then some (.inr (.rows more))
  else if c.latch.isEmpty then
    match shortQueue c.g pops with
    | some q => if queueDry s c.g q then some (.inl (c.trapFirst 0x14 0x04 0)) else some (.inr (.queue q (countIn pops q)))
    | none => none
  else none

/-- The state as the instruction issues: queue entries in the latch, activity charged, cycles passed. -/
def issued (s : State) (c : Ctx) (i : Spec) : State × Ctx :=
  let n := laneCount c.mask
  let pops := i.srcs.flatMap Opnd.pops
  let g := if c.latch.isEmpty then popQueues c.g pops else c.g
  let s := if pops.isEmpty then s else setGroup s c.key g
  -- room in a queue register lets its pipes deliver (09 R256)
  let s := if pops.isEmpty then s else match blockOf s c.g.block with
    | some b => due s (b.shares.filterMap (fun sh => if sh.2.isEmpty then none else some (.pipeDelivery c.g.block sh.1)))
    | none => s
  let charge := (coreOf s c.core).charge
  let s := chargeUnits s c.key (if c.g.paid then 0 else i.charge (coreOf s c.core) n)
  let s := passCycles s c.core (i.cycles n) charge
  match groupOf s c.key with
  | some g => (s, { c with g := g, latch := g.latch })
  | none => (s, c)

/-- An instruction that has issued, and been charged, breaks its run at a lane; TLANE names the lane whose access parks (07 R187, 04
R122). -/
def stopsAt (s : State) (k : Nat) (why : BreakWhy) (lane : Nat) : State :=
  let parks : Bool := match why with
    | .parked id => id != 2048
    | _ => false
  updGroup s k (fun g => { g with
    paid := true, trap := if parks && g.handler.isNone then { g.trap with lane := lane } else g.trap })

/-- Carry out what an instruction's effect came to. -/
def settle (c : Ctx) (i : Spec) (r : Res) : State :=
  match r with
  | .ok s => complete s c.key c.next i.e i.transfer 1 (i.srcs.flatMap Opnd.frees ++ i.freeRows) (i.dst.rows ++ i.dstRows)
  | .trap s t => takeTrap s c.key t
  | .brk s why lane => breakRun (stopsAt s c.key why lane) c.key why lane
  | .wait s why => waitAt s c.key why
  | .gone s => s

/-- An instruction whose TLANE a handler left at 64 counts as complete for every lane (09 R261). -/
def skipInstr (s : State) (c : Ctx) (i : Spec) : State :=
  complete s c.key c.next i.e false 1 (i.srcs.flatMap Opnd.frees ++ i.freeRows) (i.dst.rows ++ i.dstRows)

/-- Issue one instruction of the group that holds the issue slot: its checks, its operands, its effect. -/
def issue (s : State) (i : Spec) (body : Ctx → State → Res) : Out :=
  match issueCtx s i.pred i.neg with
  | none => .fault .noIssuingGroup
  | some c =>
    if c.r.start ≥ 64 then .next (skipInstr s c i)
    else
      match preTrap s c i with
      | some t => .next (takeTrap s c.key t)
      | none =>
        match operandStop s c i with
        | some (.inl t) => .next (takeTrap s c.key t)
        | some (.inr why) => .next (breakRun s c.key why c.r.start)
        | none => .next (settle (issued s c i).2 i (body (issued s c i).2 (issued s c i).1))

/-! ### Lane by lane computation (09 R247, R258; 13 R385) -/

/-- An instruction that computes each lane from its own sources. -/
structure LaneOp where
  spec : Spec
  /-- lane and source values to the result and its exceptions -/
  result : Group → Nat → List Nat → Nat × Nat
  /-- rounds stochastically (13 R381) -/
  rs : Bool := false
  /-- PERF event counted at issue -/
  event : Nat := 0
  /-- streams on the transcendental unit -/
  trans : Bool := false

/-- The result and exceptions of each lane of a list, in stream order. -/
def laneResults (g : Group) (latch : List Row) (o : LaneOp) (ls : List Nat) : List (Nat × (Nat × Nat)) :=
  ls.map (fun l => (l, o.result g l (opndVals g latch o.spec.srcs l)))

/-- Write the results of the lanes of a mask into a destination (14 R391, R392; 00 R12). -/
def writeResults (g : Group) (d : DestReg) (m : LaneMask) (res : List (Nat × (Nat × Nat))) : Group :=
  let val (l : Nat) : Nat := (mgetD res l (0, 0)).1
  if m = 0 then g
  else
    match d with
    | .none => g
    | .v n false => writeLanes g n m (fun l => w32 (val l))
    | .v n true => writeLanes (writeLanes g n m (fun l => w32 (val l))) (n + 1) m (fun l => w32 (val l / 2 ^ 32))
    | .s n => setSreg g n (val 0)
    | .p n => setPreg g n (maskOf (fun l => if inMask m l then val l % 2 == 1 else inMask (preg g n) l))

/-- The first lane whose exceptions are enabled to trap (13 R385). -/
def trapping (g : Group) (res : List (Nat × (Nat × Nat))) : Option (Nat × Nat) :=
  (res.find? (fun r => r.2.2 &&& g.frnd.ten.toNat != 0)).map (fun r => (r.1, r.2.2))

/-- The exceptions of every lane up to and with lane l. -/
def flagsUpTo (res : List (Nat × (Nat × Nat))) (l : Nat) : Nat :=
  res.foldl (fun f r => if r.1 ≤ l then f ||| r.2.2 else f) 0

/-- The lanes an operation streams: one for a scalar form (12 R335). -/
def opLanes (o : LaneOp) (m : LaneMask) : List Nat := if o.spec.dst.isS then [0] else laneList m

/-- Execute a lane operation on the lanes of the stream mask. -/
def laneBody (o : LaneOp) (c : Ctx) (s : State) : Res :=
  let g := c.g
  let scalar := o.spec.dst.isS
  let res := laneResults g c.latch o (opLanes o c.mask)
  let s := countPerf s c.core o.event 1
  let s := if scalar || o.trans then s else countPerf s c.core 0x12 (ceilDiv (laneCount c.mask) 16)
  match trapping g res with
  | some (l, f) =>
    let done := if scalar then 0 else maskOf (fun j => inMask c.mask j && decide (j < l))
    let g := raiseFlags (writeResults g o.spec.dst done res) (flagsUpTo res l)
    .trap (setGroup s c.key g) (if scalar then c.trapFirst 0x18 f 0 else c.trapLane 0x18 f 0 l)
  | none =>
    let g := raiseFlags (writeResults g o.spec.dst (if scalar then c.firstMask else c.mask) res) (flagsUpTo res 64)
    .ok (setGroup s c.key (if o.rs then addScnt g 1 else g))

/-- Issue a lane operation alone. -/
def issueLane (s : State) (f : Group → Option Pfx → LaneOp) : Out :=
  match issueCtx s 0 false with
  | none => .fault .noIssuingGroup
  | some c => issue s (f c.g c.pre).spec (laneBody (f c.g c.pre))

/-! ### Pairs (12 R348-R350) -/

/-- Banks of a list of rows (12 R349). -/
def banks (rows : List Nat) : List Nat := (rows.map (· % 4)).eraseDups

/-- Which operations use the transcendental unit is told by class 4 of their charge; `trans` says so (12 R349). -/
structure PairOp where
  op : LaneOp
  trans : Bool
  /-- `nop`: no destination, no register, no beat (14 R417) -/
  isNop : Bool := false

/-- The pair rules of 12 R349 hold. -/
def pairOk (a b : PairOp) : Bool :=
  !a.trans && !b.trans &&
  (banks a.op.spec.dst.rows).all (fun x => !(banks b.op.spec.dst.rows).contains x) &&
  (banks ((a.op.spec.srcs ++ b.op.spec.srcs).flatMap Opnd.rows)).length ≤ 3

/-- Issue two short instructions as a pair: one set of beats, one trap (12 R348-R350). (DEDUCED, log 19) -/
def issuePair (s : State) (f1 f2 : Group → Option Pfx → Nat → PairOp) : Out :=
  match issueCtx s 0 false with
  | none => .fault .noIssuingGroup
  | some c0 =>
    let p1 := f1 c0.g none 0
    let p2 := f2 c0.g none (bit p1.op.rs)
    let i1 := p1.op.spec
    let i2 := p2.op.spec
    let m1 := if p1.isNop then 0 else c0.r.active &&& preg c0.g i1.pred
    let m2 := if p2.isNop then 0 else c0.r.active &&& preg c0.g i2.pred
    let full := (c0.r.active &&& preg c0.g i1.pred) ||| (c0.r.active &&& preg c0.g i2.pred)
    let c := { c0 with full := full, mask := fromLane full c0.r.start }
    let n1 := fromLane m1 c0.r.start
    let n2 := fromLane m2 c0.r.start
    let i : Spec :=
      { e := i2.e, pred := 0, neg := false
        queueDst := i1.queueDst || i2.queueDst
        srcs := i1.srcs ++ i2.srcs
        dstRows := (if n1 = 0 then [] else i1.dst.rows) ++ (if n2 = 0 then [] else i2.dst.rows)
        own := match (if n1 = 0 then none else i1.own) with
          | some t => some t
          | none => if n2 = 0 then none else i2.own
        charge := fun k _ => i1.charge k (laneCount n1) + i2.charge k (laneCount n2)
        cycles := fun _ => max (if p1.isNop then 1 else i1.cycles (laneCount (n1 ||| n2)))
          (if p2.isNop then 1 else i2.cycles (laneCount (n1 ||| n2))) }
    if c.r.start ≥ 64 then
      .next (complete s c.key c.next i2.e false 2 (i.srcs.flatMap Opnd.frees) (i1.dst.rows ++ i2.dst.rows))
    else if c.r.count + 2 > 24 then .next (takeTrap s c.key (c.trapFirst 0x04 0 0))
    else if !pairOk p1 p2 then .next (takeTrap s c.key (c.trapFirst 0x03 0 0))
    else
      match preTrap s c i with
      | some t => .next (takeTrap s c.key t)
      | none =>
        match operandStop s c i with
        | some (.inl t) => .next (takeTrap s c.key t)
        | some (.inr why) => .next (breakRun s c.key why c.r.start)
        | none =>
          let (s, c) := issued s c i
          let g := c.g
          let k := (i1.srcs.flatMap Opnd.pops).length
          let r1 := laneResults g (c.latch.take k) p1.op (laneList n1)
          let r2 := laneResults g (c.latch.drop k) p2.op (laneList n2)
          let both := (laneList (n1 ||| n2)).map (fun l => (l, (0, (mgetD r1 l (0, 0)).2 ||| (mgetD r2 l (0, 0)).2)))
          let s := countPerf s c.core p1.op.event 1
          let s := countPerf s c.core p2.op.event 1
          let s := countPerf s c.core 0x12 (ceilDiv (laneCount (n1 ||| n2)) 16)
          match trapping g both with
          | some (l, f) =>
            let below (m : LaneMask) := maskOf (fun j => inMask m j && decide (j < l))
            let g := writeResults g i1.dst (below n1) r1
            let g := writeResults g i2.dst (below n2) r2
            let g := raiseFlags g (flagsUpTo both l)
            .next (takeTrap (setGroup s c.key g) c.key (c.trapLane 0x18 f 0 l))
          | none =>
            let g := writeResults g i1.dst n1 r1
            let g := writeResults g i2.dst n2 r2
            let g := addScnt (raiseFlags g (flagsUpTo both 64)) (bit p1.op.rs + bit p2.op.rs)
            let s := countPerf (setGroup s c.key g) c.core 0x13 1
            .next (complete s c.key c.next i2.e false 2 (i.srcs.flatMap Opnd.frees) (i1.dst.rows ++ i2.dst.rows))

end Sys2Proof.Machine
end

