-- ==== Sys2Proof/Machine/Integer.lean ====
section
/-! DEFINITION. The integer and address instructions (spec/14_isa_control_integer.md R391-R405). -/

namespace Sys2Proof.Machine

/-! ### Values (R391) -/

/-- A source's low W bits read as its type says. -/
def readInt (t : IType) (raw : Nat) : Int :=
  if t.isSigned then signedOf (tyWidth t) raw else ((raw % 2 ^ tyWidth t : Nat) : Int)

/-- wrap(x, t): the low W bits (13 R387). -/
def wrapInt (t : IType) (x : Int) : Nat := unsignedOf (tyWidth t) x

/-- The least and largest values of a type. -/
def tyMin (t : IType) : Int := if t.isSigned then -(2 : Int) ^ (tyWidth t - 1) else 0
def tyMax (t : IType) : Int := if t.isSigned then (2 : Int) ^ (tyWidth t - 1) - 1 else (2 : Int) ^ tyWidth t - 1

/-- satint(x, t): x clamped to the range of t (13 R387). -/
def satInt (t : IType) (x : Int) : Int := if x < tyMin t then tyMin t else if tyMax t < x then tyMax t else x

/-- A W-bit pattern extended to 64 bits, by sign for an s type (R391); a narrower destination keeps the low bits. -/
def extInt (t : IType) (pat : Nat) : Nat :=
  if t.isSigned then unsignedOf 64 (signedOf (tyWidth t) pat) else pat % 2 ^ tyWidth t

/-! ### The operations (R397-R399): W-bit patterns from raw source values -/

def opAdd (t : IType) (sat : Bool) (x y : Nat) : Nat :=
  let r := readInt t x + readInt t y
  wrapInt t (if sat then satInt t r else r)
def opSub (t : IType) (sat : Bool) (x y : Nat) : Nat :=
  let r := readInt t x - readInt t y
  wrapInt t (if sat then satInt t r else r)
def opMul (t : IType) (x y : Nat) : Nat := wrapInt t (readInt t x * readInt t y)
def opMad (t : IType) (sat : Bool) (x y c : Nat) : Nat :=
  let r := readInt t x * readInt t y + readInt t c
  wrapInt t (if sat then satInt t r else r)
/-- imulh: the high W bits of the exact product. -/
def opMulh (t : IType) (x y : Nat) : Nat := wrapInt t (readInt t x * readInt t y / (2 : Int) ^ tyWidth t)
def opMin (t : IType) (x y : Nat) : Nat := wrapInt t (min (readInt t x) (readInt t y))
def opMax (t : IType) (x y : Nat) : Nat := wrapInt t (max (readInt t x) (readInt t y))
def opAbs (t : IType) (sat : Bool) (x : Nat) : Nat :=
  let r : Int := ((readInt t x).natAbs : Int)
  wrapInt t (if sat then satInt t r else r)
def opAnd (t : IType) (x y : Nat) : Nat := (x &&& y) % 2 ^ tyWidth t
def opOr (t : IType) (x y : Nat) : Nat := (x ||| y) % 2 ^ tyWidth t
def opXor (t : IType) (x y : Nat) : Nat := (x ^^^ y) % 2 ^ tyWidth t
/-- andn: x and not y. -/
def opAndn (t : IType) (x y : Nat) : Nat :=
  let w := 2 ^ tyWidth t
  (x % w) &&& (w - 1 - y % w)
/-- The shift count b[6:0] (R398). -/
def shiftCount (b : Nat) : Nat := b % 128
def opShl (t : IType) (x b : Nat) : Nat := x % 2 ^ tyWidth t * 2 ^ shiftCount b % 2 ^ tyWidth t
def opShr (t : IType) (x b : Nat) : Nat := x % 2 ^ tyWidth t / 2 ^ shiftCount b
def opSar (t : IType) (x b : Nat) : Nat := unsignedOf (tyWidth t) (signedOf (tyWidth t) x / (2 : Int) ^ shiftCount b)
def opRotl (t : IType) (x b : Nat) : Nat :=
  let w := tyWidth t
  let p := x % 2 ^ w
  let n := shiftCount b % w
  (p * 2 ^ n % 2 ^ w) + p / 2 ^ (w - n)
def opPopc (t : IType) (x : Nat) : Nat := popCount x (tyWidth t)
def opClz (t : IType) (x : Nat) : Nat :=
  match msbBelow x (tyWidth t) with
  | none => tyWidth t
  | some m => tyWidth t - 1 - m
/-- brev: bit i moved to bit W−1−i. -/
def opBrev (t : IType) (x : Nat) : Nat := packNat 1 (fun i => bit (x.testBit (tyWidth t - 1 - i))) (tyWidth t)
/-- bfx: position b[6:0], length min(b[14:8], W) (R399). -/
def opBfx (t : IType) (x b : Nat) : Nat :=
  let len := min (field b 14 8) (tyWidth t)
  let f : Int := readInt t x / (2 : Int) ^ (b % 128) % (2 : Int) ^ len
  let r := if len = 0 then 0 else if t.isSigned && decide (2 * f ≥ (2 : Int) ^ len) then f - (2 : Int) ^ len else f
  wrapInt t r
/-- bfi: insert the low bits of x into c (R399). -/
def opBfi (t : IType) (x b c : Nat) : Nat :=
  let w := 2 ^ tyWidth t
  let len := min (field b 14 8) (tyWidth t)
  let pos := b % 128
  let m := (2 ^ len - 1) * 2 ^ pos % w
  ((c % w) &&& (w - 1 - m)) ||| (x * 2 ^ pos % w &&& m)

/-- lea: (a + y · 2^k) mod 2^64, y read at type t (R404). -/
def opLea (t : IType) (k : Nat) (a y : Nat) : Nat := unsignedOf 64 ((a : Int) + readInt t y * (2 : Int) ^ k)

/-- The condition of icmp on two raw values (R401). -/
def opCmp (cond : ICond) (t : IType) (x y : Nat) : Bool :=
  let a := readInt t x
  let b := readInt t y
  match cond with
  | .eq => decide (a = b)
  | .ne => decide (a ≠ b)
  | .lt => decide (a < b)
  | .le => decide (a ≤ b)
  | .gt => decide (b < a)
  | .ge => decide (b ≤ a)

/-! ### Issue -/

/-- Cycles of a vector integer instruction (R405): a 64-bit type takes two per beat, a 64-bit product four. -/
def intCycles (wide product scalar : Bool) (n : Nat) : Nat :=
  if scalar then 1 else max 1 (ceilDiv n 16) * (if wide then (if product then 4 else 2) else 1)

/-- Class 7 units (R405, 07 R186); an empty stream mask charges nothing. -/
def intCharge (wide product scalar : Bool) (c : Core) (n : Nat) : Nat :=
  if n = 0 then 0 else weight c 7 * intCycles wide product scalar n

/-- Subcode 0x42: a pair at an odd register (R392). -/
def oddOwn (ds : List Bool) : Option (Nat × Nat) := if ds.any id then some (1, 0x42) else none

/-- A long integer instruction over its sources; all of them and the destination have the type's width.
(DEDUCED, log 18) -/
def intOp (c : Ctl) (t : IType) (d : Reg) (srcs : List Src) (product : Bool) (f : List Nat → Nat) : LaneOp :=
  let w := tyWide t
  let os := srcs.map (fun s => (⟨s, w⟩ : Opnd))
  let dst := DestReg.ofReg d w
  { spec :=
      { e := c.e, pred := c.pred.toNat, neg := c.neg
        own := oddOwn (dst.odd :: os.map Opnd.odd)
        srcs := os, dst := dst
        charge := intCharge w product d.isS
        cycles := intCycles w product d.isS }
    result := fun _ _ vs => (extInt t (f vs), 0) }

/-- The first, second and third values of a list. -/
def v1 (l : List Nat) : Nat := l.headD 0
def v2 (l : List Nat) : Nat := (l.drop 1).headD 0
def v3 (l : List Nat) : Nat := (l.drop 2).headD 0

def int1 (c : Ctl) (o : IOp1) (f : IType → Nat → Nat) : LaneOp :=
  intOp c o.ty o.d [o.a] false (fun vs => f o.ty (v1 vs))
def int2 (c : Ctl) (o : IOp2) (product : Bool) (f : IType → Nat → Nat → Nat) : LaneOp :=
  intOp c o.ty o.d [o.a, o.b] product (fun vs => f o.ty (v1 vs) (v2 vs))
def int3 (c : Ctl) (o : IOp3) (product : Bool) (f : IType → Nat → Nat → Nat → Nat) : LaneOp :=
  intOp c o.ty o.d [o.a, o.b, o.c.toSrc] product (fun vs => f o.ty (v1 vs) (v2 vs) (v3 vs))

/-- The number of a short operand: 128 · reach + field (12 R341). -/
def reachD (pre : Option Pfx) (d : BitVec 7) : Nat := (pre.elim 0 (fun p => 128 * p.dhi.toNat)) + d.toNat
def reachS (pre : Option Pfx) (x : BitVec 7) : Nat := (pre.elim 0 (fun p => 128 * p.shi.toNat)) + x.toNat

/-- A short integer instruction over d (as a source where `binary`) and s. -/
def shortInt (pre : Option Pfx) (o : SI) (binary product : Bool) (f : IType → Nat → Nat → Nat) : LaneOp :=
  let w := tyWide o.ty
  let d := reachD pre o.d
  let src : Opnd := ⟨shortSrc (reachS pre o.s) o.last, w⟩
  let os := if binary then [⟨shortSrc d false, w⟩, src] else [src]
  { spec :=
      { e := o.e, pred := o.pred.toNat, neg := false
        queueDst := shortQueueDst d
        own := oddOwn ((w && d % 2 == 1) :: os.map Opnd.odd)
        srcs := os, dst := .v d w
        charge := intCharge w product false
        cycles := intCycles w product false }
    result := fun _ _ vs => (extInt o.ty (if binary then f o.ty (v1 vs) (v2 vs) else f o.ty (v1 vs) 0), 0) }

/-- A short shift: d by a 7-bit count (12 R340, kind Si). -/
def shortShift (pre : Option Pfx) (o : SShift) (f : IType → Nat → Nat → Nat) : LaneOp :=
  let w := tyWide o.ty
  let d := reachD pre o.d
  let os := [(⟨shortSrc d false, w⟩ : Opnd)]
  { spec :=
      { e := o.e, pred := o.pred.toNat, neg := false
        queueDst := shortQueueDst d
        own := oddOwn [w && d % 2 == 1]
        srcs := os, dst := .v d w
        charge := intCharge w false false
        cycles := intCycles w false false }
    result := fun _ _ vs => (extInt o.ty (f o.ty (v1 vs) o.cnt.toNat), 0) }

/-- Issue an integer instruction alone. -/
def runInt (s : State) (o : LaneOp) : Out := issueLane s (fun _ _ => o)
/-- Issue a short integer instruction alone. -/
def runShort (s : State) (o : Option Pfx → LaneOp) : Out := issueLane s (fun _ pre => o pre)

/-! ### Short forms, alone or in a pair (12 R342) -/

def sIadd (o : SI) (p : Option Pfx) : LaneOp := shortInt p o true false (fun t => opAdd t false)
def sIsub (o : SI) (p : Option Pfx) : LaneOp := shortInt p o true false (fun t => opSub t false)
def sImul (o : SI) (p : Option Pfx) : LaneOp := shortInt p o true true opMul
def sImulh (o : SI) (p : Option Pfx) : LaneOp := shortInt p o true true opMulh
def sImin (o : SI) (p : Option Pfx) : LaneOp := shortInt p o true false opMin
def sImax (o : SI) (p : Option Pfx) : LaneOp := shortInt p o true false opMax
def sIabs (o : SI) (p : Option Pfx) : LaneOp := shortInt p o false false (fun t x _ => opAbs t false x)
def sAnd (o : SI) (p : Option Pfx) : LaneOp := shortInt p o true false opAnd
def sOr (o : SI) (p : Option Pfx) : LaneOp := shortInt p o true false opOr
def sXor (o : SI) (p : Option Pfx) : LaneOp := shortInt p o true false opXor
def sAndn (o : SI) (p : Option Pfx) : LaneOp := shortInt p o true false opAndn
def sShl (o : SShift) (p : Option Pfx) : LaneOp := shortShift p o opShl
def sShr (o : SShift) (p : Option Pfx) : LaneOp := shortShift p o opShr
def sSar (o : SShift) (p : Option Pfx) : LaneOp := shortShift p o opSar
def sRotl (o : SShift) (p : Option Pfx) : LaneOp := shortShift p o opRotl
def sPopc (o : SI) (p : Option Pfx) : LaneOp := shortInt p o false false (fun t x _ => opPopc t x)
def sClz (o : SI) (p : Option Pfx) : LaneOp := shortInt p o false false (fun t x _ => opClz t x)
def sBrev (o : SI) (p : Option Pfx) : LaneOp := shortInt p o false false (fun t x _ => opBrev t x)
def sMov (o : SI) (p : Option Pfx) : LaneOp := shortInt p o false false (fun t x _ => x % 2 ^ tyWidth t)
def sMovi (pred : BitVec 4) (k d : BitVec 7) (e : Bool) (p : Option Pfx) : LaneOp :=
  { spec :=
      { e := e, pred := pred.toNat, neg := false
        queueDst := shortQueueDst (reachD p d)
        dst := .v (reachD p d) false
        charge := intCharge false false false
        cycles := intCycles false false false }
    result := fun _ _ _ => ((k.signExtend 32).toNat, 0) }

/-! ### Meanings -/

def execIadd (c : Ctl) (sat : Bool) (o : IOp2) (s : State) : Out := runInt s (int2 c o false (fun t => opAdd t sat))
def execIaddShort (o : SI) (s : State) : Out := runShort s (sIadd o)
def execIsub (c : Ctl) (sat : Bool) (o : IOp2) (s : State) : Out := runInt s (int2 c o false (fun t => opSub t sat))
def execIsubShort (o : SI) (s : State) : Out := runShort s (sIsub o)
def execImul (c : Ctl) (o : IOp2) (s : State) : Out := runInt s (int2 c o true opMul)
def execImulShort (o : SI) (s : State) : Out := runShort s (sImul o)
def execImad (c : Ctl) (sat : Bool) (o : IOp3) (s : State) : Out := runInt s (int3 c o true (fun t => opMad t sat))
def execImulh (c : Ctl) (o : IOp2) (s : State) : Out := runInt s (int2 c o true opMulh)
def execImulhShort (o : SI) (s : State) : Out := runShort s (sImulh o)
def execImin (c : Ctl) (o : IOp2) (s : State) : Out := runInt s (int2 c o false opMin)
def execIminShort (o : SI) (s : State) : Out := runShort s (sImin o)
def execImax (c : Ctl) (o : IOp2) (s : State) : Out := runInt s (int2 c o false opMax)
def execImaxShort (o : SI) (s : State) : Out := runShort s (sImax o)
def execIabs (c : Ctl) (sat : Bool) (o : IOp1) (s : State) : Out := runInt s (int1 c o (fun t => opAbs t sat))
def execIabsShort (o : SI) (s : State) : Out := runShort s (sIabs o)
def execAnd (c : Ctl) (o : IOp2) (s : State) : Out := runInt s (int2 c o false opAnd)
def execAndShort (o : SI) (s : State) : Out := runShort s (sAnd o)
def execOr (c : Ctl) (o : IOp2) (s : State) : Out := runInt s (int2 c o false opOr)
def execOrShort (o : SI) (s : State) : Out := runShort s (sOr o)
def execXor (c : Ctl) (o : IOp2) (s : State) : Out := runInt s (int2 c o false opXor)
def execXorShort (o : SI) (s : State) : Out := runShort s (sXor o)
def execAndn (c : Ctl) (o : IOp2) (s : State) : Out := runInt s (int2 c o false opAndn)
def execAndnShort (o : SI) (s : State) : Out := runShort s (sAndn o)
def execShl (c : Ctl) (o : IOp2) (s : State) : Out := runInt s (int2 c o false opShl)
def execShlShort (o : SShift) (s : State) : Out := runShort s (sShl o)
def execShr (c : Ctl) (o : IOp2) (s : State) : Out := runInt s (int2 c o false opShr)
def execShrShort (o : SShift) (s : State) : Out := runShort s (sShr o)
def execSar (c : Ctl) (o : IOp2) (s : State) : Out := runInt s (int2 c o false opSar)
def execSarShort (o : SShift) (s : State) : Out := runShort s (sSar o)
def execRotl (c : Ctl) (o : IOp2) (s : State) : Out := runInt s (int2 c o false opRotl)
def execRotlShort (o : SShift) (s : State) : Out := runShort s (sRotl o)
def execPopc (c : Ctl) (o : IOp1) (s : State) : Out := runInt s (int1 c o opPopc)
def execPopcShort (o : SI) (s : State) : Out := runShort s (sPopc o)
def execClz (c : Ctl) (o : IOp1) (s : State) : Out := runInt s (int1 c o opClz)
def execClzShort (o : SI) (s : State) : Out := runShort s (sClz o)
def execBrev (c : Ctl) (o : IOp1) (s : State) : Out := runInt s (int1 c o opBrev)
def execBrevShort (o : SI) (s : State) : Out := runShort s (sBrev o)
def execBfx (c : Ctl) (o : IOp2) (s : State) : Out := runInt s (int2 c o false opBfx)
def execBfi (c : Ctl) (o : IOp3) (s : State) : Out := runInt s (int3 c o false opBfi)
/-- `mov` (R400). -/
def execMov (c : Ctl) (o : IOp1) (s : State) : Out := runInt s (int1 c o (fun t x => x % 2 ^ tyWidth t))
def execMovShort (o : SI) (s : State) : Out := runShort s (sMov o)
def execMoviShort (pred : BitVec 4) (k d : BitVec 7) (e : Bool) (s : State) : Out := runShort s (sMovi pred k d e)

/-- `icmp` writes predicate pd of each stream-mask lane (R401); a pd above 15 takes subcode 0x43 (R393). -/
def execIcmp (c : Ctl) (cond : ICond) (t : IType) (pd : Fin 384) (a b : Src) (s : State) : Out :=
  let w := tyWide t
  let os := [(⟨a, w⟩ : Opnd), ⟨b, w⟩]
  runInt s
    { spec :=
        { e := c.e, pred := c.pred.toNat, neg := c.neg
          own := if pd.val ≥ 16 then some (1, 0x43) else oddOwn (os.map Opnd.odd)
          srcs := os, dst := .p pd.val
          charge := intCharge w false false
          cycles := intCycles w false false }
      result := fun _ _ vs => (bit (opCmp cond t (v1 vs) (v2 vs)), 0) }

/-- `sel` chooses by predicate pc (R402). -/
def execSel (c : Ctl) (t : IType) (d : Fin 384) (a b : Src) (pc : BitVec 9) (s : State) : Out :=
  let w := tyWide t
  let os := [(⟨a, w⟩ : Opnd), ⟨b, w⟩]
  let dst := DestReg.v d.val w
  runInt s
    { spec :=
        { e := c.e, pred := c.pred.toNat, neg := c.neg
          own := if pc.toNat ≥ 16 then some (1, 0x43) else oddOwn (dst.odd :: os.map Opnd.odd)
          srcs := os, dst := dst
          charge := intCharge w false false
          cycles := intCycles w false false }
      result := fun g l vs => (extInt t (if inMask (preg g pc.toNat) l then v1 vs else v2 vs), 0) }

/-- `movi` (R403). -/
def execMovi (c : Ctl) (var : MoviVar) (d : Reg) (k : BitVec 30) (s : State) : Out :=
  let bad := match var, d with
    | .k30, _ => false
    | .b30, .s _ => false
    | .b30, .v _ => k.toNat ≥ 4
    | .b60, .s _ => k.toNat ≥ 16
    | .b60, .v _ => true
  let old : Src := match d with
    | .v n => .v n false
    | .s n => .s n
  let f (x : Nat) : Nat := match var, d with
    | .k30, _ => (k.signExtend 64).toNat
    | .b30, .s _ => setField x 59 30 k.toNat
    | .b30, .v _ => setField x 31 30 k.toNat
    | .b60, _ => setField x 63 60 k.toNat
  runInt s
    { spec :=
        { e := c.e, pred := c.pred.toNat, neg := c.neg
          own := if bad then some (1, 0x40) else none
          srcs := if var = .k30 then [] else [⟨old, false⟩]
          dst := DestReg.ofReg d false
          charge := intCharge false false d.isS
          cycles := intCycles false false d.isS }
      result := fun _ _ vs => (f (v1 vs), 0) }

/-- `lea`: a is 64 bits whatever the type (R404). -/
def execLea (c : Ctl) (scale : BitVec 3) (o : IOp2) (s : State) : Out :=
  let os := [(⟨o.a, true⟩ : Opnd), ⟨o.b, tyWide o.ty⟩]
  let dst := DestReg.ofReg o.d true
  runInt s
    { spec :=
        { e := c.e, pred := c.pred.toNat, neg := c.neg
          own := oddOwn (dst.odd :: os.map Opnd.odd)
          srcs := os, dst := dst
          charge := intCharge (tyWide o.ty) false o.d.isS
          cycles := intCycles (tyWide o.ty) false o.d.isS }
      result := fun _ _ vs => (opLea o.ty scale.toNat (v1 vs) (v2 vs), 0) }

end Sys2Proof.Machine
end

