-- ==== Sys2Proof/Machine/Float.lean ====
section
/-! DEFINITION. The floating-point arithmetic instructions (spec/15_isa_vector_lane.md R420-R427). -/

namespace Sys2Proof.Machine

/-- The element format of a floating-point type and whether it is packed (13 R373). -/
def ftFmt : FType → Fmt
  | .f32 => fmt32
  | .f16 | .f16x2 => fmt16
  | .bf16 | .bf16x2 => fmtB16
def ftPacked : FType → Bool
  | .f16x2 | .bf16x2 => true
  | _ => false

/-- Element e of a source as a number (R420). -/
def ftElem (t : FType) (raw e : Nat) : Num :=
  match t with
  | .f32 => decFmt fmt32 (raw % 2 ^ 32)
  | _ => decFmt (ftFmt t) (raw / 2 ^ (16 * e) % 2 ^ 16)

/-- An operand modifier: absolute value before negation (R421). -/
def modNum (neg abs : Bool) (x : Num) : Num :=
  let y := if abs then numAbs x else x
  if neg then numNeg y else y

/-- The environment without rounding, saturation or flushing in force, as `fmin` and `fmax` deliver (R425). -/
def exactEnv : FpEnv := ⟨0, 0, false, 0, 0⟩

/-- Compute each element of a lane: sources modified, flushed, operated on and delivered (R424, 13 R383). -/
def fpLane (t : FType) (v : FpEnv) (exact : Bool) (mods : List (Bool × Bool)) (f : List Num → Num × Nat)
    (lane : Nat) (raws : List Nat) : Nat × Nat :=
  let one (e : Nat) : Nat × Nat :=
    let xs := (raws.zip mods).map (fun p => ftzIn (ftFmt t) v.flush (modNum p.2.1 p.2.2 (ftElem t p.1 e)))
    deliver (ftFmt t) (if exact then exactEnv else v) (srand v lane e) (f xs)
  if ftPacked t then
    let a := one 0
    let b := one 1
    (a.1 + b.1 * 2 ^ 16, a.2 ||| b.2)
  else one 0

/-- Units of an activity class for a count of cycles; an empty mask charges nothing (07 R186). -/
def classCharge (cls : Nat) (cyc : Nat → Nat) (c : Core) (n : Nat) : Nat := if n = 0 then 0 else weight c cls * cyc n

/-- Cycles on the vector datapath: one per beat (R427). -/
def vecCycles (scalar : Bool) (n : Nat) : Nat := if scalar then 1 else max 1 (ceilDiv n 16)
/-- Cycles on the transcendental unit (R427). -/
def transCycles (t : FType) (scalar : Bool) (n : Nat) : Nat :=
  if scalar then 4 else max 1 (ceilDiv n 4) * (if ftPacked t then 2 else 1)

/-- A floating-point instruction's function with how it runs. -/
structure FpFun where
  f : List Num → Num × Nat
  /-- exact and without exceptions: `fmin`, `fmax` -/
  exact : Bool := false
  /-- on the transcendental unit -/
  trans : Bool := false

/-- A floating-point instruction on a core (R423-R427). -/
def fpOp (e : Bool) (pred : Nat) (neg : Bool) (g : Group) (pre : Option Pfx) (ahead : Nat) (t : FType) (queueDst : Bool)
    (d : DestReg) (srcs : List Src) (mods : List (Bool × Bool)) (k : FpFun) : LaneOp :=
  let v := fpEnv g pre ahead
  let sc := d.isS
  { spec :=
      { e := e, pred := pred, neg := neg, queueDst := queueDst
        srcs := srcs.map (fun x => (⟨x, false⟩ : Opnd)), dst := d
        charge := if k.trans then
            fun c n => if sc then (if n = 0 then 0 else weight c 4) else classCharge 4 (transCycles t false) c n
          else classCharge 3 (vecCycles sc)
        cycles := if k.trans then transCycles t sc else vecCycles sc }
    result := fun _ l vs => fpLane t v k.exact mods k.f l vs
    rs := !k.exact && v.mode == 5
    event := if k.trans then 0 else 0x70
    trans := k.trans }

def numAt (l : List Num) (i : Nat) : Num := (l[i]?).getD .nan

/-- A sum of two numbers under the mode's zero sign (13 R377). -/
def fnAdd (m : Nat) : FpFun := ⟨fun l => numAdd (m == 3) (numAt l 0) (numAt l 1), false, false⟩
def fnSub (m : Nat) : FpFun := ⟨fun l => numAdd (m == 3) (numAt l 0) (numNeg (numAt l 1)), false, false⟩
def fnMul : FpFun := ⟨fun l => numMul (numAt l 0) (numAt l 1), false, false⟩
/-- ffma: exact product and sum, rounded once; NV of the product stands with a NaN addend (R424). -/
def fnFma (m : Nat) : FpFun :=
  ⟨fun l =>
    let p := numMul (numAt l 0) (numAt l 1)
    let r := numAdd (m == 3) p.1 (numAt l 2)
    (r.1, p.2 ||| r.2), false, false⟩
def fnMin : FpFun := ⟨fun l => (numMin (numAt l 0) (numAt l 1), 0), true, false⟩
def fnMax : FpFun := ⟨fun l => (numMax (numAt l 0) (numAt l 1), 0), true, false⟩
/-- A function of the transcendental unit (R426). -/
def fnTrans (f : Num → Num × Nat) : FpFun := ⟨fun l => f (numAt l 0), false, true⟩

/-- The rounding mode in force (13 R346). -/
def modeOf (g : Group) (pre : Option Pfx) : Nat := (fpEnv g pre 0).mode

def fp2 (c : Ctl) (o : FOp2) (k : Nat → FpFun) (g : Group) (pre : Option Pfx) : LaneOp :=
  fpOp c.e c.pred.toNat c.neg g pre 0 o.ty false (.ofReg o.d false) [o.a, o.b]
    [(o.mods.negA, o.mods.absA), (o.mods.negB, false)] (k (modeOf g pre))
def fp1 (c : Ctl) (o : FOp1) (f : Num → Num × Nat) (g : Group) (pre : Option Pfx) : LaneOp :=
  fpOp c.e c.pred.toNat c.neg g pre 0 o.ty false (.ofReg o.d false) [o.a] [(o.negA, o.absA)] (fnTrans f)

/-- A short floating-point instruction of kind S2 (12 R339, 15 R423). -/
def shortFp2 (o : SF) (k : Nat → FpFun) (g : Group) (pre : Option Pfx) (ahead : Nat) : LaneOp :=
  let d := reachD pre o.d
  fpOp o.e o.pred.toNat false g pre ahead o.ty (shortQueueDst d) (.v d false)
    [shortSrc d false, shortSrc (reachS pre o.s) o.last] [(false, false), (false, false)] (k (modeOf g pre))
/-- A short floating-point instruction of kind S1. -/
def shortFp1 (o : SF) (f : Num → Num × Nat) (g : Group) (pre : Option Pfx) (ahead : Nat) : LaneOp :=
  let d := reachD pre o.d
  fpOp o.e o.pred.toNat false g pre ahead o.ty (shortQueueDst d) (.v d false)
    [shortSrc (reachS pre o.s) o.last] [(false, false)] (fnTrans f)

/-- Transcendental-unit cycles are counted beside the issue (R444). -/
def runFp (s : State) (f : Group → Option Pfx → LaneOp) : Out := issueLane s f
def runTrans (s : State) (f : Group → Option Pfx → LaneOp) : Out :=
  match issueCtx s 0 false with
  | none => .fault .noIssuingGroup
  | some c =>
    let o := f c.g c.pre
    issue s o.spec (fun k s => laneBody o k (countPerf s k.core 0x71 (o.spec.cycles (laneCount k.mask))))

def execFadd (c : Ctl) (o : FOp2) (s : State) : Out := runFp s (fp2 c o fnAdd)
def execFaddShort (o : SF) (s : State) : Out := runFp s (fun g p => shortFp2 o fnAdd g p 0)
def execFsub (c : Ctl) (o : FOp2) (s : State) : Out := runFp s (fp2 c o fnSub)
def execFsubShort (o : SF) (s : State) : Out := runFp s (fun g p => shortFp2 o fnSub g p 0)
def execFmul (c : Ctl) (o : FOp2) (s : State) : Out := runFp s (fp2 c o (fun _ => fnMul))
def execFmulShort (o : SF) (s : State) : Out := runFp s (fun g p => shortFp2 o (fun _ => fnMul) g p 0)
/-- `ffma`: bit [30] negates src3 (R421). -/
def execFfma (c : Ctl) (o : FOp2) (c3 : Reg) (s : State) : Out :=
  runFp s (fun g p => fpOp c.e c.pred.toNat c.neg g p 0 o.ty false (.ofReg o.d false) [o.a, o.b, c3.toSrc]
    [(o.mods.negA, o.mods.absA), (false, false), (o.mods.negB, false)] (fnFma (modeOf g p)))
def execFmin (c : Ctl) (o : FOp2) (s : State) : Out := runFp s (fp2 c o (fun _ => fnMin))
def execFminShort (o : SF) (s : State) : Out := runFp s (fun g p => shortFp2 o (fun _ => fnMin) g p 0)
def execFmax (c : Ctl) (o : FOp2) (s : State) : Out := runFp s (fp2 c o (fun _ => fnMax))
def execFmaxShort (o : SF) (s : State) : Out := runFp s (fun g p => shortFp2 o (fun _ => fnMax) g p 0)

/-- The condition of `fcmp` (R425). -/
def fpCmp (cond : FCond) (x y : Num) : Bool :=
  match cond with
  | .eq => numEq x y
  | .ne => !numEq x y
  | .lt => numLt x y
  | .le => numLt x y || numEq x y
  | .gt => numLt y x
  | .ge => numLt y x || numEq x y
  | .un => isNan x || isNan y
  | .ord => !isNan x && !isNan y

/-- `fcmp` writes predicate pd (R425). -/
def execFcmp (c : Ctl) (cond : FCond) (t : FType) (pd : Fin 384) (a b : Src) (s : State) : Out :=
  runFp s (fun g p =>
    let fl := (fpEnv g p 0).flush
    { spec :=
        { e := c.e, pred := c.pred.toNat, neg := c.neg
          own := if pd.val ≥ 16 then some (1, 0x43) else none
          srcs := [⟨a, false⟩, ⟨b, false⟩], dst := .p pd.val
          charge := classCharge 3 (vecCycles false)
          cycles := vecCycles false }
      result := fun _ _ vs =>
        (bit (fpCmp cond (ftzIn (ftFmt t) fl (ftElem t (v1 vs) 0)) (ftzIn (ftFmt t) fl (ftElem t (v2 vs) 0))), 0)
      event := 0x70 })

def execFrcp (c : Ctl) (o : FOp1) (s : State) : Out := runTrans s (fp1 c o fRcp)
def execFrcpShort (o : SF) (s : State) : Out := runTrans s (fun g p => shortFp1 o fRcp g p 0)
def execFrsq (c : Ctl) (o : FOp1) (s : State) : Out := runTrans s (fp1 c o fRsq)
def execFrsqShort (o : SF) (s : State) : Out := runTrans s (fun g p => shortFp1 o fRsq g p 0)
def execFsqrt (c : Ctl) (o : FOp1) (s : State) : Out := runTrans s (fp1 c o fSqrt)
def execFsqrtShort (o : SF) (s : State) : Out := runTrans s (fun g p => shortFp1 o fSqrt g p 0)
def execFexp2 (c : Ctl) (o : FOp1) (s : State) : Out := runTrans s (fp1 c o fExp2)
def execFexp2Short (o : SF) (s : State) : Out := runTrans s (fun g p => shortFp1 o fExp2 g p 0)
def execFlog2 (c : Ctl) (o : FOp1) (s : State) : Out := runTrans s (fp1 c o fLog2)
def execFlog2Short (o : SF) (s : State) : Out := runTrans s (fun g p => shortFp1 o fLog2 g p 0)
def execFsin (c : Ctl) (o : FOp1) (s : State) : Out := runTrans s (fp1 c o fSin)
def execFsinShort (o : SF) (s : State) : Out := runTrans s (fun g p => shortFp1 o fSin g p 0)
def execFcos (c : Ctl) (o : FOp1) (s : State) : Out := runTrans s (fp1 c o fCos)
def execFcosShort (o : SF) (s : State) : Out := runTrans s (fun g p => shortFp1 o fCos g p 0)
def execFtanh (c : Ctl) (o : FOp1) (s : State) : Out := runTrans s (fp1 c o fTanh)
def execFtanhShort (o : SF) (s : State) : Out := runTrans s (fun g p => shortFp1 o fTanh g p 0)

end Sys2Proof.Machine
end

