-- ==== Sys2Proof/Machine/Convert.lean ====
section
/-! DEFINITION. The conversion instructions (spec/15_isa_vector_lane.md R428-R432). -/

namespace Sys2Proof.Machine

/-- The number format of an element format other than H4, and its width (13 R367, R374). -/
def efFmt : EFmt → Fmt
  | .e4m3 | .mx8e4 => fmtE4M3
  | .e5m2 | .mx8e5 => fmtE5M2
  | .vf4 | .h4 => fmtE2M1
  | .bf16 => fmtB16
  | .f16 => fmt16
def efWidth : EFmt → Nat
  | .e4m3 | .mx8e4 | .e5m2 | .mx8e5 => 8
  | .vf4 | .h4 => 4
  | .bf16 | .f16 => 16
/-- Flushing never applies to E2M1 and H4 (13 R383). -/
def efNoFlush : EFmt → Bool
  | .vf4 | .h4 => true
  | _ => false

/-- dec(c, F) (13 R387). -/
def efDec (f : EFmt) (c : Nat) : Num :=
  match f with
  | .h4 => decH4 (c % 16)
  | _ => decFmt (efFmt f) (c % 2 ^ efWidth f)

/-- NV of converting a special value (13 R384). -/
def convNV (f : EFmt) (x : Num) : Nat :=
  match f, x with
  | .e4m3, .inf _ | .mx8e4, .inf _ | .vf4, .inf _ | .h4, .inf _ | .vf4, .nan | .h4, .nan => flNV
  | _, _ => 0

/-- A binary32 number converted to an element format: code and exceptions (R429). -/
def efEnc (f : EFmt) (v : FpEnv) (r : Nat) (x : Num) : Nat × Nat :=
  match f with
  | .h4 => deliverH4 v r (x, convNV f x)
  | _ => deliver (efFmt f) { v with flush := v.flush && !efNoFlush f } r (x, convNV f x)

/-- A binary32 source, flushed under the prefix (R422). -/
def f32In (v : FpEnv) (raw : Nat) : Num := ftzIn fmt32 v.flush (decFmt fmt32 (raw % 2 ^ 32))

/-- cvtint (13 R387). -/
def cvtInt (t : IType) (v : FpEnv) (r : Nat) (x : Num) : Nat × Nat :=
  match x with
  | .nan => (0, flNV)
  | .inf s => (wrapInt t (if s then tyMin t else tyMax t), flNV)
  | .fin s _ _ _ =>
    let (m, inex) := roundInt v.mode r x
    let y := sInt s m
    if y < tyMin t || tyMax t < y then (wrapInt t (satInt t y), flNV)
    else (wrapInt t y, if inex then flNX else 0)

/-- An integer as a number. -/
def intNum (i : Int) : Num := .fin (decide (i < 0)) i.natAbs 0 false

/-- `cvt.rint` (R429): rounded to an integer keeping the sign. -/
def rintNum (v : FpEnv) (r : Nat) (x : Num) : Num × Nat :=
  match x with
  | .fin s _ _ _ =>
    let (m, inex) := roundInt v.mode r x
    (.fin s m 0 false, if inex then flNX else 0)
  | y => (y, 0)

/-- One lane of `cvt` (R429). -/
def cvtLane (var : CvtVar) (v : FpEnv) (lane raw : Nat) : Nat × Nat :=
  let r := srand v lane 0
  match var with
  | .to f => efEnc f v r (f32In v raw)
  | .from f =>
    let x := efDec f raw
    (encFmt fmt32 (if efNoFlush f then x else ftzIn (efFmt f) v.flush x), 0)
  | .toi t =>
    let o := cvtInt t v r (f32In v raw)
    (extInt t o.1 % 2 ^ 32, o.2)
  | .fromi t => deliver fmt32 v r (intNum (readInt t raw), 0)
  | .rint =>
    let o := rintNum v r (f32In v raw)
    deliver fmt32 { v with mode := 0 } 0 o

/-- A variant that rounds (R422). -/
def cvtRounds : CvtVar → Bool
  | .from _ => false
  | _ => true

/-- A conversion on a core. -/
def cvtOp (e : Bool) (pred : Nat) (neg : Bool) (g : Group) (pre : Option Pfx) (ahead : Nat) (queueDst : Bool)
    (var : CvtVar) (d : DestReg) (a : Src) : LaneOp :=
  let v := fpEnv g pre ahead
  let wide := match var with
    | .fromi t => tyWide t
    | _ => false
  let o : Opnd := ⟨a, wide⟩
  { spec :=
      { e := e, pred := pred, neg := neg, queueDst := queueDst
        own := oddOwn [o.odd]
        srcs := [o], dst := d
        charge := classCharge 3 (vecCycles d.isS)
        cycles := vecCycles d.isS }
    result := fun _ l vs => cvtLane var v l (v1 vs)
    rs := cvtRounds var && v.mode == 5
    event := 0x72 }

def execCvt (c : Ctl) (var : CvtVar) (d : Reg) (a : Src) (s : State) : Out :=
  runFp s (fun g p => cvtOp c.e c.pred.toNat c.neg g p 0 false var (.ofReg d false) a)

/-- Short `cvt.to` (12 R342). -/
def sCvt (o : SC) (g : Group) (p : Option Pfx) (ahead : Nat) : LaneOp :=
  let d := reachD p o.d
  cvtOp o.e o.pred.toNat false g p ahead (shortQueueDst d) (.to o.fmt) (.v d false) (shortSrc (reachS p o.s) o.last)

def execCvtShort (o : SC) (s : State) : Out := runFp s (fun g p => sCvt o g p 0)

/-- `pack` writes elements 2p and 2p + 1 of d (R430). -/
def execPack (c : Ctl) (p : BitVec 3) (f : EFmt) (d : Fin 384) (a b : Src) (s : State) : Out :=
  runFp s (fun g pre =>
    let v := fpEnv g pre 0
    let w := efWidth f
    { spec :=
        { e := c.e, pred := c.pred.toNat, neg := c.neg
          own := if 2 * p.toNat + 1 < 32 / w then none else some (1, 0x46)
          srcs := [⟨a, false⟩, ⟨b, false⟩, ⟨.v d false, false⟩], dst := .v d.val false
          charge := classCharge 3 (vecCycles false)
          cycles := vecCycles false }
      result := fun _ l vs =>
        let x := efEnc f v (srand v l (2 * p.toNat)) (f32In v (v1 vs))
        let y := efEnc f v (srand v l (2 * p.toNat + 1)) (f32In v (v2 vs))
        let lo := 2 * p.toNat * w
        (setField (v3 vs) (lo + 2 * w - 1) lo (x.1 + y.1 * 2 ^ w), x.2 ||| y.2)
      rs := v.mode == 5
      event := 0x72 })

/-- `unpack` (R431). -/
def execUnpack (c : Ctl) (e : BitVec 3) (f : EFmt) (d : Fin 384) (a : Src) (s : State) : Out :=
  runFp s (fun g pre =>
    let v := fpEnv g pre 0
    let w := efWidth f
    { spec :=
        { e := c.e, pred := c.pred.toNat, neg := c.neg
          own := if e.toNat < 32 / w then none else some (1, 0x46)
          srcs := [⟨a, false⟩], dst := .v d.val false
          charge := classCharge 3 (vecCycles false)
          cycles := vecCycles false }
      result := fun _ l vs => cvtLane (.from f) v l (v1 vs % 2 ^ 32 / 2 ^ (w * e.toNat))
      event := 0x72 })

/-- The lanes of block k of a mask, with their source numbers. -/
def qntLanes (v : FpEnv) (m : LaneMask) (x : Nat → Nat) (k : Nat) : List (Nat × Num) :=
  ((List.range 8).map (· + 8 * k)).filterMap (fun l => if inMask m l then some (l, f32In v (x l)) else none)

/-- One block of `qnt` (R432): the word, the scale code, and the exceptions of all its lanes. -/
def qntBlock (h4 : Bool) (v : FpEnv) (g : Num) (xs : List (Nat × Num)) : Nat × Nat × Nat :=
  let good := match g with
    | .fin s m _ _ => !s && m != 0
    | _ => false
  if !good then (0, 0, if xs.isEmpty then 0 else flNV)
  else
    let amax := xs.foldl (fun a p => if isNan p.2 then a else if numLt a (numAbs p.2) then numAbs p.2 else a)
      (Num.fin false 0 0 false)
    let q : Num := if h4 then .fin false 15 (-1) false else .fin false 6 0 false
    let sc := roundF fmtE3M5 2 0 (numDiv amax (numMul g q).1)
    let isInf := match amax with
      | .inf _ => true
      | _ => false
    let past := isInf || sc.2 &&& flOF != 0
    let scale := if past then 0xFF else encFmt fmtE3M5 sc.1
    let one (p : Nat × Num) : Nat × Nat :=
      if scale = 0 then (0, if isNan p.2 then flNV else 0)
      else
        let y := numDiv p.2 (numMul g (decFmt fmtE3M5 scale)).1
        efEnc (if h4 then .h4 else .vf4) v (srand v p.1 0) y
    let word := xs.foldl (fun w p => w + (one p).1 * 2 ^ (4 * (p.1 % 8))) 0
    let fl := xs.foldl (fun f p => f ||| (one p).2) (if past then flOF else 0)
    (word, scale, fl)

/-- `qnt` quantises 8-element blocks and counts as a lane operation (R432). -/
def execQnt (c : Ctl) (h4 : Bool) (d : Fin 384) (a : Src) (b : Fin 128) (s : State) : Out :=
  let os := [(⟨a, false⟩ : Opnd), ⟨.s b, false⟩]
  let dst := DestReg.v d.val true
  issue s
    { e := c.e, pred := c.pred.toNat, neg := c.neg
      own := oddOwn [dst.odd]
      srcs := os, dst := dst
      charge := classCharge 3 (fun n => 2 * vecCycles false n)
      cycles := fun n => 2 * vecCycles false n }
    (fun k s =>
      let g := k.g
      let v := { fpEnv g k.pre 0 with sat := 0 }
      let s := countPerf s k.core 0x72 1
      let band := decFmt fmtB16 (sreg g b.val % 2 ^ 16)
      let blk (j : Nat) := qntBlock h4 v band
        (qntLanes v k.full (fun l => v1 (opndVals g k.latch os l)) j)
      let blks := (List.range 8).map blk
      let at_ (j : Nat) := (blks[j]?).getD (0, 0, 0)
      let fl := blks.foldl (fun f x => f ||| x.2.2) 0
      let g := raiseFlags g fl
      if fl &&& g.frnd.ten.toNat != 0 then .trap (setGroup s k.key g) (k.trapFirst 0x18 fl 0)
      else if k.mask = 0 then .ok (setGroup s k.key (if v.mode = 5 then addScnt g 1 else g))
      else
        let g := writeLanes g d.val k.mask (fun l => w32 (at_ (l / 8)).1)
        let g := writeLanes g (d.val + 1) k.mask
          (fun l => w32 (ue8m7OfE3m5 (at_ (l / 8)).2.1 * 2 ^ 16 + (at_ (l / 8)).2.1))
        .ok (setGroup s k.key (if v.mode = 5 then addScnt g 1 else g)))

end Sys2Proof.Machine
end

