-- ==== Sys2Proof/Machine/Memory.lean ====
section
/-! DEFINITION. Physical memory: bytes, lines, keys, poison and dead rows (04 R98, R99; 03 R91, R92; 05 R145-R149;
01 R31), and the bank's register windows that hold no plain bytes. -/

namespace Sys2Proof.Machine

/-! ### Cells in canonical form -/

/-- The byte at an address; an unlisted byte reads 0 (DESIGN CHOICE, log 1). -/
def memGet : List Host.Cell → Nat → Byte
  | [], _ => 0
  | (k, v) :: r, a => if k = a then v else memGet r a

/-- Write one byte: addresses stay rising and no 0 is listed. -/
def memSet : List Host.Cell → Nat → Byte → List Host.Cell
  | [], a, x => if x = 0 then [] else [(a, x)]
  | (k, v) :: r, a, x =>
    if a < k then (if x = 0 then (k, v) :: r else (a, x) :: (k, v) :: r)
    else if a = k then (if x = 0 then r else (a, x) :: r)
    else (k, v) :: memSet r a x

/-- The canonical form: addresses strictly rising, no byte equal to what an unlisted address reads as. -/
def Memory.wf : List Host.Cell → Bool
  | [] => true
  | [(_, v)] => v != 0
  | (k, v) :: (j, w) :: r => v != 0 && decide (k < j) && Memory.wf ((j, w) :: r)

/-- One byte of physical memory. -/
def readByte (s : State) (pa : Nat) : Byte := memGet s.mem pa
def writeByte (s : State) (pa : Nat) (x : Byte) : State := { s with mem := memSet s.mem pa x }

/-! ### Places -/

/-- PA[51:48] (04 R99). -/
def window (pa : Nat) : Nat := pa / 2 ^ 48 % 16
def isHbm (pa : Nat) : Bool := window pa == 0
def isHost (pa : Nat) : Bool := window pa == 1
def isFabric (pa : Nat) : Bool := window pa == 2
def isMgmt (pa : Nat) : Bool := window pa == 15
/-- The stack of an HBM4E address (R99). -/
def stackOf (pa : Nat) : Nat := pa / 2 ^ 36 % 8
def stackTower (n : Nat) : Nat := n / 4
/-- The bank of an HBM4E address, package-wide: 4,096 · stack + 32 · pseudo-channel + bank (05 R137, 01 R20). -/
def bankOf (pa : Nat) : Nat := 4096 * stackOf pa + 32 * (pa / 2 ^ 10 % 128) + pa / 2 ^ 17 % 32
/-- Base of a stack's registers (05 R138). -/
def aStack (n off : Nat) : Nat := 0xA0000 + 0x100 * n + off
/-- STKST.STATE: 0 ONLINE, 1 DRAINING, 2 OFFLINE (05 R138). -/
def stackState (s : State) (n : Nat) : Nat := field (mreg s (aStack n 0)) 31 30
/-- A stack's interface retrains and moves no data (02 R50). -/
def retraining (s : State) (n : Nat) : Bool := (mgetD s.hbmStacks n Stack.reset).retraining
def stackUnit (s : State) (n : Nat) : Stack := mgetD s.hbmStacks n Stack.reset
def updStack (s : State) (n : Nat) (f : Stack → Stack) : State := { s with hbmStacks := mset s.hbmStacks n (f (stackUnit s n)) }
/-- A bank of HBM4E performs a command (01 R26). -/
def countBank (s : State) (pa : Nat) : State :=
  if isHbm pa then updStack s (stackOf pa) (fun u => { u with cmds := nset u.cmds (bankOf pa % 4096) (nget u.cmds (bankOf pa % 4096) + 1) })
  else s
/-- CXL mode: HLSTAT.MODE (02 R33). -/
def cxlMode (s : State) : Bool := (mreg s 0x50000).testBit 31

/-- The row of an HBM4E address is dead (05 R145). -/
def rowDead (s : State) (pa : Nat) : Bool := isHbm pa && (mget s.dead (pa / 1024)).isSome

/-- The place of a cell range: [a, a + n). -/
def clearRange (m : List Host.Cell) (a n : Nat) : List Host.Cell := m.filter (fun (c : Host.Cell) => c.1 < a || a + n ≤ c.1)

/-- Mark a row dead or live in the row-state map (05 R145). -/
def setDead (s : State) (row : Nat) (d : Bool) : State :=
  { s with dead := if d then mset s.dead row 1 else mdel s.dead row }

/-- The first write to a dead row makes it live, every other byte zero (05 R149). -/
def revive (s : State) (pa : Nat) : State :=
  if rowDead s pa then
    let s := setDead s (pa / 1024) false
    { s with mem := clearRange s.mem (pa / 1024 * 1024) 1024 }
  else s

/-! ### Lines of physical memory -/

/-- The stored bytes of a line. -/
def rawLine (s : State) (pa : Nat) : Line := lineOf (fun i => readByte s (pa / 64 * 64 + i))
def poisonWords (s : State) (pa : Nat) : BitVec 16 :=
  BitVec.ofNat 16 (packNat 1 (fun w => bit (mget s.poison (pa / 64 * 16 + w)).isSome) 16)
def setPoison (s : State) (pa : Nat) (p : BitVec 16) : State :=
  let f (m : Map Nat) (w : Nat) : Map Nat :=
    if p.getLsbD w then mset m (pa / 64 * 16 + w) 1 else mdel m (pa / 64 * 16 + w)
  { s with poison := foldUpto f s.poison 16 }
/-- The key material of a key slot (03 R91); 0 is an empty slot. -/
def keyGen (s : State) (slot : Nat) : Nat := nget s.keys slot
def keyTag (s : State) (slot : Nat) : Nat := slot * 2 ^ 257 + keyGen s slot
/-- Slot 0 is drawn at random: its number is no key that a request carries. -/
def sameKey (a b : Nat) : Bool :=
  a % 2 ^ 257 == b % 2 ^ 257 && (a / 2 ^ 257 == 0) == (b / 2 ^ 257 == 0)

/-- The bytes of the mask, a 32-bit word counted only when all four of its bytes are in it. -/
def fullWords (m : BitVec 64) : BitVec 16 :=
  BitVec.ofNat 16 (packNat 1 (fun w => bit (decide (m.toNat / 2 ^ (4 * w) % 16 = 15))) 16)
/-- The words with a byte in the mask (11 R312). -/
def wordsOf (m : BitVec 64) : BitVec 16 :=
  BitVec.ofNat 16 (packNat 1 (fun w => bit (decide (m.toNat / 2 ^ (4 * w) % 16 ≠ 0))) 16)
/-- The bytes of a word mask. -/
def wordBytes (w : BitVec 16) : BitVec 64 :=
  BitVec.ofNat 64 (packNat 4 (fun i => if w.getLsbD i then 15 else 0) 16)

/-- Read a line from DRAM under a key slot: a dead row reads zero; bytes written under other keys read as a value the
spec leaves open (03 R92, 05 R145). (DESIGN CHOICE, log 66) -/
def dramRead (s : State) (pa slot : Nat) : Line × BitVec 16 :=
  if rowDead s pa then (0, 0)
  else
    let raw := rawLine s pa
    match mget s.keyTags (pa / 64) with
    | none => (raw, poisonWords s pa)
    | some t =>
      if sameKey t (keyTag s slot) then (raw, poisonWords s pa)
      else (raw ^^^ Config.wrongKey (pa / 64) t (keyTag s slot), poisonWords s pa)

/-- Write bytes of a line to memory; words written whole lose their poison (01 R31), others keep `p`. -/
def dramWrite (s : State) (pa slot : Nat) (m : BitVec 64) (x : Line) (p : BitVec 16) : State :=
  let pa := pa / 64 * 64
  if m = 0 then s
  else
    let s := countBank (revive s pa) pa
    -- bytes kept from another key read as they would under this one
    let old := if isHbm pa then (dramRead s pa slot).1 else rawLine s pa
    let new := mergeLine m x old
    let mem := foldUpto (fun c i => memSet c (pa + i) (byteOf new i)) s.mem 64
    let s := { s with mem := mem }
    let s := if isHbm pa then { s with keyTags := mset s.keyTags (pa / 64) (keyTag s slot) } else s
    setPoison s pa ((poisonWords s pa &&& ~~~fullWords m) ||| p)

/-! ### Current contents by physical address -/

/-- The home line that holds a physical line, if cached. -/
def homeByPa (s : State) (pa : Nat) : Option (Nat × HomeLine) :=
  s.home.find? (fun (h : Nat × HomeLine) => h.2.pa == pa / 64 * 64)

/-- A home's record with the line's bytes: memory's, when L2 does not hold the line. -/
def loadHome (s : State) (h : HomeLine) : HomeLine :=
  if h.cached then h
  else
    let (d, p) := if isHbm h.pa then dramRead s h.pa h.key else (rawLine s h.pa, poisonWords s h.pa)
    { h with data := d, poison := p, dirty := false, cached := true }

/-- Column copies of a line that home can call in: T, E, M or P. -/
def homeCopies (s : State) (line : Nat) : List (Nat × L1Line) :=
  s.l1.filter (fun (e : Nat × L1Line) => e.1 % 2 ^ 46 == line && e.2.st != .u)

/-- A home line with the dirty bytes of the column copies. -/
def gathered (s : State) (k : Nat) (h : HomeLine) : HomeLine :=
  (homeCopies s (k % 2 ^ 46)).foldl (fun h (e : Nat × L1Line) =>
    if e.2.dirty = 0 then h
    else { h with
      data := mergeLine e.2.dirty e.2.data h.data, dirty := true
      poison := (h.poison &&& ~~~fullWords e.2.dirty) ||| (e.2.poison &&& wordsOf e.2.dirty) }) (loadHome s h)

/-- A line's current bytes: the L2 copy with what columns hold dirty, else memory (04 R105; the part's own accesses by
address). -/
def physLine (s : State) (pa : Nat) : Line :=
  match homeByPa s pa with
  | some (k, h) => (gathered s k h).data
  | none => if rowDead s pa then 0 else rawLine s pa

/-- n bytes at a physical address, little-endian, within one line. -/
def physRead (s : State) (pa n : Nat) : Nat := lineField (physLine s pa) (pa % 64) n

/-- The part's own write of n bytes at a physical address within one line, at home when home holds the line: columns'
copies are called in first. -/
def physWrite (s : State) (pa n v : Nat) : State :=
  let m := byteMask (pa % 64) n
  let x := linePlace v (pa % 64) n
  match (homeByPa s pa).filter (fun e => e.2.cached || !(homeCopies s (e.1 % 2 ^ 46)).isEmpty) with
  | some (k, h) =>
    let h := gathered s k h
    let s := revive s pa
    { s with
      home := mset s.home k { h with data := mergeLine m x h.data, dirty := true, poison := h.poison &&& ~~~fullWords m }
      l1 := s.l1.filter (fun (e : Nat × L1Line) => !(e.1 % 2 ^ 46 == k % 2 ^ 46 && e.2.st != .u)) }
  | none => dramWrite s pa ((mgetD s.keyTags (pa / 64) 0) / 2 ^ 257) m x 0

/-- Write a list of bytes' fields: (offset, size, value). -/
def physFields (s : State) (pa : Nat) (fs : List (Nat × Nat × Nat)) : State :=
  fs.foldl (fun s f => physWrite s (pa + f.1) f.2.1 f.2.2) s

end Sys2Proof.Machine
end

