-- ==== Sys2Proof/Machine/Translate.lean ====
section
/-! DEFINITION. Range registers, the page table, walks, leaf caches and faults (spec/04_translation_and_tiers.md
R98-R132). -/

namespace Sys2Proof.Machine

/-! ### Leaf entries (R109, R110) -/

def Leaf.key (l : Leaf) : Nat := field l.val 58 52
def Leaf.frame (l : Leaf) : Nat := field l.val 51 16
def Leaf.mig (l : Leaf) : Bool := l.val.testBit 14
def Leaf.res (l : Leaf) : Bool := l.val.testBit 13
def Leaf.dead (l : Leaf) : Bool := l.val.testBit 12
def Leaf.repl (l : Leaf) : Bool := l.val.testBit 11
def Leaf.prop (l : Leaf) : Bool := l.val.testBit 10
def Leaf.ht (l : Leaf) : Nat := bit (l.val.testBit 9)
def Leaf.pol (l : Leaf) : Policy :=
  match field l.val 8 7 with
  | 0 => .own | 1 => .wt | 2 => .sinv | _ => .winv
def Leaf.cls (l : Leaf) : Nat := field l.val 6 5
def Leaf.priv (l : Leaf) : Bool := l.val.testBit 4
def Leaf.ro (l : Leaf) : Bool := l.val.testBit 3

/-- PA of an IA through a leaf (R107, R109). -/
def Leaf.pa52 (l : Leaf) (ia : Nat) : Nat :=
  if l.level = 2 then l.frame * 2 ^ 16 + ia % 2 ^ 21 else l.frame * 2 ^ 16 + ia % 2 ^ 16

/-- The frame lies in a window and in its populated part (R99). -/
def frameOk (pa : Nat) : Bool :=
  match window pa with
  | 0 => field pa 47 39 == 0
  | 1 | 2 => true
  | 15 => field pa 47 24 == 0
  | _ => false

/-- A leaf entry is malformed (R110). -/
def Leaf.malformed (l : Leaf) : Bool :=
  let pa := l.frame * 2 ^ 16
  field l.val 63 59 != 0 || l.val.testBit 15 || l.val.testBit 2 ||
  !frameOk pa || (l.level == 2 && l.frame % 32 != 0) ||
  (!l.res && isHbm pa && l.ht != stackTower (stackOf pa)) ||
  (l.res && !isHost pa && !isFabric pa) ||
  (l.repl && (l.res || !isHbm pa)) || (l.dead && !isHbm pa) || (isMgmt pa && !l.priv)

/-! ### The page table (R107, R108) -/

def PTROOT : Nat := 0x90200

/-- Byte offset of the entry for an IA in a table of a level (R107). -/
def ptIndex (level ia : Nat) : Nat :=
  8 * (match level with
    | 0 => field ia 51 39
    | 1 => field ia 38 30
    | 2 => field ia 29 21
    | _ => field ia 20 16)

/-- What an entry read at a level means: a pointer to the next table, or the end of the walk. -/
def ptEntry (level : Nat) (l : Leaf) : Nat ⊕ WOut :=
  if !l.val.testBit 0 then .inr (.fault 0x05 l)
  else if l.val.testBit 1 then
    if level < 2 || l.malformed then .inr (.fault 0x04 l) else .inr (.leaf l)
  else
    let next := field l.val 51 8 * 256
    let align := if level = 2 then 256 else 4096
    if level ≥ 3 || field l.val 63 52 != 0 || field l.val 7 1 != 0 || field next 51 39 != 0 || next % align != 0 then
      .inr (.fault 0x04 l)
    else .inl next

/-- Read an entry of a table from DRAM, without L2 (R112); none while its stack refuses requests (05 R153). -/
def ptRead (s : State) (table level ia : Nat) : Option Leaf :=
  let a := table + ptIndex level ia
  if stackState s (stackOf a) ≠ 0 then none
  else
    let v := if rowDead s a then 0 else lineField (rawLine s a) (a % 64) 8
    some ⟨v, a, level⟩

/-- Carry a walk on until it ends or must be handed to another stack's walk unit (R112). -/
def walkOn (s : State) (w : Walk) : Nat → Walk
  | 0 => w
  | n + 1 =>
    match ptRead s w.table w.level w.req.ia with
    | none => { w with out := some .refused }
    | some l =>
      match ptEntry w.level l with
      | .inr o => { w with out := some o }
      | .inl next =>
        let w' := { w with level := w.level + 1, table := next }
        if stackOf next = stackOf w.table then walkOn s w' n else w'

/-- A whole walk at once, as the part's own units translate. -/
def walkAll (s : State) (ia table level : Nat) : Nat → WOut
  | 0 => .refused
  | n + 1 =>
    match ptRead s table level ia with
    | none => .refused
    | some l =>
      match ptEntry level l with
      | .inr o => o
      | .inl next => walkAll s ia next (level + 1) n

/-! ### Leaf caches (R112, R113) -/

def leafKey (tower ia : Nat) (level : Nat) : Nat :=
  if level = 2 then tower * 2 ^ 37 + 2 ^ 36 + ia / 2 ^ 21 else tower * 2 ^ 37 + ia / 2 ^ 16

def leafLookup (s : State) (tower ia : Nat) : Option Leaf :=
  match mget s.leaves (leafKey tower ia 3) with
  | some l => some l
  | none => mget s.leaves (leafKey tower ia 2)

/-- Put a leaf into a tower's cache; which entry leaves a full one is open (R113). (DEDUCED, log 64) -/
def leafInsert (s : State) (tower ia : Nat) (l : Leaf) : State :=
  let mine := s.leaves.filter (fun (e : Nat × Leaf) => e.1 / 2 ^ 37 == tower)
  if mine.length < 8192 then { s with leaves := mset s.leaves (leafKey tower ia l.level) l }
  else
    let (r, s) := drawFree s
    let victim := ((mine[r.toNat % mine.length]?).getD (0, l)).1
    { s with leaves := mset (mdel s.leaves victim) (leafKey tower ia l.level) l }

/-- Begin a walk for a request. -/
def startWalk (s : State) (r : XReq) : State :=
  let w := walkOn s ⟨r, 0, mreg s PTROOT, false, none⟩ 4
  due { s with walks := s.walks ++ [w] } [if w.out.isSome then .walkComplete else .walkHandoff]

/-! ### Range registers (R100-R105) -/

def RangeReg.v (r : RangeReg) : Bool := r.attr.toNat.testBit 0
def RangeReg.r (r : RangeReg) : Bool := r.attr.toNat.testBit 2
def RangeReg.w (r : RangeReg) : Bool := r.attr.toNat.testBit 3
def RangeReg.x (r : RangeReg) : Bool := r.attr.toNat.testBit 4
def RangeReg.privOnly (r : RangeReg) : Bool := r.attr.toNat.testBit 5
def RangeReg.zfok (r : RangeReg) : Bool := r.attr.toNat.testBit 6
def RangeReg.peer (r : RangeReg) : Option Nat :=
  if r.attr.toNat.testBit 7 then some (field r.attr.toNat 23 16) else none
/-- ATSC: the widest scope of atomics, 0 for none (R101). -/
def RangeReg.atsc (r : RangeReg) : Nat := field r.attr.toNat 10 8

/-- An entry with V 1 that would be an error in a launch record (R100, R101). -/
def RangeReg.bad (r : RangeReg) : Bool :=
  r.v && (r.limit.toNat ≤ r.base.toNat || r.base.toNat % 65536 != 0 || r.limit.toNat % 65536 != 0 ||
    field r.offset.toNat 63 52 != 0 || r.offset.toNat % 65536 != 0 ||
    field r.attr.toNat 63 24 != 0 || field r.attr.toNat 15 11 != 0 || r.attr.toNat.testBit 1 || r.atsc ≥ 6)

/-- Address of the context block of a launch slot (R105). -/
def ctxBlock (s : State) (slot : Nat) : Nat := mreg s 0x40 + 4096 * slot

/-- The range registers of a context block as they stand; a malformed entry counts as V 0 (R105). -/
def readRanges (s : State) (slot : Nat) : List RangeReg :=
  (List.range 8).map (fun i =>
    let a := ctxBlock s slot + 32 * i
    let r : RangeReg := ⟨w64 (physRead s a 8), w64 (physRead s (a + 8) 8), w64 (physRead s (a + 16) 8),
      w64 (physRead s (a + 24) 8)⟩
    if r.bad then { r with attr := 0 } else r)

/-- The copies an issuing unit holds; after `rinv` they are taken from the context block again (R104). -/
def withRanges (s : State) (slot : Nat) : State × List RangeReg :=
  match launchOf s slot with
  | none => (s, [])
  | some l =>
    match l.ranges with
    | some rs => (s, rs)
    | none =>
      let rs := readRanges s slot
      (updLaunch s slot (fun l => { l with ranges := some rs }), rs)

/-- Kinds of access a range permits (R103). -/
inductive AKind where
  | read | write | fetch
  deriving DecidableEq, Repr, Inhabited

/-- A translation's end: an address, or a trap by cause and subcode (R103, R119). -/
inductive RangeRes where
  | ok (ia : Nat) (r : RangeReg)
  | trap (cause sub : Nat)

/-- Translate an access of n bytes by the range registers (R102, R103, R119 items 1-4). -/
def rangeXlate (rs : List RangeReg) (va n : Nat) (k : AKind) (priv : Bool) : RangeRes :=
  match rs.find? (fun r => r.v && decide (r.base.toNat ≤ va) && decide (va < r.limit.toNat)) with
  | none => .trap 0x10 0x01
  | some r =>
    if r.limit.toNat < va + n then .trap 0x10 0x03
    else if !(match k with | .read => r.r | .write => r.w | .fetch => r.x) then .trap 0x10 0x02
    else if r.privOnly && !priv then .trap 0x06 0
    else .ok ((va - r.base.toNat + r.offset.toNat) % 2 ^ 52) r

/-! ### Page faults (R119) -/

/-- An extent with VALID 1 that covers a fabric address (02 R38). -/
def extentOf (s : State) (pa : Nat) : Option Nat :=
  (List.range 64).find? (fun i =>
    (mreg s (0x51000 + 4 * i)).testBit 31 &&
    decide (mreg s (0x52000 + 16 * i) ≤ pa % 2 ^ 48) && decide (pa % 2 ^ 48 < mreg s (0x52000 + 16 * i) + mreg s (0x52008 + 16 * i)))

/-- What an access finds at the page: its leaf, a trap, a parking fault, or a fault fatal to its launch. -/
inductive PageRes where
  | ok (l : Leaf)
  | trap (cause sub : Nat)
  | park (sub : Nat) (l : Leaf)
  | fatal (status : Nat)

/-- The page faults of R119 items 5 and 6 in order, and the bank-side exception of 05 R144. -/
def pageCheck (s : State) (r : XReq) (o : WOut) : PageRes :=
  match o with
  | .refused => .fatal 5
  | .fault sub l => if sub = 0x05 then .park 0x05 l else .trap 0x10 sub
  | .leaf l =>
    let pa := l.pa52 r.ia
    if l.priv && !r.priv then .trap 0x06 0
    else if l.res then
      if r.nmo then .trap 0x11 0 else if !cxlMode s then .fatal 1 else .park 0x06 l
    else if l.mig then .park 0x07 l
    else if l.ro && r.write then .trap 0x10 0x08
    else if keyGen s l.key = 0 then .trap 0x10 0x0A
    else if isFabric pa then
      match extentOf s pa with
      | some i => if (mreg s (0x51000 + 4 * i)).testBit 30 then .trap 0x10 0x0B else .ok l
      | none => .trap 0x10 0x0C
    else .ok l

/-! ### Parking and fault records (R121-R132) -/

/-- FQCFG.EN of a tower (R124). -/
def fqEnabled (s : State) (t : Nat) : Bool := (mreg s (aFault t 0x10)).testBit 31

/-- Columns, slots and flags of a request in a fault record (R126, R529). -/
def faultRecord (s : State) (r : XReq) (sub : Nat) (l : Leaf) (park count : Nat) (nopark : Bool) (t : Word64) : Line :=
  let flags := min count 3 * 64 + 32 * bit r.fetch + (match r.who with | .bte _ _ _ => 16 | _ => 0) + 8 * bit r.atomic +
    4 * bit r.write + 2 * bit nopark + bit (count != 0)
  let peer := match r.who with
    | .peer f => some f.src.toNat
    | _ => none
  let cmd := (launchOf s r.launch).elim 0 (·.cmd.toNat)
  let at_ (o n v : Nat) : Nat := v % 2 ^ (8 * n) * 2 ^ (8 * o)
  BitVec.ofNat 512 (at_ 0 8 r.ia + at_ 8 8 r.va + at_ 16 8 l.val + at_ 24 8 l.pa + at_ 32 1 sub + at_ 33 1 flags +
    at_ 34 2 park + at_ 36 2 (if peer.isSome then 0xFFFF else r.col) + at_ 38 1 (peer.getD r.layer) + at_ 39 1 r.slot +
    at_ 40 4 (if peer.isSome then 0 else cmd) + at_ 46 1 l.level + at_ 47 1 (if peer.isSome then 0xFF else r.launch) +
    at_ 48 8 t.toNat)

/-! ### Peers (R106, 02 R41) -/

def linkOf (s : State) (l : Nat) : Link := mgetD s.links l Link.reset
def setLink (s : State) (l : Nat) (x : Link) : State := { s with links := mset s.links l x }
/-- The links that are up (02 R42). -/
def liveLinks (s : State) : List Nat := (List.range 12).filter (fun l => !(linkOf s l).failed)

/-- The 2,048 bits of a flit, byte 0 lowest: sequence number, class, source and destination package, stream, tag, three zero
bytes, payload, and CRC-64 over bytes 0-247 (02 R41). -/
def Flit.frame (f : Flit) : BitVec 2048 :=
  let body : BitVec 1984 := Config.flitPayload f.body ++ (0#24 ++ f.tag ++ f.stream ++ f.dst ++ f.src ++ f.cls ++ f.seq)
  Config.crc64 body ++ body

/-- A flit's answer has not come: it is unacknowledged (02 R44). (DESIGN CHOICE, log 70) -/
def openFlit (s : State) (f : Flit) : Bool :=
  match f.body with
  | .request _ _ | .barrier _ _ _ =>
    s.peerOut.any (fun p => p.1 == f.dst.toNat && p.2.1 == f.stream.toNat && p.2.2.1 == f.tag.toNat)
  | .remoteCompletion l i => s.blocks.any (fun (b : Nat × Block) =>
      b.2.stolen.elim false (fun x => x.phase == 3 && x.cmd == l && b.2.index == i))
  | _ => false

/-- Put a flit on a link. The last 128 are kept for replay, and earlier ones while they are unacknowledged (02 R42, R44). -/
def putFlit (s : State) (l : Nat) (f : Flit) : State :=
  let x := linkOf s l
  let f := { f with seq := BitVec.ofNat 16 x.out }
  let sent := x.sent ++ [(f, 0)]
  let old := sent.length - 128
  let sent := (sent.take old).filter (fun e => openFlit s e.1) ++ sent.drop old
  let s := setLink s l { x with out := (x.out + 1) % 65536, sent := sent }
  bump { s with flits := s.flits ++ [(l, f)] } 0x79000 236

/-- The link of a stream to a package: the one it hashes to, or the next live one in hash order; 12 when none lives. Every link
reaches every package. (02 R43, R44; DESIGN CHOICE, log 65) -/
def streamLink (s : State) (stream dst : Nat) : Nat :=
  (((List.range 12).map (fun i => (Config.linkHash stream dst + i) % 12)).find? (fun l => !(linkOf s l).failed)).getD 12

/-- Send a flit towards a package on its stream's link (02 R43, R44). -/
def sendFlit (s : State) (cls dst stream : Nat) (tag : Option Nat) (body : FlitBody) : State :=
  let k := stream * 256 + dst
  let t := tag.getD (nget s.tags k)
  let link := streamLink s stream dst
  let f : Flit := ⟨0, BitVec.ofNat 8 cls, BitVec.ofNat 8 Config.packageId, BitVec.ofNat 8 dst, BitVec.ofNat 16 stream,
    BitVec.ofNat 16 t, body, true⟩
  let s := { s with tags := if tag.isSome then s.tags else nset s.tags k ((t + 1) % 65536) }
  if link = 12 then { s with flits := s.flits ++ [(12, f)] } else putFlit s link f

/-- Answer a peer's request (R106). -/
def sendReply (s : State) (f : Flit) (r : PeerReply) : State :=
  sendFlit s 1 f.src.toNat f.stream.toNat (some f.tag.toNat) (.response r)

/-- Atomics that a path carries to the memory it reaches (02 R45); where the table says as attributed, the scope that the issuer's
range register names decides. -/
def memCarries (s : State) (pa : Nat) (k : ReqKind) : Bool :=
  let basic : Bool := match k with
    | .cas _ _ | .atomic (.add _) _ | .atomic (.swap _) _ => true
    | _ => false
  let fadd : Bool := match k with
    | .atomic .faddF32 _ | .atomic .faddBf16x2 _ => true
    | _ => false
  match k with
  | .atomic _ _ | .cas _ _ =>
    if isHost pa && !cxlMode s then basic else if isFabric pa then !fadd else true
  | _ => true

/-- What a peer's request asks of the home here. -/
def peerKind (op : PeerOp) : ReqKind × Nat :=
  match op with
  | .load n => (.load, n)
  | .store n d => (.store d, n)
  | .atomic o x => (.atomic o x.toNat, match o with
    | .add t | .min t | .max t | .and t | .or t | .xor t | .swap t => (match t with | .s64 | .z64 => 8 | _ => 4)
    | _ => 4)
  | .cas t c w => (.cas c.toNat w.toNat, match t with | .s64 | .z64 => 8 | _ => 4)

/-- A peer's translated request goes to its line's home (R106); column 1,000 stands for no column. -/
def peerReq (s : State) (f : Flit) (ia : Nat) (l : Leaf) (op : PeerOp) : State :=
  let (k, n) := peerKind op
  let k := match k with
    | .store d => .store (BitVec.ofNat 512 (d.toNat * 2 ^ (8 * (ia % 64))))
    | k => k
  let r : Req := ⟨s.reqNo, 1000, none, k, ia / 64, byteMask (ia % 64) n, .wt, .sys, .noAllocate, false, false, .peer f, l,
    none, 9999, true⟩
  due { s with reqs := s.reqs ++ [r], reqNo := s.reqNo + 1 } [.homeRequest]

/-- The previous parked fault of a request. -/
def histOf (s : State) (w : Who) : Option ParkHist :=
  match w with
  | .group k => (groupOf s k).bind (·.parkHist)
  | w => (s.hists.find? (fun h => h.1 == w)).map (·.2)

def setHist (s : State) (w : Who) (h : ParkHist) : State :=
  match w with
  | .group k => updGroup s k (fun g => { g with parkHist := some h })
  | w => { s with hists := (s.hists.filter (fun x => x.1 != w)) ++ [(w, h)] }

/-- Repeat count of a parking fault: one more when it reads what the request's last fault read (R130). -/
def repeatCount (s : State) (w : Who) (sub : Nat) (l : Leaf) : Nat :=
  match histOf s w with
  | some h => if h.sub = sub && h.val = l.val && h.pa = l.pa then h.count + 1 else 0
  | none => 0

/-- The lowest free entry of a tower's park table (R123). -/
def freePark (s : State) (t : Nat) : Option Nat :=
  (List.range 1024).find? (fun i => (mget s.parks (t * 1024 + i)).isNone)

/-- The requester of a parked request stops at it, with TLANE naming the parked lane (R122, 10 R288). One that waits for an entry,
2,048, has not parked (R123). Inside a trap handler TLANE keeps the trap's lane, which `eret` needs (09 R261; DEDUCED, log 102). -/
def parkGroup (s : State) (w : Who) (id : Nat) (fetch : Bool) : State :=
  match w with
  | .group k =>
    -- a lane access that parks before XFER cancels its block's migration (07 R205)
    let s := match groupOf s k with
      | some g => if id != 2048 && !fetch && s.migs.any (fun (m : Nat × Mig) => m.2.block == g.block && m.2.state != .xfer) then
          cancelMig s g.block else s
      | none => s
    updGroup s k (fun g => { g with
      status := .broken (.parked id)
      trap := if g.handler.isNone && !fetch then { g.trap with lane := g.run.elim 0 (·.start) } else g.trap })
  | .bte c i tx =>
    let s := setBtes s c ((btesOf s c).map (fun b => if b.id = i then
      (if id = 2048 then { b with stall := some 2048 } else { b with stall := none, parks := b.parks ++ [(tx, id)] }) else b))
    if id = 2048 then s else due s [.bteTransactionIssue c]
  | .engine k => updEngine s k (fun e => { e with waiting := some id })
  | .peer _ => s

/-- A request meets a fault that is fatal: its launch, or a fault handler's block only, finishes; a peer is told
(R106, R119, R127). -/
def failRequest (s : State) (r : XReq) (status sub : Nat) : State :=
  match r.who with
  | .group k => (match groupOf s k with
    | some g => failBlock s g.block status 0
    | none => s)
  | .bte c i _ => (match (btesOf s c).find? (fun b => b.id == i) with
    | some b => failBlock s b.block status 0x32
    | none => s)
  | .engine k =>
    -- a steal attempt ends; a claim or a done store finishes the launch (08 R236)
    (match (engineOf s k).steal with
      | some x =>
        let s := updEngine s k (fun e => { e.quiet with steal := none })
        let s := if x.phase ≥ 6 then treeSub s x.launch (nodeCluster k) 1 else s
        due (blackBox (bump s (aTask (k / 12) 0x40) 1) 0x30 1 k status) [.tileClaim (k / 12) (k % 12)]
      | none =>
        if (engineOf s k).jobs.head?.elim false (fun j => decide (4 ≤ j.phase)) then
          due (updEngine s k Engine.dropReturn) [.tileClaim (k / 12) (k % 12)]
        else killLaunch s r.launch status)
  | .peer f => sendReply s f (if status = 5 then .machineCheck else .fault 0x10 (BitVec.ofNat 8 sub))

/-- A fault on a tower's park table: join the page's entry, take a free one and post a record, or wait for one
(R123). -/
def parkRequest (s : State) (r : XReq) (sub : Nat) (l : Leaf) : State :=
  let t := r.tower
  if !fqEnabled s t then failRequest s r 1 sub
  else
    let n := repeatCount s r.who sub l
    if n ≥ 3 then failRequest s r 1 0x0E
    else
      match s.parks.find? (fun (p : Nat × Park) => p.1 / 1024 == t && p.2.page == r.ia / 2 ^ 16 && p.2.sub == sub) with
      | some (k, p) =>
        let s := setHist s r.who ⟨sub, l.val, l.pa, n⟩
        parkGroup { s with parks := mset s.parks k { p with members := p.members ++ [r] } } r.who k r.fetch
      | none =>
        match freePark s t with
        | none => parkGroup { s with parkWait := s.parkWait ++ [(r, sub, l)] } r.who 2048 r.fetch
        | some i =>
          let s := setHist s r.who ⟨sub, l.val, l.pa, n⟩
          let (time, s) := readDtc s
          let k := t * 1024 + i
          let s := { s with
            parks := mset s.parks k ⟨r.ia / 2 ^ 16, sub, [r]⟩
            frecs := s.frecs ++ [⟨t, some i, r.ia / 2 ^ 16, faultRecord s r sub l i n false time⟩] }
          due (parkGroup s r.who k r.fetch) [.faultRecordPost t]

/-- A NOPARK record for a page, at most one while an earlier one is unconsumed (R132). (DEDUCED, log 99) -/
def postNopark (s : State) (r : XReq) (sub : Nat) (l : Leaf) : State :=
  let page := r.ia / 2 ^ 16
  if !fqEnabled s r.tower || s.noparks.any (fun n => n.1 == r.tower && n.2.1 == page) then s
  else
    let (time, s) := readDtc s
    let s := { s with
      noparks := s.noparks ++ [(r.tower, page, none)]
      frecs := s.frecs ++ [⟨r.tower, none, page, faultRecord s r sub l 0xFFFF 0 true time⟩] }
    due s [.faultRecordPost r.tower]

/-! ### The lane's whole translation (R103, R119) -/

/-- What translating an access came to for the unit that issued it. -/
inductive XRes where
  | ok (s : State) (ia : Nat) (l : Leaf) (r : RangeReg)
  /-- through a range with PEER 1: translated at the peer (R106) -/
  | peer (s : State) (ia : Nat) (pkg : Nat) (r : RangeReg)
  | trap (s : State) (cause sub : Nat)
  /-- a walk has begun -/
  | walk (s : State)
  /-- parked: the entry, or waiting for one -/
  | park (s : State) (sub : Nat) (l : Leaf) (r : XReq)
  /-- the launch is killed -/
  | dead (s : State)

/-- The leaf for an IA: the answer of a walk for this request, or the tower's leaf cache. -/
def findLeaf (s : State) (walked : Option Walked) (fetch : Bool) (tower ia : Nat) : Option WOut :=
  match walked.filter (fun w => w.page == ia / 2 ^ 16 && w.fetch == fetch) with
  | some w => some w.out
  | none => (leafLookup s tower ia).map .leaf

/-- A unit's request has its translation: its parked fault is past (R130). -/
def clearHist (s : State) (w : Who) : State := { s with hists := s.hists.filter (fun h => h.1 != w) }

/-- A `wsync` under way waits for the requests that go out now as well: one of them uses a leaf of a marked walk (R114). -/
def wsyncLate (s : State) : State :=
  { s with groups := s.groups.map (fun (e : Nat × Group) => (e.1, match e.2.status with
      | .waiting (.wsync _) => { e.2 with status := .waiting (.wsync (s.reqNo + 1)) }
      | _ => e.2)) }

/-- A request has used the leaf that its walk returned, which is discarded; its parked fault is past (R113, R130). -/
def usedWalk (s : State) (q : XReq) (walked : Option Walked) : State :=
  match q.who with
  | .group k =>
    if q.fetch then s
    else
      match groupOf s k with
      | none => s
      | some g =>
        let s := if g.walked.isSome || g.parkHist.isSome then updGroup s k (fun g => { g with walked := none, parkHist := none }) else s
        if walked.elim false (·.marked) then wsyncLate s else s
  | _ => if walked.elim false (·.marked) then wsyncLate s else s

/-- Translate one access (R102-R106, R119). -/
def translate (s : State) (slot va n : Nat) (k : AKind) (q : XReq) (walked : Option Walked) : XRes :=
  let (s, rs) := withRanges s slot
  match rangeXlate rs va n k q.priv with
  | .trap c sub => .trap s c sub
  | .ok ia r =>
    match r.peer with
    | some p => .peer s ia p r
    | none =>
      let q := { q with ia := ia, va := va, zf := q.zf && r.zfok }
      match findLeaf s walked q.fetch q.tower ia with
      | none => .walk (startWalk s q)
      | some o =>
        match pageCheck s q o with
        | .ok l => .ok (usedWalk s q walked) ia l r
        | .trap c sub => .trap s c sub
        | .park sub l => .park s sub l q
        | .fatal st => .dead (failRequest s q st 0x09)

/-! ### Wake-ups -/

/-- A broken group becomes ready (09 R244). -/
def wakeGroup (s : State) (k : Nat) : State :=
  let now := (coreOf s (keyCore k)).cycles
  updGroup s k (fun g =>
    match g.status with
    | .broken _ | .waiting _ => { g with status := .ready, since := now }
    | _ => g)

/-- Give a walk's answer to whoever asked (R112, R123). -/
def deliverWalk (s : State) (q : XReq) (o : WOut) (marked : Bool) : State :=
  let w : Walked := ⟨q.ia / 2 ^ 16, o, marked, q.fetch⟩
  match q.who with
  | .group k =>
    let s := updGroup s k (fun g => { g with walked := some w })
    (match pageCheck s q o with
      | .park sub l => parkRequest s q sub l
      | .fatal st => failRequest s q st 0x09
      | _ => wakeGroup s k)
  | .bte c i _ =>
    let s := setBtes s c ((btesOf s c).map (fun b => if b.id = i then { b with stall := none, walked := some w } else b))
    due s [.bteTransactionIssue c]
  | .engine k =>
    if (engineOf s k).waiting = some 4096 then
      due (updEngine s k (fun e => { e with waiting := none, walked := some w }))
        [.tileClaim (k / 12) (k % 12), .stealAttempt (k / 12) (k % 12)]
    else s
  | .peer f =>
    match pageCheck s q o with
    | .ok l => (match f.body with
      | .request _ op =>
        -- an atomic that the path to the memory cannot carry, or on a replicated page (R117; 02 R45, R46)
        let k := (peerKind op).1
        if (k.isAtomic && l.repl) || !memCarries s (l.pa52 q.ia) k then sendReply s f (.fault 0x11 0) else peerReq s f q.ia l op
      | .barrier _ m t =>
        if l.repl || !isHbm (l.pa52 q.ia) then sendReply s f (.fault 0x11 0)
        else due { s with arrivals := s.arrivals ++ [⟨.peer f, q.ia, l, m, t, 9999, 0, none, 0⟩] } [.barrierArrival]
      | _ => s)
    | .trap c sub => sendReply s f (.fault (BitVec.ofNat 8 c) (BitVec.ofNat 8 sub))
    | .park sub l => parkRequest s q sub l
    | .fatal st => failRequest s q st 0x09

/-! ### Meanings of the events -/

/-- WALK_HANDOFF: the oldest walk that must move goes on at the next stack's walk unit (R112). -/
def execWalkHandoff (s : State) : Host.Outcome State Fault Refusal :=
  match takeFirst (fun w => w.out.isNone) s.walks with
  | none => .next s
  | some (w, rest) =>
    let w := walkOn s w 4
    .next (due { s with walks := rest ++ [w] } [if w.out.isSome then .walkComplete else .walkHandoff])

/-- WALK_COMPLETE: the answer reaches the base die, which caches a leaf unless a `wsync` began or the entry may not be
cached (R113). -/
def execWalkComplete (s : State) : Host.Outcome State Fault Refusal :=
  match takeFirst (fun w => w.out.isSome) s.walks with
  | none => .next s
  | some (w, rest) =>
    let s := { s with walks := rest }
    let o := w.out.getD .refused
    let s := match o with
      | .leaf l => if w.marked || l.res || l.mig then s else leafInsert s w.req.tower w.req.ia l
      | _ => s
    .next (deliverWalk s w.req o w.marked)

/-- PARK_TABLE_ENTRY_FREE: the oldest request waiting for an entry of the tower parks (R123). -/
def execParkTableEntryFree (tower : Nat) (s : State) : Host.Outcome State Fault Refusal :=
  match freePark s tower with
  | none => .next s
  | some _ =>
    match takeFirst (fun (p : XReq × Nat × Leaf) => p.1.tower == tower) s.parkWait with
    | none => .next s
    | some ((r, sub, l), rest) => .next (parkRequest { s with parkWait := rest } r sub l)

/-- Release a park-table entry: its requests restart their translation, or fail with subcode 0x0D (R128). -/
def releasePark (s : State) (tower : Nat) (park : Nat) (fail : Bool) : State :=
  let k := tower * 1024 + park
  match mget s.parks k with
  | none => setBits s (aFault tower 0x1C) (2 ^ 31)
  | some p =>
    let s := { s with parks := mdel s.parks k }
    let s := p.members.foldl (fun s r =>
      match r.who with
      | .group g =>
        let s := updGroup s g (fun x => { x with
          walked := none, parkFail := fail && !r.fetch, fetchFail := if fail && r.fetch then some (0x10, 0x0D) else none })
        wakeGroup s g
      | .bte c i tx =>
        if fail then failRequest s r 1 0x0D
        else
          let s := setBtes s c ((btesOf s c).map (fun b => if b.id = i then
            { b with parks := b.parks.filter (fun p => p.1 != tx), again := b.again ++ [tx], walked := none } else b))
          due s [.bteTransactionIssue c]
      | .engine e =>
        if (engineOf s e).waiting = some k then
          let s := updEngine s e Engine.quiet
          if fail then failRequest s r 1 0x0D else due s [.tileClaim (e / 12) (e % 12), .stealAttempt (e / 12) (e % 12)]
        else s
      | .peer f => if fail then sendReply s f (.fault 0x10 0x0D) else startWalk s r) s
    due s [.parkTableEntryFree tower]

/-- FREL_REPLAY (R128). -/
def execFrelReplay (tower : Nat) (park : BitVec 10) (s : State) : Host.Outcome State Fault Refusal :=
  .next (if fwRunning s then releasePark s tower park.toNat false else s)
/-- FREL_FAIL (R128). -/
def execFrelFail (tower : Nat) (park : BitVec 10) (s : State) : Host.Outcome State Fault Refusal :=
  .next (if fwRunning s then releasePark s tower park.toNat true else s)

end Sys2Proof.Machine
end

