-- ==== Sys2Proof/Machine/Mgmt.lean ====
section
/-! DEFINITION. The registers of command queues, sensors and queue engines as other units read them, and reads of
management space (spec/03 R59, R93-R97; 00 R7, R8; the register maps of every chapter). -/

namespace Sys2Proof.Machine

/-! ### Registers of a queue (R59) -/

def aCq (q off : Nat) : Nat := 0x10000 + 0x40 * q + off
def cqcfg (s : State) (q : Nat) : Nat := mreg s (aCq q 0x18)
def cqEn (s : State) (q : Nat) : Bool := (cqcfg s q).testBit 31
def cqLoc (s : State) (q : Nat) : Bool := (cqcfg s q).testBit 30
def cqVec (s : State) (q : Nat) : Nat := field (cqcfg s q) 21 16
def cqPrio (s : State) (q : Nat) : Nat := field (cqcfg s q) 10 8
def cqSize (s : State) (q : Nat) : Nat := 2 ^ field (cqcfg s q) 4 0
def cqBase (s : State) (q : Nat) : Nat := mreg s (aCq q 0)
def cqJBase (s : State) (q : Nat) : Nat := mreg s (aCq q 8)
def cqJMir (s : State) (q : Nat) : Nat := mreg s (aCq q 0x10)
def cqTail (s : State) (q : Nat) : Nat := mreg s (aCq q 0x1C)
def cqAcc (s : State) (q : Nat) : Nat := mreg s (aCq q 0x20)
def cqDone (s : State) (q : Nat) : Nat := mreg s (aCq q 0x24)
/-- a − b of two sequences. -/
def seqSub (a b : Nat) : Nat := (a + 2 ^ 32 - b) % 2 ^ 32
/-- The host is LOST, or the link is down (02 R33, R47). -/
def hostGone (s : State) : Bool := field (mreg s (0x53000 + 4 * 384)) 1 0 != 0 || field (mreg s 0x50000) 15 8 == 0

/-- The ring cannot be read (CQSTAT.FETCH, R59): its memory is out of service, or the host does not complete a read of its next
slot (04 R99). -/
def ringDown (s : State) (q : Nat) : Bool :=
  if cqLoc s q then hostGone s || s.hostErrors.contains ((cqBase s q + 64 * (cqAcc s q % cqSize s q)) / 64)
  else stackState s (stackOf (cqBase s q)) != 0
/-- Journal copies that can be written (R77). -/
def journalCopies (s : State) (q : Nat) : Nat :=
  bit (stackState s (stackOf (cqJBase s q)) == 0) + bit (stackState s (stackOf (cqJMir s q)) == 0)

def cmdKey (q seq : Nat) : Nat := q * 2 ^ 32 + seq
def cmdQueue (k : Nat) : Nat := k / 2 ^ 32
def cmdSeq (k : Nat) : Nat := k % 2 ^ 32

/-- Queue a waiting release belongs to: that of the finished command, or of the command a host decrement names. -/
def relQueue (e : Option Nat × Nat) : Nat := cmdQueue (e.1.getD e.2)

/-! ### Sensors (01 R19-R24) -/

def clsCode : SensorClass → Nat
  | .core => 0 | .base => 1 | .bank => 2
def clsCount : SensorClass → Nat
  | .core => 3072 | .base => 96 | .bank => 32768
def sensorKey (c : SensorClass) (i : Nat) : Nat := clsCode c * 2 ^ 20 + i

/-- A sensor after reset: its trip points; the value before the first sample is the model's 0 (DESIGN CHOICE, log 5). -/
def Sensor.fresh (c : SensorClass) : Sensor :=
  let (h, t, a) := match c with
    | .base => (110, 100, 90)
    | _ => (105, 95, 85)
  { value := 0, reason := 0, failed := false, subst := false, hist := [], total := 0, adv := false, thr := false, shd := false, rate := 0
    shdPt := h, thrPt := t, advPt := a, badwr := false }

def sensorOf (s : State) (c : SensorClass) (i : Nat) : Sensor := mgetD s.sensors (sensorKey c i) (Sensor.fresh c)
def setSensor (s : State) (c : SensorClass) (i : Nat) (x : Sensor) : State :=
  { s with sensors := mset s.sensors (sensorKey c i) x }

/-! ### Queue engines and handlers (06 R161, 04 R124) -/

/-- Pending blocks of an entry. -/
def entBlocks (s : State) (e : QEnt) : Nat :=
  match e.kind with
  | .batch _ n => n * (launchOf s e.launch).elim 1 (fun l => if l.gang then l.kernels.length else 1)
  | .gang _ => (launchOf s e.launch).elim 1 (fun l => l.kernels.length)
  | .savedGang bs => bs.length
  | _ => 1
def engineBlocks (s : State) (k : Nat) : Nat := (engineOf s k).entries.foldl (fun n e => n + entBlocks s e) 0

/-- Slots of a tower's handler launches. -/
def handlerSlots (t : Nat) : List Nat := (List.range 4).map (fun i => 248 + 4 * t + i)

/-! ### Capability list (R95) -/

/-- Bodies of the entries, as 32-bit words after the header (DESIGN CHOICE, log 43); 7 is present in CXL mode only. -/
def capBodies (s : State) : List (Nat × List Nat) :=
  [(1, [0x300000, 0, 0x304000, 0, 0x308000, 0, 0x308200, 0, 0x320000, 0, 0x340000, 0]), (2, [64, 0x10000, 0]), (3, [0x20000, 0]),
   (4, [0x60000, 0, 4096, 0x200000, 0]), (5, [0x70000, 0]), (6, [128])] ++ (if cxlMode s then [(7, [64])] else [])

/-- The words of the entries from an offset on: header with the next entry's offset, body, padding to 16 bytes. -/
def capWords (a : Nat) : List (Nat × List Nat) → List Nat
  | [] => []
  | (id, body) :: rest =>
    let n := ceilDiv (1 + body.length) 4 * 4
    let next := if rest.isEmpty then 0 else (a + 4 * n) / 16
    (id * 65536 + Config.capVersion id % 16 * 4096 + next) :: body ++ List.replicate (n - 1 - body.length) 0 ++ capWords (a + 4 * n) rest

/-! ### Registers whose value is computed -/

/-- TSENS and TTRIP (01 R20). -/
def tsens (x : Sensor) : Nat := bit x.subst * 2 ^ 15 + x.reason % 4 * 2 ^ 13 + bit x.failed * 2 ^ 12 + unsignedOf 12 x.value
def ttrip (x : Sensor) : Nat := bit x.badwr * 2 ^ 31 + x.shdPt % 256 * 65536 + x.thrPt % 256 * 256 + x.advPt % 256

/-- A sensor register by address: class, index, and whether it is TTRIP (01 R21). -/
def sensorReg (a : Nat) : Option (SensorClass × Nat × Bool) :=
  if 0x300000 ≤ a && a < 0x303000 then some (.core, (a - 0x300000) / 4, false)
  else if 0x304000 ≤ a && a < 0x307000 then some (.core, (a - 0x304000) / 4, true)
  else if 0x308000 ≤ a && a < 0x308180 then some (.base, (a - 0x308000) / 4, false)
  else if 0x308200 ≤ a && a < 0x308380 then some (.base, (a - 0x308200) / 4, true)
  else if 0x320000 ≤ a && a < 0x340000 then some (.bank, (a - 0x320000) / 4, false)
  else if 0x340000 ≤ a && a < 0x360000 then some (.bank, (a - 0x340000) / 4, true)
  else none

/-- 32-bit word w of a black-box record (R94). -/
def bbWord (r : BBRec) (w : Nat) : Nat :=
  field (r.dtc.toNat + r.code % 65536 * 2 ^ 64 + r.cls % 256 * 2 ^ 80 + r.sev % 256 * 2 ^ 88 + r.index % 2 ^ 32 * 2 ^ 96 +
    r.data % 2 ^ 128 * 2 ^ 128) (32 * w + 31) (32 * w)

/-- The black-box ring's slot i; a slot never written reads 0 (R93), and one that an error has struck shows its error bit (01
R29). -/
def bbSlot (s : State) (i : Nat) : Option BBRec :=
  (mget s.bbox i).map (fun r => if s.strikes.any (· == ⟨.blackBox i, false⟩) then { r with sev := r.sev % 128 + 128 } else r)

/-- Blocks of a launch pending or resident in a tower (06 R161). -/
def launchIn (s : State) (t slot : Nat) : Bool :=
  s.blocks.any (fun (b : Nat × Block) => b.2.launch == slot && b.2.core.elim false (fun c => colTower (coreCol c) == t)) ||
  s.engines.any (fun (e : Nat × Engine) => e.1 / 12 == t && e.2.entries.any (fun q => q.launch == slot)) ||
  s.dealtTo.any (fun e => e.1 == t && e.2.launch == slot) ||
  s.transit.any (fun e => e.2.1 / 12 == t && e.2.2.launch == slot)

/-- An address lies in the part of fabric memory that an extent-table entry names (02 R38). (DEDUCED, log 84) -/
def inExtent (s : State) (i pa : Nat) : Bool :=
  isFabric pa && decide (mreg s (0x52000 + 16 * i) ≤ pa % 2 ^ 48) &&
    decide (pa % 2 ^ 48 < mreg s (0x52000 + 16 * i) + mreg s (0x52008 + 16 * i))

/-- DIRTY of an extent: its lines not yet written back, in L2, in a column L1 or on their way from one (02 R38). -/
def extentDirty (s : State) (i : Nat) : Nat :=
  let l2 := (s.home.filter (fun (h : Nat × HomeLine) => h.2.dirty && inExtent s i h.2.pa)).map (fun h => h.1 % 2 ^ 46)
  let l1 := (s.l1.filter (fun (e : Nat × L1Line) => e.2.dirty != 0 && inExtent s i (e.2.leaf.pa52 (64 * (e.1 % 2 ^ 46))))).map
    (fun e => e.1 % 2 ^ 46)
  let moving := ((s.reqs ++ s.held.map (·.1)).filter (fun r => (match r.kind with
      | .push _ _ => true
      | _ => false) && inExtent s i (r.leaf.pa52 (64 * r.line)))).map (·.line)
  (l2 ++ l1 ++ moving).eraseDups.length

/-- Fields of a register that are computed, given what it stores. -/
def regComputed (s : State) (a v : Nat) : Nat :=
  let t := a / 0x400 % 2
  match a / 65536 with
  | 1 =>
    let q := a % 65536 / 64
    if a < 0x11000 && a % 64 = 0x28 then
      v + bit (journalCopies s q == 1) * 2 ^ 30 + bit (s.relWait.any (fun e => relQueue e == q)) * 2 ^ 29 + bit (ringDown s q) * 2 ^ 28
    else v
  | 4 => if a < 0x40600 then v % 65536 + v / 2 ^ 26 * 2 ^ 26 + colEffect s ((a - 0x40000) / 4) * 65536 else v
  | 5 =>
    if a = 0x50000 then v + bit (!s.ide.isEmpty && s.ide.all (fun k => k)) * 2 ^ 24
    else if 0x51000 ≤ a && a < 0x51100 then v + (if v.testBit 31 then extentDirty s ((a - 0x51000) / 4) % 2 ^ 24 else 0)
    else if a = 0x54008 then s.dtc.toNat else v
  | 9 =>
    if a = 0x9001C || a = 0x9011C then
      let t := (a - 0x90000) / 256
      v + (s.parks.filter (fun (p : Nat × Park) => p.1 / 1024 == t)).length * 65536 +
        (s.blocks.filter (fun (b : Nat × Block) => b.2.state == .running && (handlerSlots t).contains b.2.launch)).length % 256
    else v
  | 10 =>
    let n := a % 65536 / 256
    if n < 8 && a % 256 = 0 then
      v + (s.sensors.filter (fun (x : Nat × Sensor) => x.1 / 2 ^ 20 == 2 && x.1 % 2 ^ 20 / 4096 == n && x.2.thr)).length
    else if n < 8 && a % 256 = 0x10 then
      v + bit (mgetD s.hbmStacks n Stack.reset).busy * 2 ^ 30 + (s.dead.filter (fun (r : Nat × Nat) => r.1 / 2 ^ 26 == n)).length
    else v
  | 11 =>
    if a = 0xB0004 + 0x400 * t then v + ((List.range 256).filter (launchIn s t)).length
    else if 0xB0040 + 0x400 * t ≤ a && a < 0xB0070 + 0x400 * t then
      let k := 12 * t + (a - 0xB0040 - 0x400 * t) / 4
      bit (engineOf s k).placing.isSome * 2 ^ 31 + (engineOf s k).entries.length * 65536 + engineBlocks s k % 2 ^ 15
    else v
  | 12 =>
    if a = 0xC0004 + 0x400 * t then
      let resident := s.blocks.any (fun (b : Nat × Block) =>
        b.2.core.elim false (fun c => colTower (coreCol c) == t && s.evac.contains (4 * t + coreLayer c)))
      v + bit resident * 2 ^ 30 + packNat 1 (fun l => bit (s.evac.contains (4 * t + l))) 4 * 2 ^ 24 +
        (s.migs.filter (fun (m : Nat × Mig) => colTower m.1 == t)).length
    else if 0xC1000 ≤ a && a < 0xC1600 then
      let c := (a - 0xC1000) / 4
      columnUnits s c * 65536 + foldUpto (fun n k => n + (coreOf s (4 * c + k)).allot) 0 4 % 1024
    else v
  | 13 =>
    if a = 0xD0004 + 0x400 * t then v + (s.goats.filter (fun (g : Nat × List Nat) => colTower g.1 == t && !g.2.isEmpty)).length
    else if 0xD1000 ≤ a && a < 0xD1600 then
      let c := (a - 0xD1000) / 4
      let mine := s.futures.filter (fun (f : Nat × Future) => f.1 / 1024 == c && f.2.state != .free)
      (mine.filter (fun (f : Nat × Future) => f.2.state == .doomed)).length * 65536 + mine.length
    else v
  | _ => v

/-- A 64-bit register begins at an address (the register maps' widths). -/
def isWide (a : Nat) : Bool :=
  a % 8 == 0 &&
  (match a / 65536 with
    | 0 => a == 0x20 || a == 0x40
    | 1 => a < 0x11000 && a % 64 < 0x18
    | 2 => a == 0x20008 || (0x21000 ≤ a && a < 0x22000)
    | 5 => (0x52000 ≤ a && a < 0x52400) || a == 0x54008 || a == 0x54010
    | 7 => a < 0x79020
    | 9 => a == 0x90000 || a == 0x90008 || a == 0x90100 || a == 0x90108 || a == 0x90200
    | 10 => a % 256 == 0x18
    | 11 => (0x10 ≤ a % 0x400 && a % 0x400 < 0x30) || 0x80 ≤ a % 0x400
    | 12 => a < 0xC1000 && 0x10 ≤ a % 0x400
    | 13 => a < 0xD1000 && 8 ≤ a % 0x400
    | 14 | 16 => true
    | 15 => 8 ≤ a % 0x400
    | _ => false)

/-- The value of the register that begins at an address, as a read finds it (R7). -/
def regRead (s : State) (a : Nat) : Nat := regComputed s a (mreg s a)

/-- The 32-bit word at an address that is a multiple of 4. -/
def regWord (s : State) (a : Nat) : Nat :=
  if 0x10000000 ≤ a then
    (if a < 0x14000000 then packNat 8 (fun i => (memGet s.image (a - 0x10000000 + i)).toNat) 4 else 0)
  else if 0x100 ≤ a && a < 0x200 then ((capWords 0x100 (capBodies s))[(a - 0x100) / 4]?).getD 0
  else if 0x200000 ≤ a && a < 0x220000 then (bbSlot s ((a - 0x200000) / 32)).elim 0 (fun r => bbWord r (a % 32 / 4))
  else
    match sensorReg a with
    | some (c, i, true) => ttrip (sensorOf s c i)
    | some (c, i, false) => tsens (sensorOf s c i)
    | none =>
      if isWide (a / 8 * 8) then regRead s (a / 8 * 8) / 2 ^ (8 * (a % 8)) % 2 ^ 32
      else regRead s a % 2 ^ 32

/-- What a read of n bytes at an offset of management space returns; a read at an address that names nothing returns 0
(DEDUCED, log 44). -/
def mgmtRead (s : State) (a n : Nat) : Nat :=
  (regWord s (a / 4 * 4) + regWord s (a / 4 * 4 + 4) * 2 ^ 32) / 2 ^ (8 * (a % 4)) % 2 ^ (8 * n)

end Sys2Proof.Machine
end

