-- ==== Sys2Proof/Machine/Coherence.lean ====
section
/-! DEFINITION. Column L1s and homes (spec/11_memory_consistency.md R307-R329, spec/10 R292-R294, spec/02 R34-R37). -/

namespace Sys2Proof.Machine

/-! ### Column L1 lines -/

def l1Key (col line : Nat) : Nat := col * 2 ^ 46 + line
def l1Get (s : State) (col line : Nat) : Option L1Line := mget s.l1 (l1Key col line)
def l1Put (s : State) (col line : Nat) (x : L1Line) : State := { s with l1 := mset s.l1 (l1Key col line) x }
def l1Drop (s : State) (col line : Nat) : State := { s with l1 := mdel s.l1 (l1Key col line) }
/-- The columns that hold a copy of a line, with their copies. -/
def holders (s : State) (line : Nat) : List (Nat × L1Line) :=
  (s.l1.filter (fun (e : Nat × L1Line) => e.1 % 2 ^ 46 == line)).map (fun e => (e.1 / 2 ^ 46, e.2))
/-- The lines a column holds, with their numbers. -/
def columnLines (s : State) (col : Nat) : List (Nat × L1Line) :=
  (s.l1.filter (fun (e : Nat × L1Line) => e.1 / 2 ^ 46 == col)).map (fun e => (e.1 % 2 ^ 46, e.2))

/-- Lines filled or used are stamped by the count of requests, for least-recently-used order (10 R294). -/
def stamp (s : State) : Nat := s.reqNo

/-- The mark after a fill or a hit (10 R293). -/
def markUp (old : Mark) (h : Hint) : Mark :=
  match old, h with
  | .evictLast, _ | _, .evictLast => .evictLast
  | .evictFirst, _ | _, .evictFirst => .evictFirst
  | _, _ => .normal

/-! ### Traffic (03 R96) -/

/-- Count bytes that reach (read) or leave (write) a column: class 0 local, 1 cross-tower, 2 external; cross-tower data
are sent by the home's tower when read and by the column's when written. -/
def countTraffic (s : State) (col cls : Nat) (write : Bool) (n : Nat) : State :=
  if col ≥ 384 then s
  else
    let i := 8 * (2 * cls + bit write)
    let t := colTower col
    let s := bump (bump s (0x70000 + 64 * col + i) n) (0x78000 + 0x100 * t + i) n
    if cls = 1 then bump s (0x78000 + 0x100 * (if write then t else 1 - t) + 56) n else s

/-! ### Where a line lives -/

/-- The tower of a line's home: its leaf's, the parity of IA[21:6] for a host line (02 R35), the requester's for a
replicated page (04 R111, R117). (DEDUCED, log 67) -/
def homeTower (leaf : Leaf) (line tower : Nat) : Nat :=
  if isHost (leaf.pa52 (64 * line)) then popCount (line % 2 ^ 16) 16 % 2
  else if leaf.repl then tower else leaf.ht

/-- The copy of a line that a tower's home holds: 0 the leaf's, 1 the second one of a replicated page (04 R117).
(DEDUCED, log 94) -/
def homeKey (leaf : Leaf) (line tower : Nat) : Nat := if leaf.repl && tower != leaf.ht then line + 2 ^ 46 else line

/-- Physical address of a home copy. -/
def homePa (leaf : Leaf) (key : Nat) : Nat :=
  let pa := leaf.pa52 (64 * (key % 2 ^ 46)) / 64 * 64
  if key ≥ 2 ^ 46 then pa ^^^ 2 ^ 38 else pa

def homePut (s : State) (key : Nat) (h : HomeLine) : State := { s with home := mset s.home key h }

/-- What home knows of a line through a leaf. A host line's record stands in the tower of R35. -/
def HomeLine.through (h : HomeLine) (leaf : Leaf) (key : Nat) : HomeLine :=
  let pa := homePa leaf key
  { h with
    pa := pa, key := leaf.key, prop := leaf.prop, deadLeaf := leaf.dead, cls := leaf.cls
    ht := if isHost pa then homeTower leaf key 0 else if key ≥ 2 ^ 46 then 1 - leaf.ht else leaf.ht }

/-- A line of which home records nothing. -/
def HomeLine.blank : HomeLine where
  data := 0
  poison := 0
  dirty := false
  pa := 0
  key := 0
  ht := 0
  prop := false
  deadLeaf := false
  hst := 0
  hostBit := false
  hostShared := false
  pinned := false
  st0 := .i
  st1 := .i
  lazy := none
  lazyNo := 0
  ahead := 0
  aheadData := 0
  mark := .normal
  cls := 0
  used := 0
  busy := 0
  cached := false

/-- The home record of a line with its bytes, which come from memory, where the leaf has them, when L2 does not hold them. -/
def homeGet (s : State) (leaf : Leaf) (key : Nat) : HomeLine :=
  let h := (mget s.home key).getD HomeLine.blank
  loadHome s (if h.cached then h else h.through leaf key)

/-- L2 holds a line. -/
def inL2 (s : State) (key : Nat) : Bool := (mget s.home key).elim false (·.cached)

/-- Write a home line's dirty data back to where it lives (11 R318, 10 R294); the copy engine's lines count nowhere (03 R66). -/
def writeBackAs (s : State) (key : Nat) (counted : Bool) : State :=
  match mget s.home key with
  | none => s
  | some h =>
    if h.dirty then
      let s := dramWrite s h.pa h.key (BitVec.allOnes 64) h.data h.poison
      let s := setPoison s h.pa h.poison
      let s := if counted then bump s (0x78000 + 0x100 * h.ht + 48) 64 else s
      homePut s key { h with dirty := false, hst := if isHost h.pa then (if h.hst = 3 then 2 else h.hst) else h.hst }
    else s

def writeBack (s : State) (key : Nat) : State := writeBackAs s key true

/-- The part's own write of n bytes within a line of physical memory that is to last: a home copy of the line is written back at
once (03 R75, 05 R155). -/
def keepBytes (s : State) (pa n v : Nat) : State :=
  let s := physWrite s pa n v
  match homeByPa s pa with
  | some (k, _) => writeBackAs s k false
  | none => s

def homeDrop (s : State) (key : Nat) : State := { s with home := mdel s.home key }

/-- The entry of a line records something beside its bytes: a copy that home tracks, a release, a command, the host, or bytes of
a page with PROP 1 on their way (11 R312). -/
def recorded (s : State) (key : Nat) (h : HomeLine) : Bool :=
  h.lazy.isSome || h.busy != 0 || h.hostBit || h.ahead != 0 || !(homeCopies s (key % 2 ^ 46)).isEmpty

/-- The directory entry of a line that L2 does not hold. -/
def HomeLine.alone (h : HomeLine) : HomeLine :=
  { h with data := 0, poison := 0, dirty := false, mark := .normal, used := 0, pinned := false, cached := false }

/-- L2 gives up a line, which memory already holds; its directory entry stays while it records something. -/
def l2Forget (s : State) (key : Nat) : State :=
  match mget s.home key with
  | none => s
  | some h =>
    if recorded s key h then homePut s key h.alone else homeDrop s key

/-- L2 gives up a line: a dirty one is written back (10 R294). -/
def l2Drop (s : State) (key : Nat) (counted : Bool) : State := l2Forget (writeBackAs s key counted) key

/-- L2QUOTA of a class: general, weights, activations, key-value cache (10 R295). -/
def l2Quota (s : State) (t cls : Nat) : Nat :=
  let q := mreg s (aBte t 0x00)
  match cls with
  | 0 => field q 4 0
  | 1 => field q 9 5
  | 2 => field q 14 10
  | _ => field q 19 15

/-- Order among victims: evict-first, normal, evict-last, each least recently used first (10 R294). -/
def victimLt (a b : Mark × Nat) : Bool :=
  let r (m : Mark) : Nat := match m with
    | .evictFirst => 0
    | .normal => 1
    | .evictLast => 2
  r a.1 < r b.1 || (r a.1 == r b.1 && a.2 < b.2)

/-- The lines that L2 holds in the set of a line, that line apart. -/
def l2SetOf (s : State) (key t : Nat) : List (Nat × HomeLine) :=
  s.home.filter (fun (e : Nat × HomeLine) => e.2.cached && e.2.ht == t && Config.l2Set e.1 == Config.l2Set key && e.1 != key)

/-- Where a fill of a class goes: an invalid way, a victim's way, or nowhere. The class's own lines give way once they occupy its
quota, which no pinned line counts in; else any line that is not pinned (10 R294, 05 R154). -/
def l2Victim (s : State) (key t cls : Nat) : Option (Option (Nat × HomeLine)) :=
  if s.home.length < min 16 (l2Quota s t cls) then some none
  else
    let inSet := l2SetOf s key t
    let free := inSet.filter (fun (e : Nat × HomeLine) => !e.2.pinned)
    let ofClass := free.filter (fun (e : Nat × HomeLine) => e.2.cls == cls)
    let full := decide (l2Quota s t cls ≤ ofClass.length)
    if inSet.length < 16 && !full then some none
    else (bestBy (fun (a b : Nat × HomeLine) => victimLt (a.2.mark, a.2.used) (b.2.mark, b.2.used))
      (if full then ofClass else free)).map some

/-- Make room for a line of a class in the home slice's set (10 R294, R295). -/
def l2Evict (s : State) (key t cls : Nat) : State :=
  match l2Victim s key t cls with
  | some (some v) => l2Drop (if v.2.mark == .evictLast then bump s (aBte t 0x28) 1 else s) v.1 true
  | _ => s

/-! ### Requests -/

/-- Core of a BTE request's destination. -/
def Dest.bteCore : Dest → Nat
  | .bte c _ => c
  | _ => 0

/-- A request of a BTE (10 R292). -/
def Req.ofBte (r : Req) : Bool := match r.dest with
  | .bte _ _ => true
  | _ => false

/-- A request of the column, or of one of its groups, waits for its line (11 R307). -/
def pendingLine (s : State) (col line : Nat) : Bool :=
  s.reqs.any (fun r => r.col == col && r.line == line) || s.held.any (fun r => r.1.col == col && r.1.line == line) ||
  s.bankCmds.any (fun b => b.line == line && b.group.elim false (fun k => coreCol (keyCore k) == col))

/-- Send a request to its home; a push and a request of the other tower have their own events (11 R310, R317).
(DEDUCED, log 91) -/
def enqueue (s : State) (r : Req) : State :=
  let r := { r with id := s.reqNo }
  let bteRead := r.ofBte && (match r.kind with | .load => true | _ => false)
  let cross := r.peer.isNone && r.col < 384 && !bteRead && homeTower r.leaf r.line (colTower r.col) != colTower r.col
  let r := { r with tower := !cross }
  let s := { s with reqs := s.reqs ++ [r], reqNo := s.reqNo + 1 }
  let ev : Instr := match r.kind with
    | .push _ _ => .pushApply
    | _ => .homeRequest
  due s (if cross then [.towerRequest, ev] else [ev])

/-- The leaf through which a column last reached a line: home's record gives its address and attributes. -/
def lineLeaf (s : State) (line : Nat) : Leaf :=
  match mget s.home line with
  | none => ⟨0, 0, 3⟩
  | some h =>
    ⟨h.key * 2 ^ 52 + h.pa / 65536 * 65536 + bit h.deadLeaf * 2 ^ 12 + bit (mget s.home (line + 2 ^ 46)).isSome * 2 ^ 11 +
      bit h.prop * 2 ^ 10 + (if isHbm h.pa then stackTower (stackOf h.pa) else h.ht) * 2 ^ 9 + h.cls * 2 ^ 5 + 3, 0, 3⟩

/-- A column writes bytes of its copy to home (11 R309, 16 R469). -/
def sendHome (s : State) (col line : Nat) (leaf : Leaf) (m : BitVec 64) (x : L1Line) : State :=
  enqueue s ⟨0, col, none, .push x.data (x.poison &&& wordsOf m), line, m, .wt, .pkg, .normal, false, false, .none, leaf, none, 9999, false⟩

/-- Push the dirty bytes of a U copy to home, counted by UPUSH (11 R310, R329). -/
def pushLine (s : State) (col line : Nat) (leaf : Leaf) (m : BitVec 64) (x : L1Line) : State :=
  sendHome (bump s (aCoh (colTower col) 0x20) 1) col line leaf m x

/-- Push every dirty byte of a column's U copies; the copies stay, clean (11 R311 second action). -/
def releaseAction (s : State) (col : Nat) : State :=
  (columnLines s col).foldl (fun s (e : Nat × L1Line) =>
    if e.2.st == .u && e.2.dirty != 0 then
      l1Put (pushLine s col e.1 e.2.leaf e.2.dirty e.2) col e.1 { e.2 with dirty := 0 }
    else s) s

/-- When the last column copy of a host line goes, home drops the line (R524). -/
def dropHostLine (s : State) (line : Nat) : State :=
  match mget s.home line with
  | some h => if isHost h.pa && (holders s line).isEmpty && !pendingLine s 1000 line then homeDrop (writeBack s line) line else s
  | none => s

/-- Drop one U copy, pushing its dirty bytes first (11 R311, 16 R468). -/
def dropU (s : State) (col line : Nat) (x : L1Line) : State :=
  let s := if x.dirty != 0 then pushLine s col line x.leaf x.dirty x else s
  let s := bump (l1Drop s col line) (aCoh (colTower col) 0x18) 1
  if x.dirty == 0 then dropHostLine s line else s

/-- Push the dirty bytes of U copies and invalidate the copies (11 R311 first action). -/
def acquireAction (s : State) (col : Nat) : State :=
  (columnLines s col).foldl (fun s (e : Nat × L1Line) => if e.2.st == .u then dropU s col e.1 e.2 else s) s

/-- Scope `.twr` or wider (11 R311). -/
def wideScope : Scope → Bool
  | .grp | .blk => false
  | _ => true

/-! ### Home's actions on copies (11 R309, R313) -/

/-- Home receives the dirty bytes of a copy. -/
def pull (h : HomeLine) (x : L1Line) : HomeLine :=
  if x.dirty = 0 then h
  else { h with
    data := mergeLine x.dirty x.data h.data, dirty := true
    poison := (h.poison &&& ~~~fullWords x.dirty) ||| (x.poison &&& wordsOf x.dirty)
    hst := if isHost h.pa then 3 else h.hst }

/-- Where a line's data are, seen from a column: 0 local, 1 in the other tower, 2 external (03 R96). -/
def trafficClass (h : HomeLine) (col : Nat) : Nat := if !isHbm h.pa then 2 else if colTower col = h.ht then 0 else 1

/-- Home calls in the dirty bytes of a column's copy, which leave the column (03 R96). -/
def callIn (s : State) (h : HomeLine) (col : Nat) (x : L1Line) : State × HomeLine :=
  (countTraffic s col (trafficClass h col) true (laneCount x.dirty), pull h x)

/-- The P copies of a line. -/
def privateCopies (s : State) (line : Nat) : List (Nat × L1Line) := (holders s line).filter (fun (e : Nat × L1Line) => e.2.st == .p)

/-- Recall every P holder's bytes and invalidate the P copies; the merge counts in the holders' tower (R313). -/
def merge (s : State) (key line : Nat) (h : HomeLine) : State × HomeLine :=
  match privateCopies s line with
  | [] => (s, h)
  | p :: ps =>
    let (s, h) := (p :: ps).foldl (fun (a : State × HomeLine) (e : Nat × L1Line) =>
      let (s, h) := callIn a.1 a.2 e.1 e.2
      (l1Drop s e.1 line, h)) (s, h)
    (homePut (bump s (aCoh (colTower p.1) 0x08) 1) key h, h)

/-- What becomes of the copies that home calls in: E and M become T, or E, M and T are invalidated, for a write or not. -/
inductive Recall where
  | downgrade | invalidate | write
  deriving DecidableEq, Repr, Inhabited

/-- Home acts on the E, M and T copies of some columns: dirty bytes reach home; TINV counts the copies that a write
invalidates (R309, R329). -/
def recallWhere (s : State) (line : Nat) (h : HomeLine) (p : Nat → Bool) (how : Recall) : State × HomeLine :=
  (holders s line).foldl (fun (a : State × HomeLine) (e : Nat × L1Line) =>
    let (s, h) := a
    let gone (s : State) : State :=
      if how == .write then bump (l1Drop s e.1 line) (aCoh (colTower e.1) 0x30) 1 else l1Drop s e.1 line
    if !p e.1 then a
    else
      match e.2.st with
      | .e | .m =>
        let (s, h) := callIn s h e.1 e.2
        (if how == .downgrade then l1Put s e.1 line { e.2 with st := .t, dirty := 0 } else gone s, h)
      | .t => if how == .downgrade then a else (gone s, h)
      | _ => a) (s, h)

/-- Home acts on the E, M and T copies of every column but one. -/
def recallCopies (s : State) (line : Nat) (h : HomeLine) (keep : Nat) (how : Recall) : State × HomeLine :=
  recallWhere s line h (fun c => c != keep) how

/-- Every E, M and overlapping P holder sends its dirty bytes to home and keeps its state (load `.sinv`, R309; BTE reads,
10 R292). -/
def gather (s : State) (line : Nat) (h : HomeLine) (words : BitVec 16) : State × HomeLine :=
  (holders s line).foldl (fun (a : State × HomeLine) (e : Nat × L1Line) =>
    let take : State × HomeLine :=
      let (s, h) := callIn a.1 a.2 e.1 e.2
      (l1Put s e.1 line { e.2 with dirty := 0 }, h)
    match e.2.st with
    | .e | .m => take
    | .p => if wordsOf e.2.valid &&& words != 0 then take else a
    | _ => a) (s, h)

/-! ### Towers (11 R317, R318) -/

def moesiOf (h : HomeLine) (t : Nat) : Moesi := if t = 0 then h.st0 else h.st1
def setMoesi (h : HomeLine) (t : Nat) (x : Moesi) : HomeLine := if t = 0 then { h with st0 := x } else { h with st1 := x }

/-- What a request asks of the tower-level state. -/
inductive TReq where
  | shared | exclusive | atHome
  deriving DecidableEq, Repr, Inhabited

/-- A tower request's effect on both towers' states, and whether the other tower supplied the line (R317). -/
def towerStep (h : HomeLine) (a : Nat) (q : TReq) : HomeLine × Bool :=
  let b := 1 - a
  let own := moesiOf h b == .m || moesiOf h b == .o
  match q with
  | .shared =>
    if moesiOf h a != .i then (h, false)
    else if own then (setMoesi (setMoesi h b .o) a .s, true)
    else if moesiOf h b == .i then (setMoesi h a .e, false)
    else (setMoesi (setMoesi h b .s) a .s, false)
  | .exclusive =>
    if moesiOf h a == .m || moesiOf h a == .e then (h, false)
    else if own then (setMoesi (setMoesi h b .i) a .m, true)
    else if moesiOf h a == .o then (setMoesi (setMoesi h b .i) a .m, false)
    else (setMoesi (setMoesi h b .i) a .e, false)
  | .atHome => (setMoesi (setMoesi h (1 - h.ht) .i) h.ht .m, own && h.ht == a)

/-- What a request kind and policy ask of the tower-level state (R317). -/
def treqOf (r : Req) : TReq :=
  match r.kind with
  | .load | .prefetch _ => (match r.policy with | .own => .exclusive | _ => .shared)
  | .store _ => (match r.policy with | .own | .winv => if r.release || r.hint == .noAllocate then .atHome else .exclusive | _ => .atHome)
  | .atomic _ _ | .cas _ _ => (match r.policy with | .own => .exclusive | _ => .atHome)
  | _ => .atHome

/-- The request changes bytes of its line. -/
def Req.writes (r : Req) : Bool := match r.kind with
  | .store _ | .atomic _ _ | .cas _ _ | .push _ _ => true
  | _ => false

/-- A tower in E one of whose columns has written the line holds it in M (R308, R317). -/
def shownState (s : State) (line : Nat) (h : HomeLine) (t : Nat) : Moesi :=
  if moesiOf h t == .e && (holders s line).any (fun (e : Nat × L1Line) => colTower e.1 == t && (e.2.st == .m || e.2.st == .p)) then .m
  else moesiOf h t

/-- What a tower's state allows its columns: nothing, T, or E and M (R318). -/
def Moesi.rank : Moesi → Nat
  | .i => 0 | .s | .o => 1 | .e | .m => 2

/-- A tower's columns come down with its state: P holders merge, dirty bytes reach home, copies are invalidated or become T; the
requester keeps a T copy (R313, R318). (DEDUCED, log 100) -/
def lowerColumns (s : State) (key : Nat) (h : HomeLine) (t rank keep : Nat) (write : Bool) : State × HomeLine :=
  let line := key % 2 ^ 46
  let (s, h) := if (privateCopies s line).any (fun (e : Nat × L1Line) => colTower e.1 == t) then merge s key line h else (s, h)
  let (s, h) := recallWhere s line h (fun c => c == keep && colTower c == t) .downgrade
  recallWhere s line h (fun c => c != keep && colTower c == t)
    (if rank = 0 then (if write then .write else .invalidate) else .downgrade)

/-- A request of tower a, made by column `keep`, changes both towers' states, and the columns of a tower whose state falls come
down with it; a supply across towers is counted (R317, R318; 03 R96). -/
def towerTo (s : State) (key : Nat) (h : HomeLine) (a : Nat) (q : TReq) (keep : Nat) (write : Bool) : State × HomeLine :=
  let was (t : Nat) : Moesi := shownState s (key % 2 ^ 46) h t
  let (g, x) := towerStep { h with st0 := was 0, st1 := was 1 } a q
  let lower (t : Nat) (r : State × HomeLine) : State × HomeLine :=
    if (moesiOf g t).rank < (was t).rank then lowerColumns r.1 key r.2 t (moesiOf g t).rank keep write else r
  let (s, h) := lower 1 (lower 0 (s, h))
  let h := { h with st0 := g.st0, st1 := g.st1 }
  let s := if x then bump (bump s (aCoh (1 - a) 0x28) 1) (0x78000 + 0x100 * (1 - a) + 56) 64 else s
  (homePut s key h, h)

/-- A request obtains the tower-level state it needs; each copy of a replicated line belongs to one tower alone (R317, R321). -/
def towerMove (s : State) (key : Nat) (h : HomeLine) (r : Req) : State × HomeLine :=
  if r.leaf.repl then (s, h) else towerTo s key h (if r.col < 384 then colTower r.col else h.ht) (treqOf r) r.col r.writes

/-! ### Reading and changing values -/

/-- Offset and length of a byte mask. -/
def maskOff (m : BitVec 64) : Nat := firstLane m
def maskLen (m : BitVec 64) : Nat := laneCount m

/-- The sum of two codes rounded to nearest even in a format (16 R457). -/
def addCode (F : Fmt) (x y : Nat) : Nat := encFmt F (roundF F 0 0 (numAdd false (decFmt F x) (decFmt F y)).1).1

/-- The operation of an atomic on two patterns (16 R457). -/
def rmw (op : AtomOp) (old x : Nat) : Nat :=
  match op with
  | .add t => opAdd t false old x
  | .min t => opMin t old x
  | .max t => opMax t old x
  | .and t => opAnd t old x
  | .or t => opOr t old x
  | .xor t => opXor t old x
  | .swap t => x % 2 ^ tyWidth t
  | .faddF32 => addCode fmt32 old (x % 2 ^ 32)
  | .faddBf16x2 => addCode fmtB16 (old % 2 ^ 16) (x % 2 ^ 16) + 2 ^ 16 * addCode fmtB16 (old / 2 ^ 16) (x / 2 ^ 16 % 2 ^ 16)

/-- The new value of an atomic or a compare-and-swap. -/
def rmwKind (k : ReqKind) (n old : Nat) : Nat :=
  match k with
  | .atomic op x => rmw op old x
  | .cas c w => if old = c % 2 ^ (8 * n) then w % 2 ^ (8 * n) else old
  | _ => old

/-- What serving a request came to. -/
structure Served where
  s : State
  /-- the line's data for the requester -/
  val : Nat
  /-- the accessed words are poisoned (01 R31) -/
  bad : Bool

/-- Pipe storage is allocated in a column: a gang instance that has pipes is placed there (10 R292, 06 R171). -/
def columnPipes (s : State) (col : Nat) : Bool :=
  (columnBlocks s col).any (fun (b : Nat × Block) => b.2.state != .reserved && b.2.task.isNone &&
    (launchOf s b.2.launch).elim false (fun l => l.gang && !l.pipes.isEmpty))

/-- Evict the victim of a set of a column L1; its dirty bytes are pushed (10 R294). -/
def l1Evict (s : State) (col : Nat) (inSet : List (Nat × L1Line)) : State :=
  match bestBy (fun (a b : Nat × L1Line) => victimLt (a.2.mark, a.2.used) (b.2.mark, b.2.used)) inSet with
  | none => s
  | some v =>
    let s := if v.2.dirty != 0 then (if v.2.st == .u then pushLine else sendHome) s col v.1 v.2.leaf v.2.dirty v.2 else s
    l1Drop s col v.1

/-- Lines of a column that a set holds. -/
def l1SetOf (s : State) (col i : Nat) : List (Nat × L1Line) :=
  (columnLines s col).filter (fun (e : Nat × L1Line) => Config.l1Set e.1 == i)

/-- Way 15 of a column L1 becomes pipe storage: its lines are written back and invalidated (10 R292).
(DEDUCED, log 75) -/
def freeWay (s : State) (col : Nat) : State :=
  ((columnLines s col).map (fun (e : Nat × L1Line) => Config.l1Set e.1)).eraseDups.foldl (fun s i =>
    if 16 ≤ (l1SetOf s col i).length then l1Evict s col (l1SetOf s col i) else s) s

/-- Make room in a column L1 and install a line (10 R292-R294); an evicted copy pushes its dirty bytes. -/
def l1Install (s : State) (col line : Nat) (x : L1Line) : State :=
  let old := (l1Get s col line).elim Mark.normal (·.mark)
  let mine := columnLines s col
  let ways := if columnPipes s col then 15 else 16
  let s :=
    if mine.length < ways || (l1Get s col line).isSome then s
    else
      let inSet := l1SetOf s col (Config.l1Set line)
      if inSet.length < ways then s else l1Evict s col inSet
  l1Put s col line { x with mark := markUp old (match x.mark with | .normal => Hint.normal | .evictFirst => Hint.evictFirst | .evictLast => Hint.evictLast), used := stamp s }

def hintMark : Hint → Mark
  | .evictFirst => .evictFirst
  | .evictLast => .evictLast
  | _ => .normal

def newLine (st : L1St) (data : Line) (valid dirty : BitVec 64) (p : BitVec 16) (h : Hint) (leaf : Leaf) : L1Line :=
  ⟨st, dirty, valid, data, hintMark h, p, 0, leaf⟩

/-- Bytes of a request's store laid over a line. -/
def overlay (m : BitVec 64) (x : Line) (l : L1Line) : L1Line :=
  { l with data := mergeLine m x l.data, poison := l.poison &&& ~~~fullWords m }

/-! ### Access in the column L1 (11 R310) -/

/-- A request of a class without quota behaves as no-allocate (10 R294). -/
def withQuota (s : State) (r : Req) : Req :=
  let t := if r.col < 384 then homeTower r.leaf r.line (colTower r.col) else r.leaf.ht
  if l2Quota s t r.leaf.cls = 0 then { r with hint := .noAllocate } else r

/-- The line's bytes live in fabric memory, which performs its atomics itself (02 R45). -/
def fabricAtomic (r : Req) : Bool := match r.kind with
  | .atomic _ _ | .cas _ _ => isFabric (r.leaf.pa52 (64 * r.line))
  | _ => false

/-- The request may be served by the column's own copy; the new state and the line read. -/
def localAccess (s : State) (r : Req) : Option (State × Line × BitVec 16) :=
  let r := withQuota s r
  if fabricAtomic r then none
  else if isHost (r.leaf.pa52 (64 * r.line)) && !cxlMode s || isMgmt (r.leaf.pa52 (64 * r.line)) || r.peer.isSome || r.col ≥ 384 || r.ofBte then none
  else
    let pol := if r.leaf.repl && (match r.kind with | .store _ => true | _ => false) then Policy.wt else r.policy
    match r.kind with
    | .load =>
      (match l1Get s r.col r.line with
        | none => none
        | some x =>
          let hit : Bool := match x.st with
            | .e | .m => true
            | .t => pol != .own
            | .u => pol == .sinv && r.mask &&& ~~~x.valid == 0
            | .p => pol != .own && r.mask &&& ~~~x.valid == 0
          if hit then
            some (l1Put s r.col r.line { x with mark := markUp x.mark r.hint, used := stamp s }, x.data, x.poison)
          else none)
    | .store d =>
      if r.release then none
      else
        let upd (x : L1Line) (st : L1St) : State × Line × BitVec 16 :=
          let y := overlay r.mask d x
          (l1Put s r.col r.line { y with st := st, dirty := x.dirty ||| r.mask, valid := x.valid ||| r.mask, mark := markUp x.mark r.hint, used := stamp s }, 0, 0)
        (match l1Get s r.col r.line, pol with
          | some x, .own | some x, .winv =>
            (match x.st with
              | .e | .m => some (upd x .m)
              | .p => if r.mask &&& ~~~x.valid == 0 then some (upd x .p) else none
              | _ => none)
          | some x, .sinv =>
            (match x.st with
              | .e | .m => some (upd x .m)
              | .p => if r.mask &&& ~~~x.valid == 0 then some (upd x .p) else none
              | .t | .u => some (upd x .u))
          | some x, .wt =>
            -- a host line held in E or M takes the bytes in the device (02 R35)
            if isHost (r.leaf.pa52 (64 * r.line)) && (x.st == .e || x.st == .m) then some (upd x .m) else none
          | none, .sinv =>
            if r.hint == .noAllocate then none
            else some (l1Install s r.col r.line (newLine .u (mergeLine r.mask d 0) r.mask r.mask 0 r.hint r.leaf), 0, 0)
          | none, _ => none)
    | .atomic _ _ | .cas _ _ =>
      (match l1Get s r.col r.line, pol with
        | some x, .own =>
          if (x.st == .e || x.st == .m) && !r.release then
            let o := maskOff r.mask
            let n := maskLen r.mask
            let old := lineField x.data o n
            if x.poison &&& wordsOf r.mask != 0 then some (s, x.data, x.poison)
            else
              let y := overlay r.mask (linePlace (rmwKind r.kind n old) o n) x
              some (l1Put s r.col r.line { y with st := .m, dirty := x.dirty ||| r.mask, mark := markUp x.mark r.hint, used := stamp s }, x.data, 0)
          else none
        | _, _ => none)
    | _ => none

/-! ### Serving at home -/

/-- Allocation of a copy: not under no-allocate, not for a zero read from a dead row through DEAD 1 (05 R150), not for
the part's own units. -/
def allocates (s : State) (r : Req) (h : HomeLine) : Bool :=
  r.hint != .noAllocate && r.col < 384 && !r.ofBte && !(r.leaf.dead && rowDead s h.pa)

/-- Host lines are obtained over CXL.cache before use (02 R35). -/
def fillHost (h : HomeLine) (own : Bool) : HomeLine :=
  if isHost h.pa then { h with hst := if own then max h.hst 2 else max h.hst 1 } else h

/-- A fill of the line into L2 has a way: not under no-allocate, nor for a zero read from a dead row through DEAD 1 (10 R293,
R294; 05 R150). -/
def l2Fills (s : State) (key : Nat) (r : Req) (h : HomeLine) : Bool :=
  r.hint != .noAllocate && !(!r.writes && r.leaf.dead && rowDead s h.pa) && (l2Victim s key h.ht h.cls).isSome

/-- After a request is served its line stays in L2, marked and used, unless it was neither there nor filled (10 R293, R294). The
copy engine's write-backs count nowhere (03 R66). -/
def settleHome (s : State) (key : Nat) (r : Req) (stays : Bool) : State :=
  match mget s.home key with
  | none => s
  | some h =>
    let s := homePut s key { h with mark := markUp h.mark r.hint, used := stamp s }
    if stays then s else l2Drop s key (decide (r.col < 384))

/-- Make way for a request's line: whether it stays in L2 afterwards. -/
def l2Open (s : State) (key : Nat) (r : Req) (h : HomeLine) : State × Bool :=
  if inL2 s key then (s, true)
  else if l2Fills s key r h then (l2Evict s key h.ht h.cls, true)
  else (s, false)

/-- Load at home (R309, R313). -/
def serveLoad (s : State) (r : Req) (key : Nat) (h : HomeLine) : Served :=
  let line := r.line
  let t := if r.col < 384 then colTower r.col else h.ht
  let words := wordsOf r.mask
  let must := (privateCopies s line).any (fun (e : Nat × L1Line) =>
    if e.1 = r.col then r.policy == .own else wordsOf e.2.valid &&& words != 0)
  let (s, h) := if must then merge s key line h else (s, h)
  let (s, h) := towerMove s key h r
  let ps := privateCopies s line
  if !ps.isEmpty then
    -- served without allocation, the requester's own masked words from its copy
    let s := homePut s key h
    let s := if r.col < 384 then countPerf s (4 * r.col) 0x65 1 else s
    match ps.find? (fun (e : Nat × L1Line) => e.1 == r.col) with
    | some (_, x) =>
      ⟨l1Put s r.col line { x with mark := markUp x.mark r.hint, used := stamp s }, (mergeLine x.valid x.data h.data).toNat,
        ((h.poison &&& ~~~wordsOf x.valid) ||| x.poison) &&& words != 0⟩
    | none => ⟨s, h.data.toNat, h.poison &&& words != 0⟩
  else
    let ahead (x : Line) : Line := if t != h.ht && h.prop then mergeLine h.ahead h.aheadData x else x
    let alloc := allocates s r h
    match r.policy with
    | .own =>
      let (s, h) := recallCopies s line h r.col .invalidate
      let h := fillHost h true
      let s := homePut s key h
      let s := if alloc then l1Install s r.col line (newLine .e h.data (BitVec.allOnes 64) 0 h.poison r.hint r.leaf) else s
      ⟨s, h.data.toNat, h.poison &&& words != 0⟩
    | .wt | .winv =>
      let (s, h) := recallCopies s line h r.col .downgrade
      let h := fillHost h false
      let s := homePut s key h
      let d := ahead h.data
      let s := if alloc then l1Install s r.col line (newLine .t d (BitVec.allOnes 64) 0 h.poison r.hint r.leaf) else s
      ⟨s, d.toNat, h.poison &&& words != 0⟩
    | .sinv =>
      let (s, h) := gather s line h words
      let h := fillHost h false
      let s := homePut s key h
      let d := ahead h.data
      let x := match (l1Get s r.col line).filter (·.st == .u) with
        | some x => newLine .u (mergeLine x.dirty x.data d) (BitVec.allOnes 64) x.dirty
            ((h.poison &&& ~~~fullWords x.dirty) ||| (x.poison &&& wordsOf x.dirty)) r.hint r.leaf
        | none => newLine .u d (BitVec.allOnes 64) 0 h.poison r.hint r.leaf
      ⟨if alloc then l1Install s r.col line x else s, x.data.toNat, x.poison &&& words != 0⟩

/-- A BTE read (10 R292): from the column's T, E or M copy; else served as a load `.sinv`, the dirty bytes of a U copy and
the masked words of a P copy from the column's own. No copy changes its state, and a tower that owns the line supplies it and
stays its owner. -/
def bteLoad (s : State) (r : Req) (key : Nat) (h : HomeLine) : Served :=
  let words := wordsOf r.mask
  let own := l1Get s r.col r.line
  let s := match own with
    | some x => l1Put (countPerf s (Dest.bteCore r.dest) 0x57 1) r.col r.line { x with mark := markUp x.mark r.hint, used := stamp s }
    | none => s
  match own.filter (fun x => x.st == .t || x.st == .e || x.st == .m) with
  | some x => ⟨s, x.data.toNat, x.poison &&& words != 0⟩
  | none =>
    let b := 1 - colTower r.col
    let owner := shownState s r.line h b
    let s := if !r.leaf.repl && (owner == .m || owner == .o) then
        bump (bump s (aCoh b 0x28) 1) (0x78000 + 0x100 * b + 56) 64
      else s
    let (s, h) := gather s r.line h words
    let d := if colTower r.col != h.ht && h.prop then mergeLine h.ahead h.aheadData h.data else h.data
    let s := homePut s key (fillHost h false)
    match own with
    | some x =>
      let m := if x.st == .p then x.valid else x.dirty
      ⟨s, (mergeLine m x.data d).toNat, ((h.poison &&& ~~~fullWords m) ||| (x.poison &&& wordsOf m)) &&& words != 0⟩
    | none => ⟨s, d.toNat, h.poison &&& words != 0⟩

/-- Before a BTE write the column's copy gives home its dirty bytes and is invalidated (10 R292). -/
def bteAbsorb (s : State) (r : Req) (key : Nat) (h : HomeLine) : State × HomeLine :=
  match l1Get s r.col r.line with
  | some x =>
    let (s, h) := callIn s h r.col x
    (homePut (l1Drop s r.col r.line) key h, h)
  | none => (homePut s key h, h)

/-- Bytes written at home with their poison (store `.wt`, push, no-allocate store; R309, R319, R321); a dead row revives
(05 R149). -/
def serveBytes (s : State) (r : Req) (key : Nat) (h : HomeLine) (d : Line) (p : BitVec 16) : State :=
  let line := r.line
  let words := wordsOf r.mask
  let (s, h) :=
    if (privateCopies s line).any (fun (e : Nat × L1Line) => e.1 == r.col || wordsOf e.2.valid &&& words != 0) then merge s key line h
    else (s, h)
  let (s, h) := towerMove s key h r
  let excl := (holders s line).any (fun (e : Nat × L1Line) => e.2.st == .e || e.2.st == .m)
  let (s, h) := recallCopies s line h r.col .write
  let stale := h.dirty
  let s := revive s h.pa
  let h := { h with
    data := mergeLine r.mask d h.data, dirty := true, poison := (h.poison &&& ~~~fullWords r.mask) ||| (p &&& words)
    ahead := h.ahead &&& ~~~r.mask }
  let s := homePut s key h
  -- the requester's T, E or M copy takes the bytes
  let s := match l1Get s r.col line with
    | some x => (match r.kind, x.st with
      | .store _, .t | .store _, .e | .store _, .m =>
        l1Put s r.col line { overlay r.mask d x with mark := markUp x.mark r.hint, used := stamp s }
      | _, _ => s)
    | none => s
  if isHost h.pa && cxlMode s && excl then
    -- a column held the line in E or M: the bytes are written in the device, and the host-side state is kept (02 R35)
    homePut s key { h with hst := 3 }
  else if isHost h.pa && cxlMode s then
    -- WOWrInv with byte mask: the host has the bytes, and what home held ahead of it; the device keeps no host-side state
    -- (02 R35)
    let s := if stale then setPoison (dramWrite s h.pa 0 (BitVec.allOnes 64) h.data h.poison) h.pa h.poison
      else dramWrite s h.pa 0 r.mask d (p &&& words)
    (match holders s line with
      | [] => homePut s key { h.alone with hst := 0 }
      | _ => homePut s key { h with dirty := false, hst := 0 })
  else s

/-- A store `.own` or `.winv` takes the line in M: P copies merge, and the other columns give it up (R309). -/
def ownMerged (s : State) (r : Req) (key : Nat) (h : HomeLine) (d : Line) : State :=
  let (s, h) := merge s key r.line h
  let (s, h) := towerMove s key h r
  let (s, h) := recallCopies s r.line h r.col .write
  let h := fillHost h true
  let h := if isHost h.pa then { h with hst := 3 } else h
  let s := homePut s key h
  let base := newLine .m h.data (BitVec.allOnes 64) 0 h.poison r.hint r.leaf
  l1Install s r.col r.line { overlay r.mask d base with dirty := r.mask }

/-- Store `.own` or `.winv` at home, with privatisation among the columns of one tower (R309, R313); a dead row revives
(05 R149). -/
def serveOwn (s : State) (r : Req) (key : Nat) (h : HomeLine) (d : Line) : State :=
  let line := r.line
  let t := colTower r.col
  let words := wordsOf r.mask
  let s := revive s h.pa
  let ps := privateCopies s line
  let overlap := ps.any (fun (e : Nat × L1Line) => e.1 != r.col && wordsOf e.2.valid &&& words != 0)
  let excl := (holders s line).find? (fun (e : Nat × L1Line) => e.1 != r.col && (e.2.st == .e || e.2.st == .m))
  -- its words of the line, poisoned where home has them so and the store leaves a part of them
  let pLine : L1Line := newLine .p (mergeLine r.mask d h.data) (wordBytes words) r.mask (h.poison &&& words &&& ~~~fullWords r.mask)
    r.hint r.leaf
  let near := ps.all (fun (e : Nat × L1Line) => colTower e.1 == t)
  match ps.find? (fun (e : Nat × L1Line) => e.1 == r.col), excl with
  | some (_, x), _ =>
    if overlap || !near then ownMerged s r key h d
    else
      let new := wordBytes words &&& ~~~x.valid
      let y := overlay r.mask d { x with
        data := mergeLine new h.data x.data, poison := x.poison ||| (h.poison &&& words &&& ~~~wordsOf x.valid) }
      l1Install s r.col line { y with valid := x.valid ||| wordBytes words, dirty := x.dirty ||| r.mask }
  | none, some (c, x) =>
    if ps.isEmpty && x.dirty != 0 && wordsOf x.dirty &&& words == 0 && colTower c == t then
      let s := l1Put s c line { x with st := .p, valid := wordBytes (wordsOf x.dirty), poison := x.poison &&& wordsOf x.dirty }
      l1Install (bump s (aCoh t 0x00) 1) r.col line pLine
    else ownMerged s r key h d
  | none, none =>
    if !ps.isEmpty && !overlap && near && decide (ps.length < 4) then l1Install (bump s (aCoh t 0x00) 1) r.col line pLine
    else ownMerged s r key h d

/-- An atomic or compare-and-swap at home, or in the column L1 under `.own` (R306, 16 R459); a dead row revives (05 R149). -/
def serveAtomic (s : State) (r : Req) (key : Nat) (h : HomeLine) : Served :=
  let line := r.line
  let words := wordsOf r.mask
  let o := maskOff r.mask
  let n := maskLen r.mask
  let (s, h) :=
    if (privateCopies s line).any (fun (e : Nat × L1Line) => e.1 == r.col || r.policy == .own || wordsOf e.2.valid &&& words != 0) then
      merge s key line h
    else (s, h)
  let (s, h) := towerMove s key h r
  let (s, h) := recallCopies s line h r.col .write
  -- the requester's own E or M copy is current
  let (s, h) := match (l1Get s r.col line).filter (fun x => x.st == .e || x.st == .m) with
    | some x => callIn s h r.col x
    | none => (s, h)
  let old := lineField h.data o n
  if h.poison &&& words != 0 then ⟨homePut s key h, h.data.toNat, true⟩
  else
    let s := revive s h.pa
    let h := fillHost h (isHost h.pa)
    let d := linePlace (rmwKind r.kind n old) o n
    if r.policy == .own && allocates s r h && !r.release then
      let h := if isHost h.pa then { h with hst := 3 } else h
      let s := homePut s key h
      let x := overlay r.mask d (newLine .m h.data (BitVec.allOnes 64) 0 h.poison r.hint r.leaf)
      ⟨l1Install s r.col line { x with dirty := r.mask }, h.data.toNat, false⟩
    else
      let h' := { h with data := mergeLine r.mask d h.data, dirty := true, hst := if isHost h.pa then 3 else h.hst }
      let s := homePut s key h'
      let s := match l1Get s r.col line with
        | some x => if x.st == .u then s
            else l1Put s r.col line { overlay r.mask d x with dirty := 0, mark := markUp x.mark r.hint, used := stamp s }
        | none => s
      ⟨s, h.data.toNat, false⟩

/-- Write back and invalidate every copy of a line in the package; P copies merge (16 R469 `.wbi`, R313). -/
def wbiLine (s : State) (leaf : Leaf) (line : Nat) : State :=
  let (s, h) := merge s line line (homeGet s leaf line)
  let (s, h) := (holders s line).foldl (fun (a : State × HomeLine) (e : Nat × L1Line) =>
    let (s, h) := callIn a.1 a.2 e.1 e.2
    (l1Drop s e.1 line, h)) (s, h)
  let s := homePut s line { h with st0 := .i, st1 := .i }
  -- the second copy of a replicated page holds the same bytes
  l2Drop (l2Drop s (line + 2 ^ 46) true) line true

/-- Write a line's current data back to DRAM: dirty bytes of E, M and P copies reach home, copies keep their states
(04 R114). -/
def wbLine (s : State) (leaf : Leaf) (line : Nat) : State :=
  let was := inL2 s line
  let (s, h) := gather s line (homeGet s leaf line) (BitVec.allOnes 16)
  let s := writeBack (homePut s line h) line
  let s := if was then s else l2Forget s line
  if leaf.repl then writeBack s (line + 2 ^ 46) else s

/-- Operations on memory that no cache holds: host memory in PCIe mode, and atomics of fabric memory (02 R34, R45). -/
def serveRaw (s : State) (r : Req) (pa : Nat) : Served :=
  let line := rawLine s pa
  let bad := poisonWords s pa &&& wordsOf r.mask != 0
  match r.kind with
  | .store d => ⟨dramWrite s pa 0 r.mask d 0, 0, false⟩
  | .push d p => ⟨dramWrite s pa 0 r.mask d (p &&& wordsOf r.mask), 0, false⟩
  | .atomic _ _ | .cas _ _ =>
    if bad then ⟨s, line.toNat, true⟩
    else
      let o := maskOff r.mask
      let n := maskLen r.mask
      ⟨dramWrite s pa 0 r.mask (linePlace (rmwKind r.kind n (lineField line o n)) o n) 0, line.toNat, false⟩
  | _ => ⟨s, line.toNat, bad⟩

/-- A stack that is DRAINING or OFFLINE, or a host that is LOST, refuses the request (05 R153, 04 R99).
(DEDUCED, log 95) -/
def refuses (s : State) (pa : Nat) : Option Nat :=
  if isHbm pa then (if stackState s (stackOf pa) ≠ 0 then some 5 else none)
  else if isHost pa then (if field (mreg s (0x53000 + 4 * 384)) 1 0 ≠ 0 then some 2 else none)
  else none

/-- What the host must first be asked: to give up a line it may hold, before its bytes change or one column has them alone; or,
where it may hold it alone, to share it (02 R37). -/
def hostAsk (r : Req) (h : HomeLine) : Option Bool :=
  if !h.hostBit then none
  else
    match r.kind with
    | .load | .prefetch _ => if r.policy == .own then some true else if h.hostShared then none else some false
    | .writeback _ => none
    | _ => some true

/-- The homes of a line that a request reaches: both copies of a replicated line (R321). -/
def Req.homes (r : Req) : List Nat := if r.leaf.repl then [r.line, r.line + 2 ^ 46] else [r.line]

/-- Record a release at `.grp` or `.blk`, beside the column's earlier ones (11 R314), or clear the record on a plain store to its
words (R316). -/
def lazyRecord (s : State) (r : Req) : State :=
  let words := wordsOf r.mask
  let note (h : HomeLine) : HomeLine :=
    { h with lazy := some (r.col, r.scope, words ||| h.lazy.elim 0 (fun z => if z.1 = r.col then z.2.2 else 0)), lazyNo := r.id }
  let clear (h : HomeLine) : HomeLine := if h.lazy.elim 0 (·.2.2) &&& words != 0 then { h with lazy := none } else h
  let at_ (f : HomeLine → HomeLine) : State := r.homes.foldl (fun s k => { s with home := mupd s.home k f }) s
  match r.kind with
  | .store _ => if r.release && !wideScope r.scope then at_ note else at_ clear
  | .push _ _ => at_ clear
  | .atomic _ _ | .cas _ _ => if r.release && !wideScope r.scope then at_ note else s
  | _ => s

/-- The column that home must drain before it serves a request (11 R314-R316). -/
def drainFirst (r : Req) (h : HomeLine) : Option Nat :=
  match h.lazy with
  | none => none
  | some (c, _, w) =>
    let hit := w &&& wordsOf r.mask != 0
    let promotes := r.acquire && wideScope r.scope && r.col != c && hit
    let replaces := r.release && !wideScope r.scope && r.col != c
    let drains : Bool := match r.kind with
      | .load => promotes
      | .store _ => if r.release && !wideScope r.scope then replaces else hit
      | .push _ _ => hit
      | .atomic _ _ | .cas _ _ => promotes || replaces
      | _ => false
    if drains then some c else none

/-- Send the value of a request back (16 R452). -/
def answer (r : Req) (v : Served) : State :=
  match r.dest with
  | .peer f =>
    let n := maskLen r.mask
    let x := lineField (BitVec.ofNat 512 v.val) (maskOff r.mask) n
    (match r.kind with
      | .store _ => sendReply v.s f .done
      | _ => sendReply v.s f (if v.bad then .machineCheck else .data (BitVec.ofNat 512 x)))
  | d =>
    let wants := d != .none || r.acquire
    let s := v.s
    if !wants && !v.bad then s
    else
      let x := lineField (BitVec.ofNat 512 v.val) (maskOff r.mask) (maskLen r.mask)
      due { s with rets := s.rets ++ [⟨r.id, r.group, r.dest, if v.bad then none else some x, r.acquire, r.scope, r.col, r.launch⟩] }
        [.loadReturn]

/-- A store or an atomic leaves its bytes in the column's copy, from where home calls them in later (R306, R309). -/
def keepsBytes (r : Req) : Bool :=
  r.hint != .noAllocate && !r.release && !r.leaf.repl && r.col < 384 && !r.ofBte &&
    (match r.kind with
      | .store _ => r.policy != .wt
      | .atomic _ _ | .cas _ _ => r.policy == .own
      | _ => false)

/-- Traffic of a request (03 R96). -/
def countReq (s : State) (r : Req) (pa ht : Nat) : State :=
  let cls := if !isHbm pa then 2 else if colTower r.col = ht then 0 else 1
  -- the host link's own counters
  let s := if isHbm pa then s
    else match r.kind with
      | .load => bump s 0x79018 (maskLen r.mask)
      | .store _ | .push _ _ | .atomic _ _ | .cas _ _ => bump s 0x79010 (maskLen r.mask)
      | _ => s
  match r.kind with
  | .load => countTraffic s r.col cls false (maskLen r.mask)
  | .store _ | .push _ _ | .atomic _ _ | .cas _ _ => if keepsBytes r then s else countTraffic s r.col cls true (maskLen r.mask)
  | _ => s

/-- The host does not complete an access to a line it must answer for (04 R99). (DEDUCED, log 120) -/
def hostFails (s : State) (key pa : Nat) : Bool := isHost pa && s.hostErrors.contains (pa / 64) && (!cxlMode s || !inL2 s key)

/-- Serve a request that reached its home and is not held. -/
def serve (s : State) (r : Req) (key : Nat) (pa : Nat) : State :=
  let r := withQuota s r
  let h := homeGet s r.leaf key
  if hostFails s key pa then
    match r.dest with
    | .peer f => sendReply s f .machineCheck
    | _ => machineCheck s r.launch
  else
  let (s, stays) := l2Open s key r h
  let s := countReq s r pa h.ht
  if (isHost pa && !cxlMode s) || fabricAtomic r then
    let s := if isFabric pa then wbiLine s r.leaf r.line else s
    answer r (serveRaw s r pa)
  else
    -- the copies of a replicated line besides the one that serves (R321)
    let both (s : State) (d : Line) (p : BitVec 16) : State :=
      (r.homes.filter (· != key)).foldl (fun s k =>
        let h2 := homeGet s r.leaf k
        let (s, stays) := l2Open s k r h2
        settleHome (serveBytes (homePut s k h2) r k h2 d p) k r stays) s
    let s := homePut s key h
    match r.kind with
    | .load =>
      let v := if r.ofBte then bteLoad s r key h else serveLoad s r key h
      answer r { v with s := settleHome v.s key r stays }
    | .prefetch l2 =>
      let v := serveLoad s (if l2 then { r with hint := .noAllocate } else r) key h
      settleHome v.s key r stays
    | .store d =>
      let s :=
        if keepsBytes r && r.policy != .sinv then serveOwn s r key h d
        else if keepsBytes r then
          -- a queued store `.sinv` that its copy could not take: merged, then held dirty in U (R310)
          let (s, h) := merge s key r.line h
          l1Install s r.col r.line (newLine .u (mergeLine r.mask d h.data) r.mask r.mask 0 r.hint r.leaf)
        else
          let (s, h) := if r.ofBte then bteAbsorb s r key h else (s, h)
          both (serveBytes s r key h d 0) d 0
      answer r ⟨settleHome (lazyRecord s r) key r stays, 0, false⟩
    | .push d p => settleHome (lazyRecord (both (serveBytes s r key h d p) d p) r) key r stays
    | .atomic _ _ | .cas _ _ =>
      let v := serveAtomic s r key h
      let s := settleHome (lazyRecord v.s r) key r stays
      answer r { v with s := if v.bad then machineCheck s r.launch else s }
    | .writeback true => wbiLine s r.leaf r.line
    | .writeback false => wbLine s r.leaf r.line

/-! ### Soft errors (01 R29) -/

/-- Source class and index of an error's record (03 R94). -/
def Store.source : Store → Nat × Nat
  | .registers k => (0, keyCore k)
  | .buffer b => (0, b)
  | .columnL1 c _ | .mule c => (1, c)
  | .l2 l | .directory l => (1, l)
  | .counters n | .blackBox n | .baseDie n => (1, n)
  | .hbm l => (2, stackOf (64 * l))

/-- A cached line whose error cannot be corrected is poisoned: a record and an event say so. -/
def poisonCached (s : State) (line : Nat) : State := raiseEvent (blackBox s 0x04 1 (line % 2 ^ 32) (64 * line)) 2

/-- One error is met: a corrected one is logged; another ends the owning launch with a machine-check, poisons the line, or
fails the part (R29; 03 R79). (DEDUCED, log 89) -/
def strike (s : State) (x : Strike) : State :=
  if x.corrected then blackBox s 0x03 x.place.source.1 (x.place.source.2 % 2 ^ 32) 0
  else
    match x.place with
    | .registers k => (groupOf s k).elim s (fun g => machineCheck s (groupLaunch s g))
    | .buffer b => (blockOf s b).elim s (fun b => machineCheck s b.launch)
    | .counters n => machineCheck s n
    | .columnL1 c l => (match l1Get s c l with
      | some y => poisonCached (l1Put s c l { y with poison := BitVec.allOnes 16 }) l
      | none => s)
    | .l2 l => (match (mget s.home l).filter (·.cached) with
      | some h => poisonCached (homePut s l { h with poison := BitVec.allOnes 16, dirty := true }) l
      | none => s)
    | .directory l => (match mget s.home l with
      | some h =>
        -- the entry is swept as for a rejoining agent: the copies it names are gone (02 R47)
        poisonCached (homePut { s with l1 := s.l1.filter (fun (e : Nat × L1Line) => e.1 % 2 ^ 46 != l) } l
          { loadHome s h with poison := BitVec.allOnes 16, dirty := true, lazy := none, st0 := .i, st1 := .i, ahead := 0 }) l
      | none => s)
    | .mule c => (match (mget s.migs c).bind (fun m => blockOf s m.block) with
      | some b => killLaunch s b.launch 5
      | none => s)
    | .baseDie n => (match s.reqs.find? (fun r => r.id == n) with
      | some r => killLaunch s r.launch 5
      | none => s)
    | .hbm l => raiseEvent (blackBox (setPoison s (64 * l) (BitVec.allOnes 16)) 0x04 2 (stackOf (64 * l)) (64 * l)) 2
    | .blackBox n => { s with bbox := mupd s.bbox n (fun r => { r with sev := r.sev % 128 + 128 }) }

/-- The errors at places that a step reads are met, oldest first. -/
def meetStrikes (s : State) (p : Store → Bool) : State :=
  (s.strikes.filter (fun x => p x.place)).foldl strike { s with strikes := s.strikes.filter (fun x => !p x.place) }

/-! ### Arrival at home -/

/-- A management-space request becomes a register read or write (04 R99). -/
def serveMgmt (s : State) (r : Req) (pa : Nat) : State :=
  let a := pa % 2 ^ 24 / 64 * 64 + maskOff r.mask
  let s := meetStrikes s (fun x => match x with
    | .blackBox n => decide (0x200000 ≤ a) && a < 0x220000 && n == (a - 0x200000) / 32
    | _ => false)
  match r.kind with
  | .store d => answer r ⟨due s [.registerWrite (BitVec.ofNat 32 a) (maskLen r.mask)
      (w64 (lineField d (maskOff r.mask) (maskLen r.mask)))], 0, false⟩
  | _ => answer r ⟨s, (mgmtRead s a (maskLen r.mask)) * 2 ^ (8 * maskOff r.mask), false⟩

/-- Ask the host to give up a line it may hold, or to share it: one snoop of a line at a time (02 R37). -/
def askBi (s : State) (line : Nat) (inv : Bool) : State :=
  if s.bi.any (fun b => b.1 == line) then s
  else { s with bi := s.bi ++ [(line, inv)], out := s.out ++ [.biSnoop (64 * line) inv] }

/-- Hold a request at home. -/
def holdReq (s : State) (r : Req) (w : HoldWhy) : State := { s with held := s.held ++ [(r, w)] }

/-- An earlier request of the column for the line, or an earlier command of the group on it, waits (11 R300). -/
def inOrder (s : State) (r : Req) : Bool :=
  let before (q : Req) : Bool := q.line == r.line && q.col == r.col && decide (q.id < r.id)
  !s.reqs.any before && !s.held.any (fun x => before x.1) &&
    !s.bankCmds.any (fun b => b.line == r.line && b.group.isSome && b.group == r.group && decide (b.id < r.id))

/-- Order the column of a release record to drain before a request is served: what it accepted before the order is to be
performed, its dirty U bytes included (11 R315). An order that is under way serves later requests too. A plain store of the
column itself waits for what precedes it. (DESIGN CHOICE, log 101) -/
def orderDrain (s : State) (r : Req) (h : HomeLine) (c : Nat) : State :=
  let same (x : Req × HoldWhy) : Option Nat := match x.2 with
    | .drain c' n => if x.1.line == r.line && c' == c && decide (h.lazyNo < n) then some n else none
    | _ => none
  if c = r.col then due (holdReq (releaseAction s c) r (.drain c r.id)) [.drainAck]
  else
    match s.held.findSome? same with
    | some n => holdReq s r (.drain c n)
    | none =>
      let s := bump (releaseAction s c) (aCoh h.ht 0x10) 1
      let s := if r.acquire then r.group.elim s (fun k => countPerf s (keyCore k) 0x63 1) else s
      due (holdReq s r (.drain c s.reqNo)) [.drainAck]

/-- Home, or the column's own copy, serves a request that nothing holds. -/
def serveHere (s : State) (r : Req) (key pa : Nat) : State :=
  match localAccess s r with
  | some (s, d, p) => answer r ⟨s, d.toNat, p &&& wordsOf r.mask != 0⟩
  | none => serve s r key pa

/-- A request arrives at its home: refused, held, served by the column's own copy after all, or served (R309). A stack that
drains still takes what columns hold dirty (05 R154). -/
def arrive (s : State) (r : Req) : State :=
  let key := homeKey r.leaf r.line (if r.col < 384 then colTower r.col else r.leaf.ht)
  let pa := homePa r.leaf key
  let isPush : Bool := match r.kind with
    | .push _ _ => true
    | _ => false
  match if isPush && isHbm pa && stackState s (stackOf pa) == 1 then none else refuses s pa with
  | some st => (match r.dest with
    | .peer f => sendReply s f .machineCheck
    | _ => if isPush then s else if st = 2 then machineCheck s r.launch else killLaunch s r.launch st)
  | none =>
    if isMgmt pa then serveMgmt s r pa
    else if !inOrder s r then holdReq s r .busy
    else if isHbm pa && s.keyLoads.any (·.1 == r.leaf.key) then holdReq s r (.key r.leaf.key)
    else if isHbm pa && retraining s (stackOf pa) && !inL2 s key then holdReq s r (.retrain (stackOf pa))
    else
      match mget s.home key with
      | none => serveHere s r key pa
      | some h =>
        if h.busy ≠ 0 then holdReq s r .busy
        else
          match hostAsk r h, drainFirst r h with
          | some inv, _ => holdReq (askBi s r.line inv) r .bi
          | none, some c => orderDrain s r h c
          | none, none => serveHere s r key pa

/-- What a request asks of a peer. -/
def peerOpOf (r : Req) : PeerOp :=
  let n := maskLen r.mask
  let o := maskOff r.mask
  match r.kind with
  | .store d => .store n (BitVec.ofNat 512 (lineField d o n))
  | .atomic op x => .atomic op (w64 x)
  | .cas c w => .cas (if n = 8 then .z64 else .z32) (w64 c) (w64 w)
  | _ => .load n

/-- A request through a range with PEER 1 goes out as a flit (04 R106). -/
def sendPeer (s : State) (r : Req) (pkg : Nat) : State :=
  let stream := r.col
  let tag := nget s.tags (stream * 256 + pkg)
  let n := maskLen r.mask
  let o := maskOff r.mask
  let op := peerOpOf r
  let cls := match r.kind with
    | .atomic _ _ | .cas _ _ => 2
    | _ => 0
  let s := match r.kind with
    | .load => countTraffic s r.col 2 false n
    | _ => countTraffic s r.col 2 true n
  let s := { s with peerOut := s.peerOut ++ [(pkg, stream, tag, r)] }
  sendFlit s cls pkg stream none (.request (BitVec.ofNat 52 (64 * r.line + o)) op)

/-- A release at `.sys` waits for the column's earlier accesses of peers, those still to be sent among them (11 R328). -/
def waitsPeers (s : State) (r : Req) : Bool :=
  let before (q : Req) : Bool := q.peer.isSome && q.col == r.col && decide (q.id < r.id)
  r.release && r.scope == .sys &&
    (s.peerOut.any (fun p => before p.2.2.2) || s.reqs.any before || s.held.any (fun x => before x.1))

/-- A column's stores, atomics and pushes, numbered below a bound, that are not performed at home (11 R311, R315). -/
def writesBefore (s : State) (col upto : Nat) : Bool :=
  let mine (r : Req) : Bool := r.col == col && decide (r.id < upto) && r.peer.isNone && !r.ofBte && r.writes
  s.reqs.any mine || s.held.any (fun x => mine x.1)

/-- A column's loads, numbered below a bound, that home has not served: what a release orders before its write (11 R303). -/
def loadsBefore (s : State) (col upto : Nat) : Bool :=
  let mine (r : Req) : Bool := r.col == col && decide (r.id < upto) && r.peer.isNone && !r.ofBte && (match r.kind with
    | .load => true
    | _ => false)
  s.reqs.any mine || s.held.any (fun x => mine x.1)

/-- Earlier bank-side commands of a release's group that are not performed (05 R143, 11 R323). -/
def commandsBefore (s : State) (r : Req) : Bool :=
  s.bankCmds.any (fun b => b.group.isSome && b.group == r.group && decide (b.id < r.id))

/-- A release made by a group of a column is performed: the column's requests below a bound, and the group's earlier commands
(11 R303, R311, R323). -/
def released (s : State) (col upto key : Nat) : Bool :=
  !writesBefore s col upto && !loadsBefore s col upto && !s.bankCmds.any (fun b => b.group == some key && decide (b.id < upto))

/-- A release at `.twr` or wider waits until every access its column accepted before it is performed at home, and any release for its
lane's bank-side commands (11 R303, R311, R323). -/
def waitsStores (s : State) (r : Req) : Bool :=
  r.release && ((wideScope r.scope && (writesBefore s r.col r.id || loadsBefore s r.col r.id)) || commandsBefore s r)

def Req.isAtomic (r : Req) : Bool := r.kind.isAtomic

/-- An earlier atomic of the group is not performed (11 R301). -/
def atomicsBefore (s : State) (r : Req) : Bool :=
  let before (q : Req) : Bool := q.isAtomic && q.group == r.group && decide (q.id < r.id)
  r.isAtomic && r.group.isSome && (s.reqs.any before || s.held.any (fun x => before x.1))

/-- Home can take a request: nothing that its order puts before it waits (11 R300, R301, R311). -/
def ready (s : State) (r : Req) : Bool := inOrder s r && !waitsStores s r && !atomicsBefore s r

def Req.isPush (r : Req) : Bool := match r.kind with
  | .push _ _ => true
  | _ => false

/-- Nothing can go on but a drain that waits in a circle: columns wait for one another's stores (DESIGN CHOICE, log 101). -/
def homesStuck (s : State) : Bool :=
  !s.reqs.any (ready s) && s.bankCmds.isEmpty && s.held.all (fun x => match x.2 with
    | .drain _ _ | .busy => true
    | _ => false)

/-- A request held for a drain whose column has performed what it accepted before the order (11 R315). -/
def drained (s : State) (x : Req × HoldWhy) : Bool :=
  match x.2 with
  | .drain c n => (!writesBefore s c n && !loadsBefore s c n) || homesStuck s
  | _ => false

/-! ### Issue of a column's access -/

/-- On a page with PROP 1 a store `.wt` updates the column's T copy as it issues: while only such stores of the column wait
for the line, a load reads the copy with their bytes (R320). A release waits for what precedes it, and so does its reader.
(DEDUCED, log 90) -/
def ownWrites (s : State) (r : Req) : Option (State × Line × BitVec 16) :=
  let mine := (s.held.map (·.1) ++ s.reqs).filter (fun x => x.col == r.col && x.line == r.line)
  let plain (x : Req) : Bool := x.policy == .wt && !x.release && !x.ofBte && (match x.kind with
    | .store _ => true
    | _ => false)
  let bank := s.bankCmds.any (fun b => b.line == r.line && b.group.elim false (fun k => coreCol (keyCore k) == r.col))
  match r.kind, l1Get s r.col r.line with
  | .load, some x =>
    if r.leaf.prop && x.st == .t && mine.all plain && !bank then
      localAccess (l1Put s r.col r.line (mine.foldl (fun x q => match q.kind with
        | .store d => overlay q.mask d x
        | _ => x) x)) r
    else none
  | _, _ => none

/-- A column's access goes to its home although a copy could serve it: home records a release that it bears on (R315, R316), or an
earlier atomic of the group waits (R301). -/
def homeFirst (s : State) (r : Req) : Bool :=
  r.peer.isNone && (r.homes.any (fun k => ((mget s.home k).bind (drainFirst r)).isSome) || atomicsBefore s { r with id := s.reqNo })

/-- A column performs an access (11 R307): in its copy when it can and no earlier access of the line waits, else by a
request; an insufficient U copy pushes its dirty bytes first (R310). Release actions precede (R311). The result is the
line read when it was at hand. -/
def access (s : State) (r : Req) : State × Option (Line × BitVec 16) :=
  let s := if r.release && wideScope r.scope then releaseAction s r.col else s
  match if homeFirst s r then none else if pendingLine s r.col r.line then ownWrites s r else localAccess s r with
  | some (s, d, p) => (s, some (d, p))
  | none =>
    let s := match (if r.peer.isSome then none else l1Get s r.col r.line) with
      | some x =>
        let stays := match r.kind with
          | .load => r.policy == .sinv
          | .store _ => r.policy == .sinv && !r.release
          | .prefetch _ | .writeback _ | .push _ _ => true
          | _ => false
        if x.st == .u && !stays then
          (if x.dirty != 0 then l1Drop (pushLine s r.col r.line x.leaf x.dirty x) r.col r.line else l1Drop s r.col r.line)
        else s
      | none => s
    (enqueue s r, none)

/-! ### Meanings of the events -/

/-- TOWER_REQUEST: the oldest request from the other tower obtains its tower-level state (R317); on a page with PROP 1 its
bytes reach that tower's L2 before home (R320). -/
def execTowerRequest (s : State) : Host.Outcome State Fault Refusal :=
  match s.reqs.find? (fun r => !r.tower) with
  | none => .next s
  | some r =>
    let s := { s with reqs := s.reqs.map (fun x => if x.id = r.id then { x with tower := true } else x) }
    let key := homeKey r.leaf r.line (colTower r.col)
    let pa := homePa r.leaf key
    if isMgmt pa || (refuses s pa).isSome || (isHost pa && !cxlMode s) then .next s
    else
      let was := inL2 s key
      let (s, h) := towerMove s key (homeGet s r.leaf key) r
      let s := homePut s key (match r.kind with
        | .store d | .push d _ =>
          if h.prop && r.policy == .wt then
            { h with ahead := h.ahead ||| r.mask, aheadData := mergeLine r.mask d h.aheadData }
          else h
        | _ => h)
      -- the states alone are recorded: a line that L2 did not hold is not filled by them
      .next (if was then s
        else
          let s := writeBack s key
          { s with home := mupd s.home key HomeLine.alone })

/-- HOME_REQUEST: the oldest request that home can take arrives at its slice (R309, R311). -/
def execHomeRequest (s : State) : Host.Outcome State Fault Refusal :=
  let next := s.reqs.find? (fun r => !r.isPush && ready s r)
  let s := meetStrikes s (fun x => match x with
    | .l2 l | .directory l => next.elim false (fun r => r.line == l)
    | .columnL1 c l => next.elim false (fun r => r.line == l && r.col == c)
    | .baseDie n => next.elim false (fun r => r.id == n)
    | .hbm p => next.elim false (fun r =>
        let key := homeKey r.leaf r.line (if r.col < 384 then colTower r.col else r.leaf.ht)
        p == homePa r.leaf key / 64 && r.peer.isNone && !inL2 s key)
    | _ => false)
  match takeFirst (fun r => !r.isPush && ready s r) s.reqs with
  | none => .next s
  | some (r, rest) =>
    let s := { s with reqs := rest }
    .next (if waitsPeers s r then holdReq s r .peers
      else match r.peer with
        | some p => sendPeer s r p
        | none => arrive s r)

/-- PUSH_APPLY: the oldest push that nothing precedes is applied at home (R310). -/
def execPushApply (s : State) : Host.Outcome State Fault Refusal :=
  match takeFirst (fun r => r.isPush && ready s r) s.reqs with
  | none => .next s
  | some (r, rest) => .next (arrive { s with reqs := rest } r)

/-- Held requests of a kind go on to their homes again, in order. -/
def unhold (s : State) (p : Req × HoldWhy → Bool) : State :=
  let go := s.held.filter p
  go.foldl (fun s x =>
    let ev : Instr := if x.1.isPush then .pushApply else .homeRequest
    due { s with reqs := s.reqs ++ [x.1] } [ev]) { s with held := s.held.filter (fun x => !p x) }

/-- Queue engines whose access met a held line try again. -/
def wakeEngines (s : State) : State :=
  (s.engines.filter (fun (e : Nat × Engine) => e.2.waiting == some 5000)).foldl (fun s (e : Nat × Engine) =>
    due (updEngine s e.1 (fun x => { x with waiting := none })) [.tileClaim (e.1 / 12) (e.1 % 12), .stealAttempt (e.1 / 12) (e.1 % 12)]) s

/-- DRAIN_ACK: the recorded column has drained, and what it accepted before the order is performed; home clears the record of a
release that the order covers and serves the oldest request that waited (R315). -/
def execDrainAck (s : State) : Host.Outcome State Fault Refusal :=
  match takeFirst (drained s) s.held with
  | none => .next s
  | some ((r, why), rest) =>
    let covered (h : HomeLine) : Bool := match why with
      | .drain c n => h.lazy.elim false (fun z => z.1 == c) && decide (h.lazyNo < n)
      | _ => false
    let s := { s with held := rest }
    let s := r.homes.foldl (fun s k => { s with home := mupd s.home k (fun h => if covered h then { h with lazy := none } else h) }) s
    .next (wakeEngines (unhold (arrive s r) (fun x => x.2 == .busy && x.1.line == r.line)))

end Sys2Proof.Machine
end

