-- ==== Sys2Proof/Machine/Fetch.lean ====
section
/-! DEFINITION. Instruction fetch (04 R103, R120; 12 R331-R333, R353; 11 R531). -/

namespace Sys2Proof.Machine

/-- What a unit asks of a translation on behalf of a group. -/
def groupReq (s : State) (k : Nat) (g : Group) (write atomic fetch : Bool) : XReq :=
  let core := keyCore k
  { who := .group k, tower := colTower (coreCol core), ia := 0, va := 0, launch := groupLaunch s g, col := coreCol core,
    layer := coreLayer core, slot := keySlot k, write := write, atomic := atomic, nmo := false, fetch := fetch, zf := false,
    priv := privileged s g }

/-- The bytes of a parcel as home or memory holds them (R531). -/
def readParcel (s : State) (leaf : Leaf) (ia : Nat) : Word :=
  let key := homeKey leaf (ia / 64) leaf.ht
  w32 (lineField (homeGet s leaf key).data (ia % 64) 4)

/-- A parcel behind a range with PEER 1 is asked of its package (04 R106). -/
def peerFetch (s : State) (k : Nat) (g : Group) (va ia pkg : Nat) : State :=
  enqueue s ⟨0, coreCol (keyCore k), some k, .load, ia / 64, byteMask (ia % 64) 4, .wt, .sys, .noAllocate, false, false,
    .parcel va, ⟨0, 0, 3⟩, some pkg, groupLaunch s g, true⟩

/-- What fetching a parcel came to. -/
inductive FetchRes where
  | ok (s : State) (w : Word)
  /-- asked of a peer package -/
  | wait (s : State)
  | stop (x : XRes)

/-- Fetch the parcel at an address for a group. (DEDUCED, log 11) -/
def fetchParcel (s : State) (k : Nat) (g : Group) (va : Nat) : FetchRes :=
  match g.fetchFail with
  | some (c, sub) => .stop (.trap s c sub)
  | none => match translate s (groupLaunch s g) va 4 .fetch (groupReq s k g false false true) g.walked with
  | .ok s ia l _ =>
    match refuses s (l.pa52 ia) with
    | some st => .stop (.dead (if st = 2 then machineCheck s (groupLaunch s g) else failRequest s (groupReq s k g false false true) st 0x09))
    | none => .ok s (readParcel s l ia)
  | .peer s ia p _ => (match mget g.parcels va with
    | some w => .ok s (w32 w)
    | none => .wait (peerFetch s k g va ia p))
  | x => .stop x

/-- Fetch the second parcel of the long instruction at an address: one access of 8 bytes (12 R332, 04 R103). -/
def fetchSecond (s : State) (k : Nat) (g : Group) (va : Nat) : FetchRes :=
  let (s, rs) := withRanges s (groupLaunch s g)
  match rangeXlate rs va 8 .fetch (privileged s g) with
  | .trap c sub => .stop (.trap s c sub)
  | .ok _ _ => fetchParcel s k g (va + 4)

/-- The parcel at an address lies behind a range with PEER 1 and is not at hand: its addresses and package. -/
def peerMiss (s : State) (g : Group) (va : Nat) : Option (Nat × Nat × Nat) :=
  let rs := (launchOf s (groupLaunch s g)).elim [] (fun l => l.ranges.getD (readRanges s (groupLaunch s g)))
  match rangeXlate rs va 4 .fetch (privileged s g) with
  | .trap _ _ => none
  | .ok ia r => r.peer.bind (fun p => if (mget g.parcels va).isSome then none else some (va, ia, p))

/-- The parcel at an address, when a range with X 1 and a valid page give it (12 R353). -/
def peekParcel (s : State) (k : Nat) (g : Group) (va : Nat) : Option Word :=
  let rs := (launchOf s (groupLaunch s g)).elim [] (fun l => l.ranges.getD (readRanges s (groupLaunch s g)))
  match rangeXlate rs va 4 .fetch (privileged s g) with
  | .trap _ _ => none
  | .ok ia r =>
    if r.peer.isSome then (mget g.parcels va).map w32
    else
      let q := { groupReq s k g false false true with ia := ia }
      let o := match findLeaf s g.walked true q.tower ia with
        | some o => o
        | none => walkAll s ia (mreg s PTROOT) 0 5
      match pageCheck s q o with
      | .ok l => some (readParcel s l ia)
      | _ => none

/-- A parcel that the check of a target needs from a peer package first. -/
def targetMiss (s : State) (k : Nat) (g : Group) (t : Word64) : Option (Nat × Nat × Nat) :=
  if t.toNat % 4 ≠ 0 then none
  else
    match peerMiss s g (t - 4).toNat with
    | some x => some x
    | none =>
      match peekParcel s k g (t - 4).toNat with
      | some w => if w.toNat % 4 = 3 then peerMiss s g (t - 8).toNat else none
      | none => none

/-- A transfer's target begins a run (12 R353). -/
def targetOk (s : State) (k : Nat) (g : Group) (t : Word64) : Bool :=
  t.toNat % 4 == 0 &&
  (match peekParcel s k g (t - 4).toNat with
    | none => false
    | some w =>
      match w.toNat % 4 with
      | 0 | 1 => w.toNat.testBit 2
      | 3 => (match peekParcel s k g (t - 8).toNat with
        | some v => v.toNat % 4 == 2 && v.toNat.testBit 2
        | none => false)
      | _ => false)

end Sys2Proof.Machine
end

