-- ==== Sys2Proof/Machine/Control.lean ====
section
/-! DEFINITION. The prefix and the control instructions (spec/14_isa_control_integer.md R407-R417, 12 R343-R347); `exit`
stands with the ends of blocks. -/

namespace Sys2Proof.Machine

/-- The guard and run bit of a long instruction. -/
def ctlSpec (c : Ctl) : Spec := { e := c.e, pred := c.pred.toNat, neg := c.neg }

/-- PFX: the prefix of the next instruction (R343, R347). (DEDUCED, log 63) -/
def execPfx (p : Pfx) (s : State) : Out :=
  match issueCtx s 0 false with
  | none => .fault .noIssuingGroup
  | some c =>
    let wrong := p.e || c.r.pre.isSome
    -- TLANE 64 after its trap: it counts as complete (09 R261)
    if wrong && c.r.start ≥ 64 then .next (complete s c.key c.next p.e false 1 [] [])
    else if p.e then .next (takeTrap s c.key (c.trapActive 0x02 0 0))
    else if c.r.pre.isSome then .next (takeTrap s c.key (c.trapActive 0x01 0x04 0))
    else .next (updGroup s c.key (fun g => { g with run := g.run.map (fun r => { r with pc := c.next, pre := some (p, c.pc) }) }))

def execNop (c : Ctl) (s : State) : Out := issue s (ctlSpec c) (fun _ s => .ok s)

/-- Short `nop` (R417), alone or in a pair. -/
def sNop (pred : BitVec 4) (e : Bool) : LaneOp :=
  { spec := { e := e, pred := pred.toNat, neg := false }, result := fun _ _ _ => (0, 0) }
def execNopShort (_ty : BitVec 3) (pred : BitVec 4) (e : Bool) (s : State) : Out :=
  issue s (sNop pred e).spec (fun _ s => .ok s)

/-- An address at an offset in parcels from the instruction's first parcel (R407). -/
def relTarget (pc : Word64) {w : Nat} (k : BitVec w) : Word64 := pc + 4 * k.signExtend 64

/-- Check every target of the acting lanes, then send each to its own and the others of the run to the next instruction
(R408). -/
def transfer (k : Ctx) (s : State) (acting : LaneMask) (target : Nat → Word64) (split : Bool) (g : Group) : Res :=
  match (laneList acting).findSome? (fun l => targetMiss s k.key k.g (target l)) with
  | some (va, ia, p) => .brk (peerFetch s k.key k.g va ia p) (.walk va) k.r.start
  | none =>
  match (laneList acting).find? (fun l => !targetOk s k.key k.g (target l)) with
  | some l => .trap s (k.trapFirst 0x07 0 (target l).toNat)
  | none =>
    let g := mapLanes g (fun l x =>
      if inMask acting l then { x with pc := target l } else if inMask k.r.active l then { x with pc := k.next } else x)
    let s := if acting = 0 then s else countPerf s k.core 0x20 1
    let pcs := ((laneList k.r.active).map (fun l => (laneAt g l).pc)).eraseDups
    let s := if split && acting != 0 && pcs.length > 1 then countPerf s k.core 0x21 1 else s
    .ok (setGroup s k.key g)

def execBra (c : Ctl) (k : BitVec 30) (s : State) : Out :=
  issue s { ctlSpec c with transfer := true } (fun x s => transfer x s x.mask (fun _ => relTarget x.pc k) true x.g)

/-- The condition of `brc` over the whole active mask (R410). -/
def brcTaken (g : Group) (c : Ctl) (active : LaneMask) : BrCond → Bool
  | .all => active &&& (if c.neg then ~~~preg g c.pred.toNat else preg g c.pred.toNat) == active
  | .any => active &&& (if c.neg then ~~~preg g c.pred.toNat else preg g c.pred.toNat) != 0
  | .none => active &&& (if c.neg then ~~~preg g c.pred.toNat else preg g c.pred.toNat) == 0
  | .snz n => sreg g n.val != 0
  | .sz n => sreg g n.val == 0

def execBrc (c : Ctl) (cond : BrCond) (k : BitVec 12) (s : State) : Out :=
  let reads : List AReg := match cond with
    | .snz n | .sz n => [.s n.val]
    | _ => []
  issue s
    { e := c.e, pred := 0, neg := false, transfer := true, reads := reads
      own := if !reads.isEmpty && !c.plain then some (1, 0x41) else none }
    (fun x s => transfer x s (if brcTaken x.g c x.r.active cond then x.mask else 0) (fun _ => relTarget x.pc k) false x.g)

/-- `jmp` and `ret` take each lane's target from a scalar or a vector pair (R411). -/
def jumpSpec (c : Ctl) (t : Src) : Spec :=
  { ctlSpec c with transfer := true, own := oddOwn [(⟨t, true⟩ : Opnd).odd], srcs := [⟨t, true⟩] }

def execJmp (c : Ctl) (t : Src) (s : State) : Out :=
  issue s (jumpSpec c t) (fun x s =>
    transfer x s x.mask (fun l => w64 ((⟨t, true⟩ : Opnd).val x.g x.latch l)) true x.g)

def execRet (c : Ctl) (t : Src) (s : State) : Out :=
  issue s (jumpSpec c t) (fun x s =>
    match transfer x s x.mask (fun l => w64 ((⟨t, true⟩ : Opnd).val x.g x.latch l)) false x.g with
    | .ok s => .ok (countPerf s x.core 0x23 1)
    | r => r)

/-- `call` writes the link, then transfers (R412). -/
def execCall (c : Ctl) (d : Reg) (k : BitVec 30) (s : State) : Out :=
  let dst := DestReg.ofReg d true
  issue s { ctlSpec c with transfer := true, own := oddOwn [dst.odd], dst := dst }
    (fun x s =>
      let g := if x.mask = 0 then x.g else match d with
        | .s n => setSreg x.g n.val x.next.toNat
        | .v n => writeLanes (writeLanes x.g n.val x.mask (fun _ => w32 x.next.toNat)) (n.val + 1) x.mask
            (fun _ => w32 (x.next.toNat / 2 ^ 32))
      match transfer x s x.mask (fun _ => relTarget x.pc k) false g with
      | .ok s => .ok (countPerf s x.core 0x22 1)
      | r => r)

/-- `meet` sets the meeting register of each stream-mask lane (R413). -/
def execMeet (c : Ctl) (clr : Bool) (k : BitVec 30) (s : State) : Out :=
  issue s { ctlSpec c with own := if clr && k != 0 then some (1, 0x40) else none }
    (fun x s =>
      let m : Word64 := if clr then 0 else relTarget x.pc k
      .ok (setGroup s x.key (mapLanes x.g (fun l y => if inMask x.mask l then { y with meet := m } else y))))

/-- `yield` ends the run; the group does not compete until another has issued (R415). -/
def execYield (c : Ctl) (s : State) : Out :=
  issue s { ctlSpec c with ownAny := true, own := if !c.plain then some (1, 0x41) else if !c.e then some (1, 0x44) else none }
    (fun x s => .ok (updGroup (countPerf s x.core 0x25 1) x.key (fun g => { g with yielded := true })))

/-- `sleep` waits 16 · K core cycles; the instruction itself is complete (R416). -/
def execSleep (c : Ctl) (k : BitVec 12) (s : State) : Out :=
  issue s { ctlSpec c with ownAny := true, own := if !c.plain then some (1, 0x41) else none }
    (fun x s =>
      if k = 0 then .ok s
      else
        let s := countPerf (complete s x.key x.next c.e false 1 [] []) x.core 0x17 1
        .gone (leaveSlot s x.key
          (.waiting (.sleep ((coreOf s x.core).cycles + 16 * k.toNat)))))

end Sys2Proof.Machine
end

