-- ==== Sys2Proof/Machine/MemOps.lean ====
section
/-! DEFINITION. What the memory instructions share: a lane's access with its checks, the delivery of values, waits on the
column's requests, and typed-buffer bytes (spec/16_isa_memory.md R445-R469, 10 R268-R275). -/

namespace Sys2Proof.Machine

/-! ### Streaming an access lane by lane (16 R448) -/

/-- What one lane's access came to. -/
inductive LaneRes where
  | ok (s : State)
  | trap (s : State) (cause sub addr : Nat)
  | brk (s : State) (why : BreakWhy)
  | gone (s : State)

/-- The registers of a list that the group still awaits. -/
def lateRegs (s : State) (k : Nat) (rs : List AReg) : List AReg :=
  match groupOf s k with
  | none => []
  | some g => rs.filter (awaits g)

/-- Stream the lanes: a trap waits until the lanes below it have their values (09 R258). -/
def memLoop (c : Ctx) (scalar : Bool) (dst : List AReg) (f : State → Nat → LaneRes) : List Nat → State → Res
  | [], s => .ok s
  | l :: ls, s =>
    match f s l with
    | .ok s => memLoop c scalar dst f ls s
    | .trap s cause sub addr =>
      if (lateRegs s c.key dst).isEmpty then
        .trap s (if scalar then c.trapFirst cause sub addr else c.trapLane cause sub addr l)
      else .brk s (.operand (lateRegs s c.key dst)) l
    | .brk s why => .brk s why l
    | .gone s => .gone s

/-- The lanes an access streams: the whole stream mask, or once. -/
def memLanes (c : Ctx) (scalar : Bool) : List Nat := if scalar then [0] else laneList c.mask

/-- What follows from a translation other than an address (04 R120-R122). -/
def xlateStop (c : Ctx) (va : Nat) : XRes → LaneRes
  | .ok s _ _ _ => .ok s
  | .peer s _ _ _ => .ok s
  | .trap s cause sub => .trap s cause sub va
  | .walk s => .brk s (.walk va)
  | .park s sub l r =>
    let s := parkRequest s r sub l
    (match groupOf s c.key with
      | none => .gone s
      | some g => (match g.status with
        | .broken why => .brk s why
        | _ => .brk s (.parked 2048)))
  | .dead s => .gone s

/-- Translate a lane's access; a request released with FAIL traps (04 R120). -/
def laneXlate (c : Ctx) (s : State) (va n : Nat) (k : AKind) (atomic nmo : Bool) : XRes :=
  if c.g.parkFail then .trap s 0x10 0x0D
  else
    translate s (groupLaunch s c.g) va n k { groupReq s c.key c.g (k == .write) atomic false with nmo := nmo }
      ((groupOf s c.key).bind (·.walked))

/-- A global access waits for an acquire of the group that has not returned (16 R451). -/
def afterAcquires (c : Ctx) (s : State) (body : Res) : Res :=
  if c.g.pendingOrd.isEmpty then body else .brk s .order c.r.start

/-- The base address of a lane plus the offset (16 R446). -/
def laneAddr (g : Group) (latch : List Row) (base : Src) (off : BitVec 9) (l : Nat) : Nat :=
  (w64 ((⟨base, true⟩ : Opnd).val g latch l) + off.signExtend 64).toNat

/-- The coherence policy in force: the named one, or POL of the leaf (04 R116); host memory in PCIe mode and stores to
replicated pages are `.wt` (02 R34, 04 R117). -/
def policyOf (s : State) (named : Option Policy) (leaf : Leaf) (ia : Nat) (store : Bool) : Policy :=
  if (isHost (leaf.pa52 ia) && !cxlMode s) || (leaf.repl && store) then .wt else named.getD leaf.pol

/-! ### Values to registers -/

/-- Deliver a value into a lane of a group's register (16 R447, R453). -/
def writeDest (g : Group) (d : Dest) (v : Nat) : Group :=
  match d with
  | .lane n l bytes sx =>
    let one (g : Group) (i : Nat) (x : Nat) : Group := writeLanes g (n + i) (maskOf (· == l)) (fun _ => w32 x)
    if bytes ≥ 8 then foldUpto (fun g i => one g i (v / 2 ^ (32 * i))) g (bytes / 4)
    else one g 0 (if sx then unsignedOf 32 (signedOf (8 * bytes) v) else v)
  | .scalar n bytes sx => setSreg g n (if sx then unsignedOf 64 (signedOf (8 * bytes) v) else v)
  | .queue q id l =>
    let x := queueAt g q
    setQueue g q { x with pending := x.pending.map (fun (p : Nat × LaneMask × Row) =>
      if p.1 = id then (p.1, p.2.1 &&& ~~~maskOf (· == l), blendRow (maskOf (· == l)) (fun _ => w32 v) p.2.2) else p) }
  | .desc _ => { g with fetched := some v }
  | .parcel va => { g with parcels := mset g.parcels va v }
  | _ => g

/-- The registers a destination covers. -/
def Dest.regs : Dest → List AReg
  | .lane n _ bytes _ => (List.range (max 1 (bytes / 4))).map (fun i => AReg.v (n + i))
  | .scalar n _ _ | .desc n => [.s n]
  | _ => []

/-- Map the rows a load will write, at issue (09 R250). -/
def mapRows (g : Group) (rows : List Nat) : Group := rows.foldl (fun g n => setVreg g n (vreg g n)) g

/-- An access by a lane, its value delivered at once or awaited (11 R307, 16 R451-R453). -/
def laneAccess (c : Ctx) (s : State) (r : Req) : LaneRes :=
  let pa := homePa r.leaf (homeKey r.leaf r.line (colTower r.col))
  if r.peer.isNone && isHbm pa && stackState s (stackOf pa) ≠ 0 then .gone (killLaunch s r.launch 5)
  else
  let id := s.reqNo
  let (s, out) := access s r
  let s := if r.acquire && wideScope r.scope then countPerf s c.core 0x60 1 else s
  let s := if r.release && wideScope r.scope then countPerf s c.core 0x61 1 else s
  match out with
  | some (d, p) =>
    let isStore := match r.kind with
      | .store _ => true
      | _ => false
    if isStore then .ok s
    else if p &&& wordsOf r.mask != 0 then .gone (machineCheck s r.launch)
    else
      let v := lineField d (maskOff r.mask) (maskLen r.mask)
      let s := if r.acquire && wideScope r.scope then acquireAction s r.col else s
      .ok (updGroup s c.key (fun g => writeDest g r.dest v))
  | none =>
    -- a push of the line's own dirty bytes, or a release action, may have gone ahead of the request
    let id := max id (s.reqNo - 1)
    .ok (updGroup s c.key (fun g => { g with
      awaiting := g.awaiting ++ r.dest.regs.map (fun a => (a, id))
      pendingOrd := if r.acquire then g.pendingOrd ++ [id] else g.pendingOrd }))

/-- A lane's access to a peer package: the lane waits for the answer, so that a fault there is its precise trap (04 R106,
R120). (DEDUCED, log 69) -/
def peerAccess (c : Ctx) (s : State) (va : Nat) (r : Req) : LaneRes :=
  match ((groupOf s c.key).bind (·.peerWait)).filter (fun w => w.va == va) with
  | some w =>
    let done := updGroup s c.key (fun g => { g with peerWait := none })
    (match w.ans with
      | none => .brk s (.walk va)
      | some (.inr (cause, sub)) => .trap done cause sub va
      | some (.inl v) =>
        let s := if r.acquire && wideScope r.scope then acquireAction done r.col else done
        .ok (updGroup s c.key (fun g => writeDest g r.dest v)))
  | none =>
    let (s, _) := access s { r with dest := .peerLane }
    let s := if r.acquire && wideScope r.scope then countPerf s c.core 0x60 1 else s
    let s := if r.release && wideScope r.scope then countPerf s c.core 0x61 1 else s
    .brk (updGroup s c.key (fun g => { g with peerWait := some ⟨va, s.reqNo - 1, none⟩ })) (.walk va)

/-- A lane's access that completed counts as an event (16: PERF 0x80-0x82). -/
def counted (c : Ctx) (ev : Nat) : LaneRes → LaneRes
  | .ok s => .ok (countPerf s c.core ev 1)
  | r => r

/-! ### Waits on the column's requests (16 R460, R468, R469) -/

/-- A request of the column, or of every column, numbered below a bound is still on its way. -/
def outstanding (s : State) (col : Option Nat) (upto : Nat) : Bool :=
  let mine (r : Req) : Bool := decide (r.id < upto) && (match col with
    | none => true
    | some c => r.col == c && !r.ofBte)
  s.reqs.any mine || s.held.any (fun x => mine x.1) || s.peerOut.any (fun p => mine p.2.2.2) ||
  s.rets.any (fun r => decide (r.id < upto) && (match col with
    | none => true
    | some c => r.col == c && r.group.isSome))

/-- A bank-side command of a group, or of any group, waits at home or in a bank queue (16 R460, 05 R143). -/
def bankPending (s : State) (k : Option Nat) : Bool :=
  s.bankCmds.any (fun b => match k with
    | none => true
    | some k => b.group == some k)

/-- A `wsync` waits: for requests numbered below a bound and bank-side commands, which may have obtained their translation from a
leaf cache, and for those of marked walks (04 R114). -/
def wsyncWaits (s : State) (upto : Nat) : Bool :=
  let mine (r : Req) : Bool := decide (r.id < upto) && r.peer.isNone
  let marked (w : Option Walked) : Bool := w.elim false (·.marked)
  s.reqs.any mine || s.held.any (fun x => mine x.1) || bankPending s none || s.walks.any (·.marked) ||
    s.groups.any (fun (e : Nat × Group) => marked e.2.walked) ||
    s.bte.any (fun (e : Nat × List BteReq) => e.2.any (fun r => marked r.walked)) ||
    s.engines.any (fun (e : Nat × Engine) => marked e.2.walked)

/-- The instruction's actions are under way: it is complete, and its group waits for them. -/
def waitDrain (c : Ctx) (e : Bool) (s : State) (all rel acq : Bool) : Res :=
  let col := if all then none else some (coreCol c.core)
  if outstanding s col s.reqNo || bankPending s (if all then none else some c.key) then
    .gone (leaveSlot (countPerf (complete s c.key c.next e false 1 [] []) c.core 0x17 1) c.key (.waiting (.drain s.reqNo all rel acq)))
  else .ok s

/-- The group is a task that has not committed (08 R223). -/
def uncommitted (s : State) (g : Group) : Bool :=
  if g.super then false
  else match blockOf s g.block with
    | none => false
    | some b => b.task.elim false (fun f => match mget s.futures f with
      | some x => x.state == .running || x.state == .queued || x.state == .doomed
      | none => false)

/-! ### Typed buffers (10 R268-R275) -/

def bufCode : Buf → Nat
  | .wbuf => 0 | .abuf => 1 | .cbuf => 2 | .gbuf => 3
/-- Declared chunks of a buffer (10 R269). -/
def declared (b : Block) : Buf → Nat
  | .wbuf => b.shape.wbuf | .abuf => b.shape.abuf | .cbuf => b.shape.cbuf | .gbuf => b.shape.gbuf
def bufKey (f : Buf) (a : Nat) : Nat := bufCode f * 2 ^ 20 + a
def chunkKey (f : Buf) (c : Nat) : Nat := bufCode f * 1024 + c
/-- A little-endian value of n bytes of a buffer. -/
def bufRead (b : Block) (f : Buf) (a n : Nat) : Nat := packNat 8 (fun i => nget b.bytes (bufKey f (a + i))) n
def bufWrite (b : Block) (f : Buf) (a n v : Nat) : Block :=
  { b with bytes := foldUpto (fun m i => nset m (bufKey f (a + i)) (v / 2 ^ (8 * i) % 256)) b.bytes n }
/-- A chunk's owner bit: some holder when it is on the engine side (R272). -/
def ownerOf (b : Block) (f : Buf) (c : Nat) : Option Nat := mget b.owner (chunkKey f c)
def setOwner (b : Block) (f : Buf) (c holder : Nat) : Block := { b with owner := mset b.owner (chunkKey f c) holder }
/-- A chunk returns to the thread side; a request at `.twr` or wider leaves a mark for the group that finds it (R275,
11 R322). -/
def returnChunk (b : Block) (f : Buf) (c : Nat) (wide : Bool) : Block :=
  { b with
    owner := mdel b.owner (chunkKey f c)
    returned := if wide then mset b.returned (chunkKey f c) 1 else b.returned }

/-- A group finds chunks at 0: it acquires what a wide request did to them (11 R322). -/
def acquireChunks (s : State) (blk : Nat) (col : Nat) (f : Buf) (cs : List Nat) : State :=
  match blockOf s blk with
  | none => s
  | some b =>
    let found := cs.filter (fun c => (ownerOf b f c).isNone && (mget b.returned (chunkKey f c)).isSome)
    if found.isEmpty then s
    else
      acquireAction (setBlock s blk { b with returned := found.foldl (fun m c => mdel m (chunkKey f c)) b.returned }) col

/-- The issuing group's block; a supervisor has no typed buffers (09 R263). -/
def ctxBlk (s : State) (c : Ctx) : Option Block := if c.g.super then none else blockOf s c.g.block

/-- Subcodes and checks of one lane's typed-buffer access (16 R462). -/
def bufCheck (s : State) (c : Ctx) (f : Buf) (a n : Nat) (write : Bool) : Option (Nat × Nat × Nat) :=
  match ctxBlk s c with
  | none => some (0x09, bufCode f, a)
  | some b =>
    if declared b f * 512 < a + n then some (0x09, bufCode f, a)
    else if a % n ≠ 0 then some (0x0A, 0, a)
    else if write && f == .wbuf then some (0x08, 0, a)
    else if (ownerOf b f (a / 512)).isSome then some (0x08, bufCode f, a)
    else none

end Sys2Proof.Machine
end

