-- ==== Sys2Proof/Machine/MemInstr.lean ====
section
/-! DEFINITION. The memory instructions and the returns of their accesses (spec/16_isa_memory.md). -/

namespace Sys2Proof.Machine

/-- Issue cycles of a global access: one per beat, times the size's factor (R452). -/
def memCycles (scalar : Bool) (factor : Nat) (n : Nat) : Nat := if scalar then factor else max 1 (ceilDiv n 16) * factor
/-- Class 7 units of a global access; one cycle's for a scalar form (R452, 07 R186). -/
def memCharge (scalar : Bool) (factor : Nat) (c : Core) (n : Nat) : Nat :=
  if n = 0 then 0 else weight c 7 * (if scalar then 1 else memCycles false factor n)

def ldBytes : LdSize → Nat
  | .z8 | .s8 => 1 | .z16 | .s16 => 2 | .b32 => 4 | .b64 => 8 | .b128 => 16
def ldSigned : LdSize → Bool
  | .s8 | .s16 => true
  | _ => false
def stBytes : StSize → Nat
  | .b8 => 1 | .b16 => 2 | .b32 => 4 | .b64 => 8 | .b128 => 16
/-- Factor of R452 by size. -/
def sizeFactor (n : Nat) : Nat := if n = 16 then 4 else if n = 8 then 2 else 1

/-- Rows a register names for n bytes a lane (R447). -/
def sizeRows (d : Reg) (n : Nat) : List Nat :=
  match d with
  | .v r => (List.range (max 1 (n / 4))).map (r.val + ·)
  | .s _ => []
/-- The first check of a list that fails, by its subcode of cause 0x01 (R470). -/
def firstOwn : List (Bool × Nat) → Option (Nat × Nat)
  | [] => none
  | (true, sub) :: _ => some (1, sub)
  | (false, _) :: r => firstOwn r
/-- The ordering field holds acquire, or release (12 R337). -/
def hasAcq (ord : BitVec 2) : Bool := ord.getLsbD 0
def hasRel (ord : BitVec 2) : Bool := ord.getLsbD 1

/-- Checks of `ld` and `st`: pairs at even numbers, the ordering, quads at multiples of 4 (R445, R447). -/
def sizeOwn (base : Bool) (d : Reg) (n : Nat) (badOrd : Bool) : Option (Nat × Nat) :=
  let num := match d with
    | .v r => r.val
    | .s r => r.val
  let isV := !d.isS
  firstOwn [(base || (decide (n = 8) && isV && decide (num % 2 = 1)), 0x42), (badOrd, 0x47),
    (decide (n = 16) && decide (num % 4 ≠ 0), 0x49)]

/-- The operand of an address base (R446). -/
def baseOpnd (b : Src) : Opnd := ⟨b, true⟩

/-- One access of a lane: alignment, the uncommitted-task rule, translation, then the request (R448). -/
def laneGlobal (c : Ctx) (s : State) (va n : Nat) (kind : AKind) (m : MForm) (k : ReqKind) (dest : Dest) : LaneRes :=
  if va % n ≠ 0 then .trap s 0x0A 0 va
  else if kind == .write && uncommitted s c.g then .trap s 0x12 0 va
  else
    let acq := m.ord.getLsbD 0
    let rel := m.ord.getLsbD 1
    let mk (ia : Nat) (leaf : Leaf) (peer : Option Nat) (pol : Policy) : Req :=
      { id := 0, col := coreCol c.core, group := some c.key
        kind := match k with
          | .store d => .store (BitVec.ofNat 512 (d.toNat * 2 ^ (8 * (ia % 64))))
          | k => k
        line := ia / 64, mask := byteMask (ia % 64) n, policy := pol, scope := m.scope.getD .pkg, hint := m.hint
        acquire := acq, release := rel, dest := dest, leaf := leaf, peer := peer, launch := groupLaunch s c.g, tower := false }
    match laneXlate c s va n kind false false with
    | .ok s ia leaf _ => laneAccess c s (mk ia leaf none (policyOf s m.policy leaf ia (kind == .write)))
    | .peer s ia p _ => peerAccess c s va (mk ia ⟨0, 0, 3⟩ (some p) .wt)
    | x => xlateStop c va x

/-- `ld` (R453). -/
def execLd (c : Ctl) (size : LdSize) (m : MForm) (d : Reg) (base : Src) (off : BitVec 9) (s : State) : Out :=
  let n := ldBytes size
  let rows := sizeRows d n
  issue s
    { ctlSpec c with
      own := sizeOwn (baseOpnd base).odd d n (hasRel m.ord)
      srcs := [baseOpnd base]
      dst := match d with
        | .s r => .s r.val
        | .v _ => .none
      dstRows := rows
      charge := memCharge d.isS (sizeFactor n), cycles := memCycles d.isS (sizeFactor n) }
    (fun k s => afterAcquires k s (
      let s := if k.mask = 0 then s else updGroup s k.key (fun g => mapRows g rows)
      let dst : Nat → Dest := fun l => match d with
        | .v r => .lane r.val l n (ldSigned size)
        | .s r => .scalar r.val n (ldSigned size)
      memLoop k d.isS (dst 0).regs (fun s l =>
        let va := laneAddr k.g k.latch base off l
        counted k 0x80 (laneGlobal k s va n .read m .load (dst l))) (memLanes k d.isS) s))

/-- The data of a store in lane l (R454). (DEDUCED, log 73) -/
def storeData (g : Group) (d : Reg) (n l : Nat) : Nat :=
  match d with
  | .s r => if n = 16 then sreg g r.val + 2 ^ 64 * sreg g (r.val + 1) else sreg g r.val
  | .v r => packNat 32 (fun i => (laneOf (vreg g (r.val + i)) l).toNat) (max 1 (n / 4))

/-- `st` (R454); in scalar form when its data and its base are scalar (R449). -/
def execSt (c : Ctl) (size : StSize) (m : MForm) (d : Reg) (base : Src) (off : BitVec 9) (s : State) : Out :=
  let n := stBytes size
  let scalar := d.isS && base.isS
  let reads : List AReg := match d with
    | .s r => if n = 16 then [.s r.val, .s (r.val + 1)] else [.s r.val]
    | .v _ => (sizeRows d n).map .v
  issue s
    { ctlSpec c with
      own := sizeOwn (baseOpnd base).odd d n (hasAcq m.ord)
      srcs := [baseOpnd base], reads := reads
      charge := memCharge scalar (sizeFactor n), cycles := memCycles scalar (sizeFactor n) }
    (fun k s => afterAcquires k s (memLoop k scalar [] (fun s l =>
      let va := laneAddr k.g k.latch base off l
      let x := BitVec.ofNat 512 (storeData k.g d n l % 2 ^ (8 * n))
      counted k 0x81 (laneGlobal k s va n .write m (.store x) .none)) (memLanes k scalar) s))

/-- A request for lane l of an `ldq`'s entry is under way. -/
def askedLdq (s : State) (k q id l : Nat) : Bool :=
  s.reqs.any (fun r => r.group == some k && r.dest == .queue q id l) ||
  s.held.any (fun r => r.1.group == some k && r.1.dest == .queue q id l) ||
  s.rets.any (fun r => r.group == some k && r.dest == .queue q id l) ||
  s.peerOut.any (fun r => r.2.2.2.group == some k && r.2.2.2.dest == .queue q id l)

/-- The `ldq` of an interrupted instruction: its entry has the lane due and no request for it. -/
def openLdq (s : State) (g : Group) (k q l : Nat) : Option Nat :=
  ((queueAt g q).pending.find? (fun p => inMask p.2.1 l && !askedLdq s k q p.1 l)).map (·.1)

/-- Lanes below lo that a handler has skipped hold 0 in an interrupted `ldq`'s entry: none of them is due (DEDUCED, log 60). -/
def skipLdq (s : State) (k q lo : Nat) : State :=
  updGroup s k (fun g =>
    let x := queueAt g q
    setQueue g q { x with pending := x.pending.map (fun p =>
      (p.1, (laneList p.2.1).foldl (fun m l => if l < lo && !askedLdq s k q p.1 l then m &&& ~~~((1 : LaneMask) <<< l) else m) p.2.1,
        p.2.2)) })

/-- An `ldq` that stopped at its first lane leaves no entry (R455). -/
def undoLdq (s : State) (k q id : Nat) : State :=
  updGroup s k (fun g =>
    let x := queueAt g q
    setQueue g q { x with pending := x.pending.filter (fun p => p.1 != id) })

/-- `ldq` loads one new entry of a queue register (R455, 09 R254). -/
def execLdq (c : Ctl) (q : Fin 8) (m : MForm) (base : Src) (off : BitVec 9) (s : State) : Out :=
  let own (s : State) : Option (Nat × Nat) :=
    if (baseOpnd base).odd then some (1, 0x42)
    else if hasRel m.ord then some (1, 0x47)
    else match issueCtx s 0 false with
      | some k => if (queueAt k.g q.val).pipe then some (0x14, 0x02) else none
      | none => none
  let s := match issueCtx s c.pred.toNat c.neg with
    | some k => if k.r.start ≤ firstLane k.full then s else due (skipLdq s k.key q.val k.r.start) [.ldqLand]
    | none => s
  issue s
    { ctlSpec c with
      own := own s, srcs := [baseOpnd base]
      charge := memCharge false 1, cycles := memCycles false 1 }
    (fun k s => afterAcquires k s (
      if k.mask = 0 then .ok s
      else
        let x := queueAt k.g q.val
        let first := k.r.start ≤ firstLane k.full
        let have_ := if first then none else openLdq s k.g k.key q.val k.r.start
        if have_.isNone && 16 ≤ x.entries.length + x.pending.length then .brk s (.ldqRoom q.val) k.r.start
        else
          let id := have_.getD s.reqNo
          let s := if have_.isSome then s
            else { updGroup s k.key (fun g => setQueue g q.val { x with pending := x.pending ++ [(id, k.mask, 0)] }) with
              reqNo := s.reqNo + 1 }
          match memLoop k false [] (fun s l =>
              counted k 0x80 (laneGlobal k s (laneAddr k.g k.latch base off l) 4 .read m .load (.queue q.val id l)))
              (laneList k.mask) s with
          | .ok s => .ok (due s [.ldqLand])
          | .trap s t => .trap (if have_.isNone && t.lane = firstLane k.mask then undoLdq s k.key q.val id else s) t
          | .brk s w l => .brk (if have_.isNone && l = firstLane k.mask then undoLdq s k.key q.val id else s) w l
          | r => r))

/-- LDQ_LAND: a complete entry at the head of a queue register's outstanding `ldq`s is appended (R455). -/
def landQueues (g : Group) : Group :=
  (List.range 8).foldl (fun g q =>
    let x := queueAt g q
    let done := x.pending.takeWhile (fun p => p.2.1 == 0)
    if done.isEmpty then g
    else setQueue g q { x with entries := x.entries ++ done.map (·.2.2), pending := x.pending.drop done.length }) g

def execLdqLand (s : State) : Out :=
  .next { s with groups := s.groups.map (fun (e : Nat × Group) => (e.1, landQueues e.2)) }

/-! ### Atomics (R456-R459) -/

def atomType : AtomOp → Option IType
  | .add t | .min t | .max t | .and t | .or t | .xor t | .swap t => some t
  | _ => none
def atomBytes (op : AtomOp) : Nat := (atomType op).elim 4 (fun t => if tyWide t then 8 else 4)

def scopeCode : Scope → Nat
  | .grp => 1 | .blk => 2 | .twr => 3 | .pkg => 4 | .sys => 5

/-- The path carries an atomic operation at a scope (02 R45, R46; 04 R117). -/
def pathCarries (s : State) (r : RangeReg) (peer : Bool) (leaf : Leaf) (ia : Nat) (op : Option AtomOp) (sc : Scope) : Bool :=
  let pa := leaf.pa52 ia
  let basic := match op with
    | none | some (.add _) | some (.swap _) => true
    | _ => false
  let isFadd := match op with
    | some .faddF32 | some .faddBf16x2 => true
    | _ => false
  decide (scopeCode sc ≤ r.atsc) &&
  (if peer then op != some .faddBf16x2
   else if isHbm pa then !leaf.repl
   else if isHost pa then cxlMode s || basic
   else if isFabric pa then !isFadd
   else false)

/-- Policy, scope and hint of an atomic: a prefix memory group's, or POL of the leaf, `.pkg` and normal (R446). -/
def prefixM (pre : Option Pfx) (ord : BitVec 2) : MForm :=
  match pre with
  | some p =>
    if p.scope = 0 then ⟨ord, none, .normal, none⟩
    else
      ⟨ord, some (match p.scope.toNat with | 1 => .grp | 2 => .blk | 3 => .twr | 4 => .pkg | _ => .sys),
        match p.hint.toNat with | 0 => .normal | 1 => .evictFirst | 2 => .evictLast | _ => .noAllocate,
        if p.leaf then none else some (match p.policy.toNat with | 0 => .own | 1 => .wt | 2 => .sinv | _ => .winv)⟩
  | none => ⟨ord, none, .normal, none⟩

/-- One atomic of a lane (R448, R457). -/
def laneAtomic (c : Ctx) (s : State) (va n : Nat) (m : MForm) (op : Option AtomOp) (k : ReqKind) (dest : Dest) : LaneRes :=
  if va % n ≠ 0 then .trap s 0x0A 0 va
  else if uncommitted s c.g then .trap s 0x12 0 va
  else
    let sc := m.scope.getD .pkg
    let mk (ia : Nat) (leaf : Leaf) (peer : Option Nat) (pol : Policy) : Req :=
      { id := 0, col := coreCol c.core, group := some c.key, kind := k, line := ia / 64, mask := byteMask (ia % 64) n
        policy := pol, scope := sc, hint := m.hint, acquire := m.ord.getLsbD 0, release := m.ord.getLsbD 1, dest := dest
        leaf := leaf, peer := peer, launch := groupLaunch s c.g, tower := false }
    match laneXlate c s va n .write true false with
    | .ok s ia leaf r =>
      if pathCarries s r false leaf ia op sc then laneAccess c s (mk ia leaf none (policyOf s m.policy leaf ia false))
      else .trap s 0x11 0 va
    | .peer s ia p r =>
      if pathCarries s r true ⟨0, 0, 3⟩ ia op sc then peerAccess c s va (mk ia ⟨0, 0, 3⟩ (some p) .wt) else .trap s 0x11 0 va
    | x => xlateStop c va x

/-- `atom` and `cas` share their issue: registers, lanes and the old value's destination. -/
def runAtomic (c : Ctl) (t : Option IType) (ord : BitVec 2) (d : Option Reg) (addr : Src) (xs : List Src)
    (op : Option AtomOp) (kind : List Nat → ReqKind) (s : State) : Out :=
  let wide := t.elim false tyWide
  let n := if wide then 8 else 4
  let os := xs.map (fun x => (⟨x, wide⟩ : Opnd))
  let scalar := d.elim false Reg.isS
  let rows := d.elim [] (fun d => sizeRows d n)
  let dodd := match d with
    | some (.v r) => wide && r.val % 2 == 1
    | _ => false
  issue s
    { ctlSpec c with
      own := oddOwn ((baseOpnd addr).odd :: dodd :: os.map Opnd.odd)
      srcs := baseOpnd addr :: os
      dst := match d with
        | some (.s r) => .s r.val
        | _ => .none
      dstRows := rows
      charge := memCharge scalar (sizeFactor n), cycles := memCycles scalar (sizeFactor n) }
    (fun k s => afterAcquires k s (
      let s := if k.mask = 0 then s else updGroup s k.key (fun g => mapRows g rows)
      let sx := t.elim false IType.isSigned
      let dst : Nat → Dest := fun l => match d with
        | none => .none
        | some (.v r) => .lane r.val l n false
        | some (.s r) => .scalar r.val n sx
      let ops := baseOpnd addr :: os
      memLoop k scalar (dst 0).regs (fun s l =>
        let vs := opndVals k.g k.latch ops l
        counted k 0x82 (laneAtomic k s (v1 vs) n (prefixM k.pre ord) op (kind (vs.drop 1)) (dst l)))
        (memLanes k scalar) s))

def execAtom (c : Ctl) (op : AtomOp) (ord : BitVec 2) (d : Option Reg) (addr x : Src) (s : State) : Out :=
  runAtomic c (atomType op) ord d addr [x] (some op) (fun vs => .atomic op (v1 vs)) s

/-- `cas` (R458). -/
def execCas (c : Ctl) (t : IType) (ord : BitVec 2) (d : Reg) (addr cmp : Src) (w : Reg) (s : State) : Out :=
  runAtomic c (some t) ord (some d) addr [cmp, w.toSrc] none (fun vs => .cas (v1 vs) (v2 vs)) s

/-! ### Fences and cache control (R460, R467-R469) -/

/-- Group-level memory instructions allow some orderings and name p0 (R445, R470). -/
def groupOwn (c : Ctl) (badOrd : Bool) : Option (Nat × Nat) := firstOwn [(badOrd, 0x47), (!c.plain, 0x48)]

/-- Registers and queue entries that earlier loads of the group still await. -/
def loadsLate (g : Group) : Bool := !g.awaiting.isEmpty || g.queues.any (fun q => !q.pending.isEmpty)

/-- `fence` (R460): its release action, then its acquire action, then the wait; a sequential fence acquires again after the wait,
before any later access of its lane (11 R305). -/
def execFence (c : Ctl) (sc : Bool) (ord : BitVec 2) (scope : Option Scope) (s : State) : Out :=
  issue s { e := c.e, pred := 0, neg := false, own := groupOwn c (ord == 0 || (sc && ord != 3)) }
    (fun k s =>
      let wide := wideScope (scope.getD .pkg)
      let acq := ord.getLsbD 0
      let rel := ord.getLsbD 1
      if acq && (loadsLate k.g || !k.g.pendingOrd.isEmpty) then .brk s .order k.r.start
      else
        let col := coreCol k.core
        let s := if wide && rel then countPerf (releaseAction s col) k.core 0x61 1 else s
        let s := if wide && acq then countPerf (acquireAction s col) k.core 0x60 1 else s
        let s := if sc then countPerf s k.core 0x64 1 else s
        waitDrain k c.e s false (wide && rel) (wide && sc))

/-- `prf` (R467): dropped where it could not be served. -/
def execPrf (c : Ctl) (l2 : Bool) (m : MForm) (base : Src) (off : BitVec 9) (s : State) : Out :=
  issue s
    { ctlSpec c with
      own := firstOwn [((baseOpnd base).odd, 0x42), (m.ord != 0, 0x47)], srcs := [baseOpnd base]
      charge := memCharge false 1, cycles := memCycles false 1 }
    (fun k s => afterAcquires k s (memLoop k false [] (fun s l =>
      let va := laneAddr k.g k.latch base off l
      let slot := groupLaunch s k.g
      let (s, rs) := withRanges s slot
      let q := groupReq s k.key k.g false false false
      let drop : LaneRes := .ok (countPerf s k.core 0x85 1)
      match rangeXlate rs va 1 .read q.priv with
      | .trap _ _ => drop
      | .ok ia r =>
        if r.peer.isSome then drop
        else
          let o := match findLeaf s k.g.walked false q.tower ia with
            | some o => o
            | none => walkAll s ia (mreg s PTROOT) 0 5
          match pageCheck s { q with ia := ia } o with
          | .ok leaf =>
            let key := homeKey leaf (ia / 64) (colTower (coreCol k.core))
            let h := homeGet s leaf key
            if h.poison != 0 || rowDead s h.pa || isMgmt h.pa || (isHost h.pa && !cxlMode s) || (refuses s h.pa).isSome then drop
            else
              .ok (access s { id := 0, col := coreCol k.core, group := some k.key, kind := .prefetch l2, line := ia / 64
                              mask := byteMask (ia % 64) 1, policy := policyOf s m.policy leaf ia false
                              scope := m.scope.getD .pkg, hint := m.hint, acquire := false, release := false, dest := .none
                              leaf := leaf, peer := none, launch := slot, tower := false }).1
          | _ => drop) (laneList k.mask) s))

/-- Stream the lanes of a cache-control instruction that names lines; then wait (R468, R469). -/
def lineLoop (c : Ctl) (base : Src) (off : BitVec 9) (own : Option (Nat × Nat)) (act : Bool)
    (f : Ctx → State → Nat → Leaf → State) (s : State) : Out :=
  issue s
    { ctlSpec c with
      own := if (baseOpnd base).odd then some (1, 0x42) else own
      srcs := [baseOpnd base], charge := memCharge false 1, cycles := memCycles false 1 }
    (fun k s => afterAcquires k s (
      if !act then .ok s
      else
        match memLoop k false [] (fun s l =>
            let va := laneAddr k.g k.latch base off l
            match laneXlate k s va 1 .read false false with
            | .ok s ia leaf _ => .ok (f k s (ia / 64) leaf)
            | .peer s _ _ _ => .ok s
            | x => xlateStop k va x) (laneList k.mask) s with
        | .ok s => waitDrain k c.e s false false false
        | r => r))

/-- `inv` (R468): the first action of R311 on every U line or on the named ones. -/
def execInv (c : Ctl) (ord : BitVec 2) (scope : Option Scope) (t : CacheTarget) (s : State) : Out :=
  let wide := wideScope (scope.getD .pkg)
  match t with
  | .all => issue s { e := c.e, pred := 0, neg := false, own := groupOwn c (ord != 0) }
      (fun k s => afterAcquires k s (if wide then waitDrain k c.e (acquireAction s (coreCol k.core)) false false false else .ok s))
  | .line b o => lineLoop c b o (firstOwn [(ord != 0, 0x47)]) wide (fun k s line _ =>
      match l1Get s (coreCol k.core) line with
      | some x => if x.st == .u then dropU s (coreCol k.core) line x else s
      | none => s) s

/-- `flush.line` on the column's copy (R469). -/
def flushLine (col : Nat) (s : State) (line : Nat) (leaf : Leaf) : State :=
  match l1Get s col line with
  | none => s
  | some x =>
    match x.st with
    | .u => if x.dirty = 0 then s else l1Put (pushLine s col line leaf x.dirty x) col line { x with dirty := 0 }
    | .e | .m => l1Put (if x.dirty = 0 then s else sendHome s col line leaf x.dirty x) col line { x with st := .e, dirty := 0 }
    | .p => l1Drop (sendHome s col line leaf x.valid x) col line
    | .t => s

/-- `flush` (R469). -/
def execFlush (c : Ctl) (ord : BitVec 2) (scope : Option Scope) (t : FlushVar) (s : State) : Out :=
  let sc := scope.getD .pkg
  match t with
  | .all => issue s { e := c.e, pred := 0, neg := false, own := groupOwn c (ord != 0) }
      (fun k s => afterAcquires k s (if wideScope sc then waitDrain k c.e (releaseAction s (coreCol k.core)) false false false else .ok s))
  | .line b o => lineLoop c b o (firstOwn [(ord != 0, 0x47)]) true (fun k s line leaf => flushLine (coreCol k.core) s line leaf) s
  | .wbi b o => lineLoop c b o (firstOwn [(ord != 0, 0x47), (decide (scopeCode sc < 4), 0x4B)]) true (fun k s line leaf =>
      enqueue s { id := 0, col := coreCol k.core, group := some k.key, kind := .writeback true, line := line, mask := 1
                  policy := .wt, scope := sc, hint := .normal, acquire := false, release := false, dest := .none
                  leaf := leaf, peer := none, launch := groupLaunch s k.g, tower := false }) s

/-! ### Typed-buffer access (R461-R464) -/

def modeBytes : BufMode → Nat
  | .w | .idx | .t32 => 4 | .b | .t8 => 1 | .h | .t16 => 2 | .d => 8
/-- Bytes from one lane's address to the next (R461). -/
def modeStep : BufMode → Nat
  | .w => 4 | .idx => 0 | .b => 1 | .h => 2 | .d => 8 | .t8 => 64 | .t16 => 128 | .t32 => 256

/-- Block-relative address of lane l (R461). -/
def bufAddr (g : Group) (latch : List Row) (mode : BufMode) (base : Src) (k : BitVec 10) (l : Nat) : Nat :=
  (⟨base, false⟩ : Opnd).val g latch l % 2 ^ 32 + 4 * k.toNat + modeStep mode * l

/-- Cycles of a typed-buffer access (R464). -/
def bufCycles (mode : BufMode) (f : Buf) (n : Nat) : Nat :=
  let transposed := match mode with
    | .t8 | .t16 | .t32 => true
    | _ => false
  if mode == .idx || (transposed && (f == .cbuf || f == .gbuf)) then max 1 (ceilDiv n 4)
  else max 1 (ceilDiv n 16) * (if mode == .d then 2 else 1)

/-- The distinct 64-byte segments the lanes of a mask touch, each charged at class 5 (R464). -/
def bufSegments (g : Group) (latch : List Row) (mode : BufMode) (base : Src) (k : BitVec 10) (m : LaneMask) : Nat :=
  ((laneList m).map (fun l => bufAddr g latch mode base k l / 64)).eraseDups.length

/-- The common part of `lbuf` and `sbuf`. -/
def bufSpec (s : State) (c : Ctl) (mode : BufMode) (f : Buf) (base : Src) (k : BitVec 10) : Spec :=
  { ctlSpec c with
    srcs := [⟨base, false⟩]
    charge := fun core n =>
      if n = 0 then 0
      else match issueCtx s c.pred.toNat c.neg with
        | some x => weight core 5 * bufSegments x.g [] mode base k x.mask
        | none => 0
    cycles := bufCycles mode f }

/-- `lbuf` (R461). -/
def execLbuf (c : Ctl) (mode : BufMode) (f : Buf) (d : Fin 384) (base : Src) (k : BitVec 10) (s : State) : Out :=
  let n := modeBytes mode
  let dst := DestReg.v d.val (mode == .d)
  issue s { bufSpec s c mode f base k with own := oddOwn [dst.odd], dst := dst }
    (fun x s =>
      let s := countPerf s x.core 0x84 1
      let s := if x.mask = 0 then s else updGroup s x.key (fun g => mapRows g dst.rows)
      memLoop x false [] (fun s l =>
        let a := bufAddr x.g x.latch mode base k l
        match bufCheck s x f a n false with
        | some (cause, sub, addr) => .trap s cause sub addr
        | none =>
          let v := (ctxBlk s x).elim 0 (fun b => bufRead b f a n)
          .ok (updGroup s x.key (fun g => writeDest g (.lane d.val l (if n = 8 then 8 else 4) false) v)))
        (laneList x.mask) s)

/-- `sbuf` (R461). -/
def execSbuf (c : Ctl) (mode : BufMode) (f : Buf) (base data : Src) (k : BitVec 10) (s : State) : Out :=
  let n := modeBytes mode
  let wide := mode == .d
  let od : Opnd := ⟨data, wide⟩
  let sp := bufSpec s c mode f base k
  issue s { sp with own := oddOwn [od.odd], srcs := [⟨base, false⟩, od] }
    (fun x s =>
      let s := countPerf s x.core 0x84 1
      let latch := x.latch.drop (⟨base, false⟩ : Opnd).pops.length
      memLoop x false [] (fun s l =>
        let a := bufAddr x.g x.latch mode base k l
        match bufCheck s x f a n true with
        | some (cause, sub, addr) => .trap s cause sub addr
        | none => .ok (updBlock s x.g.block (fun b => bufWrite b f a n (od.val x.g latch l))))
        (laneList x.mask) s)

/-! ### Owner bits (R465, R466) -/

/-- The chunks of an owner-bit instruction, or the trap of R465. -/
def ownerChunks (s : State) (k : Ctx) (f : Buf) (first n : Nat) : Sum TrapInfo (List Nat) :=
  let cs := (List.range n).map (first + ·)
  match ctxBlk s k with
  | none => .inl (k.trapFirst 0x09 (bufCode f) (512 * first))
  | some b =>
    match cs.find? (fun c => decide (declared b f ≤ c)) with
    | some c => .inl (k.trapFirst 0x09 (bufCode f) (512 * c))
    | none => .inr cs

/-- `own` hands chunks to the engine side (R465). -/
def execOwn (c : Ctl) (f : Buf) (sf : Fin 128) (cnt : BitVec 10) (s : State) : Out :=
  issue s { e := c.e, pred := 0, neg := false, own := groupOwn c false, reads := [.s sf.val] }
    (fun k s =>
      match ownerChunks s k f (sreg k.g sf.val % 2 ^ 16) (cnt.toNat + 1) with
      | .inl t => .trap s t
      | .inr cs =>
        match blockOf s k.g.block with
        | none => .ok s
        | some b =>
          match cs.find? (fun ch => (ownerOf b f ch).isSome) with
          | some ch => .trap s (k.trapFirst 0x08 (bufCode f) (512 * ch))
          | none => .ok (setBlock s k.g.block (cs.foldl (fun b ch => setOwner b f ch 0) b)))

/-- `owt` reads owner bits (R466). -/
def execOwt (c : Ctl) (f : Buf) (d sf : Fin 128) (cnt : BitVec 10) (s : State) : Out :=
  issue s
    { e := c.e, pred := 0, neg := false, reads := [.s sf.val], dst := .s d.val
      own := if !c.plain then some (1, 0x48) else if 64 ≤ cnt.toNat then some (1, 0x4A) else none }
    (fun k s =>
      match ownerChunks s k f (sreg k.g sf.val % 2 ^ 16) (cnt.toNat + 1) with
      | .inl t => .trap s t
      | .inr cs =>
        let v := (blockOf s k.g.block).elim 0 (fun b =>
          packNat 1 (fun i => bit (match cs[i]? with
            | some ch => (ownerOf b f ch).isSome
            | none => false)) 64)
        let s := updGroup s k.key (fun g => setSreg g d.val v)
        .ok (acquireChunks s k.g.block (coreCol k.core) f cs))

/-! ### Returns (R452) -/

/-- LOAD_RETURN: the oldest return is written to its destination; poisoned data give its launch a machine-check
(01 R31); an acquire's action precedes what follows it (R451). -/
def execLoadReturn (s : State) : Out :=
  match s.rets with
  | [] => .next s
  | r :: rest =>
    let s := { s with rets := rest }
    match r.group with
    | none =>
      -- a peer's answer to a BTE request or a queue engine (R106)
      let r' := if r.value.isNone then machineCheck s r.launch else s
      (match r.dest with
        | .bte c i => .next (due (setBtes r' c ((btesOf r' c).map (fun b =>
            if b.id = i then { b with stall := none, answer := r.value } else b)))
            (if ((btesOf r' c).find? (fun b => b.id == i)).elim false (fun b => b.phase == 1) then [.scatterBumpReturn c i]
              else [.bteTransactionIssue c]))
        | .engine k =>
          .next (if (engineOf r' k).waiting = some (6000 + r.id) then
            due (updEngine r' k (fun e => if r.value.isNone then { e.dropReturn with waiting := none } else { e with waiting := none, answer := r.value })) [.tileClaim (k / 12) (k % 12), .stealAttempt (k / 12) (k % 12)]
          else r')
        | _ => .next s)
    | some k =>
      match groupOf s k with
      | none => .next s
      | some g =>
        match r.value with
        | none => .next (machineCheck s r.launch)
        | some v =>
          let stale : Bool := match r.dest with
            | .parcel va => g.status != .broken (.walk va)
            | d => !(g.awaiting.any (fun a => a.2 == r.id)) && !d.regs.isEmpty
          if stale then .next s
          else
            let s := if r.acquire && wideScope r.scope then acquireAction s r.col else s
            let s := updGroup s k (fun g => { writeDest g r.dest v with
              awaiting := g.awaiting.filter (fun a => a.2 != r.id)
              pendingOrd := g.pendingOrd.filter (· != r.id) })
            let s := match r.dest with
              | .queue _ _ _ => due s [.ldqLand]
              | .parcel _ => wakeGroup s k
              | _ => s
            .next s

end Sys2Proof.Machine
end

