-- ==== Sys2Proof/Machine/Matrix.lean ====
section
/-! DEFINITION. The matrix unit: `mma`, its execution by k-blocks and row groups, checkpoints, and `mmov`
(spec/17_isa_matrix_engines.md R472-R485, spec/13 R388-R390). -/

namespace Sys2Proof.Machine

/-! ### Element formats in the matrix unit (13 R374) -/

/-- The format reads scales. -/
def mmaScaled : EFmt → Bool
  | .mx8e4 | .mx8e5 | .vf4 | .h4 => true
  | _ => false
/-- Element width in half bytes. -/
def halfBytes (f : EFmt) : Nat := efWidth f / 4
def efCode : EFmt → Nat
  | .e4m3 => 0 | .e5m2 => 1 | .mx8e4 => 2 | .mx8e5 => 3 | .vf4 => 4 | .h4 => 5 | .bf16 => 6 | .f16 => 7

/-! ### Operand descriptors (R473-R475) -/

def dAddr (lo : Nat) : Nat := field lo 18 0
def dStride (lo : Nat) : Nat := field lo 47 32
def dTrans (lo : Nat) : Bool := lo.testBit 21
def dBuf (lo : Nat) : Buf := if field lo 20 19 = 0 then .wbuf else .abuf
def dScl (hi : Nat) : Nat := field hi 18 0
def dBnd (hi : Nat) : Nat := field hi 50 32

/-- Half-byte address of element k of operand row r (R474). -/
def elemHalf (f : EFmt) (lo r k : Nat) : Nat :=
  if dTrans lo then 2 * (dAddr lo + k * dStride lo) + r * halfBytes f
  else 2 * (dAddr lo + r * dStride lo) + k * halfBytes f
def scaleAddr (f : EFmt) (lo hi r kb : Nat) : Nat := dScl hi + r * dStride lo / (2 * halfBytes f) + 2 * kb
def bandAddr (f : EFmt) (lo hi r : Nat) : Nat := dBnd hi + 2 * (r * dStride lo / (2048 * halfBytes f))

/-- The bytes an `mma` reads through a descriptor for some operand rows: starts and lengths, none across a chunk. -/
def descBytes (f : EFmt) (lo hi : Nat) (rows : List Nat) : List (Nat × Nat) :=
  let elems :=
    if dTrans lo then
      (List.range (mmaK f)).flatMap (fun k => rows.map (fun r => (elemHalf f lo r k / 2, max 1 (halfBytes f / 2))))
    else rows.map (fun r => (elemHalf f lo r 0 / 2, 64))
  let scales :=
    if mmaScaled f then
      rows.flatMap (fun r => (bandAddr f lo hi r, 2) :: (List.range (mmaK f / 8)).map (fun kb => (scaleAddr f lo hi r kb, 2)))
    else []
  elems ++ scales

/-- The least of a list of numbers, if any. -/
def leastOf : List Nat → Option Nat
  | [] => none
  | x :: xs => some (xs.foldl min x)

/-- The checks of R475: cause, subcode and address of the first that fails. (DESIGN CHOICE, log 26) -/
def descCheck (b : Block) (f : EFmt) (lo hi : Nat) (rows : List Nat) : Option (Nat × Nat × Nat) :=
  let sc := mmaScaled f
  if field lo 63 48 != 0 || field lo 31 22 != 0 || decide (field lo 20 19 ≥ 2) ||
      (sc && (field hi 63 51 != 0 || field hi 31 19 != 0)) then some (1, 0x51, 0)
  else if dAddr lo % 64 != 0 || dStride lo == 0 || dStride lo % 64 != 0 ||
      (sc && (dScl hi % 2 == 1 || dBnd hi % 2 == 1)) then some (1, 0x53, 0)
  else if dTrans lo && sc then some (1, 0x52, 0)
  else
    let buf := dBuf lo
    let bytes := descBytes f lo hi rows
    let size := 512 * declared b buf
    match leastOf (bytes.filterMap (fun (x : Nat × Nat) => if size < x.1 + x.2 then some (max x.1 size) else none)) with
    | some a => some (9, bufCode buf, a)
    | none =>
      match leastOf (bytes.filterMap (fun (x : Nat × Nat) => if (ownerOf b buf (x.1 / 512)).isSome then some x.1 else none)) with
      | some a => some (8, bufCode buf, a)
      | none => none

/-! ### The sum of one k-block (13 R388, R389) -/

def elemNum (b : Block) (f : EFmt) (lo r k : Nat) : Num :=
  let h := elemHalf f lo r k
  let c := bufRead b (dBuf lo) (h / 2) (max 1 (halfBytes f / 2))
  efDec f (if halfBytes f = 1 then c / 16 ^ (h % 2) % 16 else c)

/-- The exact scaled sum of products of one k-block. -/
def kbSum (b : Block) (m : MCtx) (i n kb : Nat) : Num :=
  let a := m.a0.toNat
  let c := m.b0.toNat
  let prod (e : Nat) : Num := (numMul (elemNum b m.fmt a i (8 * kb + e)) (elemNum b m.fmt c n (8 * kb + e))).1
  let p := [1, 2, 3, 4, 5, 6, 7].foldl (fun x e => (numAdd false x (prod e)).1) (prod 0)
  if mmaScaled m.fmt then
    let sc (lo hi r : Nat) : Num := decUE8M7 (bufRead b (dBuf lo) (scaleAddr m.fmt lo hi r kb) 2)
    let bd (lo hi r : Nat) : Num := decFmt fmtB16 (bufRead b (dBuf lo) (bandAddr m.fmt lo hi r) 2)
    let ah := m.a1.toNat
    let ch := m.b1.toNat
    [sc a ah i, sc c ch n, bd a ah i, bd c ch n].foldl (fun x y => (numMul x y).1) p
  else p

/-- acc after a k-block: each rounding to nearest even in binary32. -/
def kbAcc (acc : Nat) (s : Num) : Nat :=
  encFmt fmt32 (roundF fmt32 0 0 (numAdd false (decFmt fmt32 acc) (roundF fmt32 0 0 s).1).1).1

/-- One k-block of the rows of a row group: each element of the rows of the mask (17 R476, R479). -/
def kbRows (b : Block) (m : MCtx) (width rg kb : Nat) : Block :=
  let rows := (List.range 16).map (16 * rg + ·) |>.filter (fun i => inMask m.mask i && decide (i < width))
  rows.foldl (fun b i =>
    foldUpto (fun b n =>
      let addr := m.acc.toNat + 256 * i + 4 * n
      let c := if m.z && kb == 0 then 0 else bufRead b .cbuf addr 4
      bufWrite b .cbuf addr 4 (kbAcc c (kbSum b m i n kb))) b 64) b

/-! ### The unit's queue (R477, R478) -/

/-- The accumulator chunks of an `mma` of a group of a width. -/
def accChunks (m : MCtx) (width : Nat) : List Nat :=
  (List.range ((m.acc.toNat + 256 * width - 1) / 512 + 1 - m.acc.toNat / 512)).map (m.acc.toNat / 512 + ·)

/-- The group has an `mma` in the unit. -/
def mmaInFlight (g : Group) : Bool := g.mctx.elim false (fun m => m.state != 3)

/-- Put a group's `mma` into the unit: its accumulator chunks go to the engine side (R477). -/
def enterUnit (s : State) (k : Nat) (m : MCtx) : State :=
  match groupOf s k with
  | none => s
  | some g =>
    let s := setGroup s k { g with mctx := some { m with state := 1, part := 0 } }
    let s := updBlock s g.block (fun b => (accChunks m g.width).foldl (fun b c =>
      if (ownerOf b .cbuf c).isSome then b else setOwner b .cbuf c 1) b)
    updCore s (keyCore k) (fun c => { c with mmas := c.mmas ++ [k] })

/-- An `mma` leaves the unit: its chunks that no later one waits for return (R478). -/
def leaveUnit (s : State) (k : Nat) (ctx : Option MCtx) : State :=
  match groupOf s k with
  | none => updCore s (keyCore k) (fun c => { c with mmas := c.mmas.filter (· != k) })
  | some g =>
    match g.mctx with
    | none => s
    | some m =>
      let rest := (coreOf s (keyCore k)).mmas.filter (· != k)
      let wanted := rest.flatMap (fun j => match groupOf s j with
        | some h => if h.block = g.block then (h.mctx.elim [] (fun x => accChunks x h.width)) else []
        | none => [])
      let s := updCore s (keyCore k) (fun c => { c with mmas := rest })
      let s := setGroup s k { g with mctx := ctx }
      updBlock s g.block (fun b => (accChunks m g.width).foldl (fun b c =>
        if wanted.contains c then b else returnChunk b .cbuf c false) b)

/-- The rows of the k-blocks completed since the last write reach cbuf (R478, R481). -/
def writeRows (s : State) (k : Nat) : State :=
  match groupOf s k with
  | none => s
  | some g =>
    match g.mctx with
    | none => s
    | some m =>
      let b (b : Block) : Block := foldUpto (fun b rg =>
        let lo := (m.written[rg]?).getD 0
        foldUpto (fun b i => kbRows b m g.width rg (lo + i)) b ((m.done[rg]?).getD 0 - lo)) b 4
      setGroup (updBlock s g.block b) k { g with mctx := some { m with written := m.done } }

/-- Stop an `mma` at a k-block boundary, where it stands, with its progress recorded (R481). (DEDUCED, log 21) -/
def checkpointMma (s : State) (k : Nat) : State :=
  match (groupOf s k).bind (·.mctx) with
  | none => s
  | some m =>
    if m.state = 3 then s
    else
      let s := writeRows s k
      let m := ((groupOf s k).bind (·.mctx)).getD m
      countPerf (leaveUnit s k (some { m with state := 3, part := 0 })) (keyCore k) 0x93 1

/-- Reissue a checkpointed `mma` (R483). -/
def reissueMma (s : State) (k : Nat) : State :=
  match (groupOf s k).bind (·.mctx) with
  | some m => if m.state = 3 then enterUnit (countPerf s (keyCore k) 0x93 1) k m else s
  | none => s

/-- MMA_COMPLETE: the executing `mma` has done its last busy cycle; its rows are written and its accumulator chunks return
(R478). -/
def execMmaComplete (core : Nat) (s : State) : Out :=
  match (coreOf s core).mmas with
  | [] => .next s
  | k :: _ =>
    .next (if ((groupOf s k).bind (·.mctx)).elim true (fun m => (nextRowGroup m).isNone) then leaveUnit (writeRows s k) k none else s)

/-! ### `mma` (R476, R477) -/

def execMma (c : Ctl) (z : Bool) (f : EFmt) (acc : Fin 128) (a b : Fin 64) (s : State) : Out :=
  let regs := [acc.val, 2 * a.val, 2 * b.val] ++ (if mmaScaled f then [2 * a.val + 1, 2 * b.val + 1] else [])
  issue s { ctlSpec c with reads := regs.map .s }
    (fun x s =>
      let g := x.g
      let core := coreOf s x.core
      if x.mask = 0 then .ok s
      else if mmaInFlight g || decide (core.mmas.length ≥ 4) then .brk s .matrix x.r.start
      else if refused s x.core g (weight core (mmaClass f)) then .brk s .budget x.r.start
      else
        let d := sreg g acc.val
        let b0 := sreg g (2 * a.val)
        let b1 := if mmaScaled f then sreg g (2 * a.val + 1) else 0
        let c0 := sreg g (2 * b.val)
        let c1 := if mmaScaled f then sreg g (2 * b.val + 1) else 0
        let size := (ctxBlk s x).elim 0 (fun b => 512 * b.shape.cbuf)
        if d ≥ 2 ^ 19 || d % 512 != 0 then .trap s (x.trapFirst 1 0x51 0)
        else if size < d + 256 * g.width then .trap s (x.trapFirst 9 2 size)
        else
          match ctxBlk s x with
          | none => .trap s (x.trapFirst 9 2 size)
          | some blk =>
            match descCheck blk f b0 b1 (laneList x.mask) with
            | some (cause, sub, addr) => .trap s (x.trapFirst cause sub addr)
            | none =>
              match descCheck blk f c0 c1 (List.range 64) with
              | some (cause, sub, addr) => .trap s (x.trapFirst cause sub addr)
              | none =>
                let skip (r : Nat) : Bool := (laneList x.mask).all (fun l => l / 16 != r)
                let none_ := (List.range 4).map (fun r => if skip r then mmaK f / 8 else 0)
                let m : MCtx := ⟨z, f, w64 d, w64 b0, w64 b1, w64 c0, w64 c1, x.mask, none_, none_, 0, 1,
                  g.handler.isSome || g.super⟩
                match (accChunks m g.width).find? (fun ch => (ownerOf blk .cbuf ch).elim false (· != 1)) with
                | some ch => .trap s (x.trapFirst 8 2 (512 * ch))
                | none => .ok (enterUnit (countPerf s x.core 0x90 1) x.key m))

/-! ### `mmov` (R484, R485) -/

/-- Address of lane l's first column. -/
def mmovAddr (g : Group) (base : Nat) (j l : Nat) : Nat := sreg g base % 2 ^ 19 + 256 * l + 4 * j

def execMmov (c : Ctl) (dir : MmovDir) (cnt : MmovCount) (base : Fin 128) (j0 : BitVec 6) (s : State) : Out :=
  let n := cnt.val
  let rows := (List.range n).map (dir.reg + ·)
  let isLd := match dir with
    | .ld _ => true
    | .st _ _ => false
  let words (g : Group) (l : Nat) : List Nat := (List.range n).map (fun i => mmovAddr g base.val j0.toNat l + 4 * i)
  issue s
    { ctlSpec c with
      own := if 64 < j0.toNat + n then some (1, 0x56) else none
      reads := .s base.val :: (if isLd then [] else rows.map .v)
      dstRows := if isLd then rows else []
      freeRows := match dir with
        | .st _ true => rows
        | _ => []
      charge := fun core m =>
        if m = 0 then 0
        else match issueCtx s c.pred.toNat c.neg with
          | some x => weight core 5 * (((laneList x.mask).flatMap (fun l => (words x.g l).map (· / 64))).eraseDups).length
          | none => 0
      cycles := fun m => n * max 1 (ceilDiv m 16) }
    (fun x s =>
      if x.mask = 0 then .ok s
      else if sreg x.g base.val % 2 ^ 19 % 4 ≠ 0 then .trap s (x.trapFirst 0x0A 0 (sreg x.g base.val % 2 ^ 19))
      else
        let all := (laneList x.mask).flatMap (words x.g)
        let held := (ctxBlk s x).elim none (fun b => all.find? (fun a => ownerOf b .cbuf (a / 512) == some 1))
        match held with
        | some a => .brk s (.chunks (a / 512) 1) x.r.start
        | none =>
          let s := if isLd then updGroup s x.key (fun g => mapRows g rows) else s
          memLoop x false [] (fun s l =>
            let a := mmovAddr x.g base.val j0.toNat l
            match ctxBlk s x with
            | none => .trap s 9 2 a
            | some b =>
              if 512 * b.shape.cbuf < a + 4 * n then .trap s 9 2 a
              else
                match (words x.g l).find? (fun w => (ownerOf b .cbuf (w / 512)).isSome) with
                | some w => .trap s 8 2 w
                | none =>
                  if isLd then
                    .ok (updGroup s x.key (fun g => foldUpto (fun g i =>
                      writeLanes g (dir.reg + i) (maskOf (· == l)) (fun _ => w32 (bufRead b .cbuf (a + 4 * i) 4))) g n))
                  else
                    .ok (updBlock s x.g.block (fun b => foldUpto (fun b i =>
                      bufWrite b .cbuf (a + 4 * i) 4 (laneOf (vreg x.g (dir.reg + i)) l).toNat) b n)))
            (laneList x.mask) s)

end Sys2Proof.Machine
end

