-- ==== Sys2Proof/Machine/Blocks.lean ====
section
/-! DEFINITION. Groups at their start, and the BTE requests of staging, kicks and stages: descriptors, their checks and
the extents they touch (spec/06 R167, R168; 09 R242-R250; 10 R276-R287). -/

namespace Sys2Proof.Machine

/-! ### Starting groups (09 R243, R250; 06 R168) -/

/-- A group as placement leaves it. -/
def freshGroup (block index width : Nat) (entry : Word64) (init : List Word64) (pipes : List Nat) (since : Nat) : Group where
  block := block
  index := index
  width := width
  lanes := List.replicate width ⟨entry, 0, true, 0⟩
  status := .ready
  run := none
  handler := none
  trap := Trap.zero
  trap2 := none
  sregs := foldUpto (fun m i => nset m i ((init[i]?).getD 0).toNat) [] init.length
  vregs := []
  preds := []
  queues := (List.range 8).map (fun q => ⟨[], [], pipes.contains q⟩)
  latch := []
  frnd := ⟨0, 0, 0, 0, 0⟩
  mctx := none
  waitRec := none
  awaiting := []
  pendingOrd := []
  refs := []
  exempt := 0
  yielded := false
  since := since
  parkFail := false
  walked := none
  parkHist := none
  paid := false
  super := false
  fetched := none
  parcels := []
  fetchFail := none
  peerWait := none

/-- The queue registers a gang member's groups have bound to pipes (06 R169, 09 R254). -/
def boundQueues (s : State) (b : Block) : List Nat :=
  (launchOf s b.launch).elim [] (fun l =>
    (l.pipes.filter (fun p => Nat.testBit p.2.2.1 b.member)).map (fun p => p.2.2.2.2))

/-- A block enters RUNNING: its groups start at the kernel entry (06 R168). A task's first instruction follows an acquire at
`.twr` (08 R214); a launch's follows the start of its command (11 R326), so the column acquires for it too.
(DEDUCED, log 34) -/
def enterRunning (s : State) (id : Nat) : State :=
  match blockOf s id with
  | none => s
  | some b =>
    match b.core with
    | none => s
    | some core =>
      let now := (coreOf s core).cycles
      let pipes := boundQueues s b
      -- a task waits for what its parent's `spawn` releases
      let status : GStatus := match b.after with
        | some (c, n, k) => if released s c n k then .ready else .broken (.release c n k)
        | none => .ready
      let s := b.slots.zipIdx.foldl (fun s (x : Nat × Nat) =>
        setGroup s (gkey core x.1) { freshGroup id x.2 b.shape.width (w64 b.shape.entry) b.init pipes now with status := status }) s
      let s := updBlock s id (fun b => { b with state := if (launchOf s b.launch).elim false (·.paused) then .stopping else .running })
      let s := match b.task with
        | some e =>
          let f := futOf s e
          if f.state == .queued then setFut s e { f with state := .running } else s
        | none => s
      acquireAction s (coreCol core)

/-! ### Storage formats (10 R284-R286) -/

/-- The storage unit U of a format. -/
def fmtUnit (f : Nat) : Option Nat :=
  match f with
  | 0 => some 64 | 1 => some 256 | 2 => some 128 | 3 => some 128 | 4 => some 64 | 5 => some 64
  | 6 => some 4224 | 7 => some 4224 | 8 => some 2624 | 9 => some 2624
  | _ => none

def fmtU (f : Nat) : Nat := (fmtUnit f).getD 64
/-- Element-plane bytes of a unit of a scaled format. -/
def elemBytes (f : Nat) : Nat := if f < 8 then 4096 else 2048
def descUnits (d : Desc) : Nat := d.size / fmtU d.fmt
/-- Offsets of the scale plane and of the band plane (R284). -/
def scaleOff (d : Desc) : Nat := descUnits d * elemBytes d.fmt
def bandOff (d : Desc) : Nat := scaleOff d + 1024 * descUnits d
/-- The expanded extent of a load, padding included (R284, R285). -/
def loadExtent (d : Desc) : Nat :=
  if d.fmt ≤ 5 then ceilDiv d.size 512 * 512 else bandOff d + ceilDiv (2 * descUnits d) 512 * 512
/-- Bytes of the residency mask (R289). -/
def maskBytes (d : Desc) : Nat :=
  if d.fmt = 0 then d.size / 32 else descUnits d * (if d.fmt ≤ 5 then 8 else 512)
/-- Row bytes and row count of a scatter. -/
def rowBytes (d : Desc) : Nat := d.size % 65536
def rowCount (d : Desc) : Nat := d.size / 65536

/-- The typed-buffer spans a request touches: buffer, offset, length (R282). -/
def descSpans (d : Desc) : List (Buf × Nat × Nat) :=
  match d.op with
  | 0 => (d.buf, d.boff, loadExtent d) :: (if d.zf then [(.gbuf, d.auxa, maskBytes d)] else [])
  | 1 => [(d.buf, d.boff, d.size)]
  | 2 => [(d.buf, d.boff, rowBytes d * rowCount d), (.gbuf, d.auxa, 2 * rowCount d), (.gbuf, d.auxb, 4 * rowCount d)]
  | _ => []

/-- The chunks of a span. -/
def spanChunks (x : Buf × Nat × Nat) : List (Buf × Nat) :=
  if x.2.2 = 0 then []
  else (List.range ((x.2.1 + x.2.2 - 1) / 512 + 1 - x.2.1 / 512)).map (fun i => (x.1, x.2.1 / 512 + i))

/-- The buffers an operation may use (R282). -/
def bufAllowed (op : Nat) (f : Buf) : Bool :=
  match op, f with
  | 0, .cbuf => false
  | 1, .wbuf => false
  | 2, .wbuf | 2, .cbuf => false
  | _, _ => true

/-- The checks of R280 on a request of a block. -/
def descOk (b : Block) (d : Desc) : Bool :=
  if d.op = 3 then decide (d.nchk % 65536 + d.nchk / 65536 % 65536 ≤ declared b d.buf)
  else
    (fmtUnit d.fmt).isSome && bufAllowed d.op d.buf && d.boff % 512 == 0 && d.auxa % 64 == 0 && d.auxb % 64 == 0 &&
    (if d.op = 2 then
      rowBytes d % 64 == 0 && decide (64 ≤ rowBytes d) && decide (rowBytes d ≤ 4096) && decide (1 ≤ rowCount d) &&
      decide (rowCount d ≤ 1024) && decide (1 ≤ d.nbins) && decide (d.nbins ≤ 65535)
    else
      d.size != 0 && d.size % fmtU d.fmt == 0 && decide (d.size ≤ 393216) && (d.stride == 0 || decide (fmtU d.fmt ≤ d.stride)) &&
      (d.op == 0 || decide (d.fmt ≤ 5))) &&
    (descSpans d).all (fun x => decide (x.2.1 + x.2.2 ≤ 512 * declared b x.1)) &&
    ((descSpans d).flatMap spanChunks).all (fun c => (ownerOf b c.1 c.2).isSome)

/-- A request descriptor from its 64 bytes; none when a field that needs no buffer is bad (R279, R280). -/
def parseDesc (x : Nat) : Option Desc :=
  let byte (i : Nat) : Nat := x / 2 ^ (8 * i) % 256
  let fld (o n : Nat) : Nat := x / 2 ^ (8 * o) % 2 ^ (8 * n)
  let op := byte 0
  let acc := byte 2
  let sc := field acc 4 2
  let nchk := fld 40 8
  if op > 3 || byte 1 > 1 || sc == 0 || sc > 5 || byte 3 > 9 || byte 4 > 3 || fld 5 3 != 0 || fld 48 16 != 0 ||
      (byte 1 == 1 && op != 0) || (op ≥ 2 && byte 3 != 0) || (op == 3 && nchk / 2 ^ 34 != 0) then none
  else
    some {
      op := op
      zf := byte 1 == 1
      policy := if acc.testBit 7 then some (match acc % 4 with | 0 => .own | 1 => .wt | 2 => .sinv | _ => .winv) else none
      scope := match sc with | 1 => .grp | 2 => .blk | 3 => .twr | 4 => .pkg | _ => .sys
      hint := match field acc 6 5 with | 0 => .normal | 1 => .evictFirst | 2 => .evictLast | _ => .noAllocate
      fmt := byte 3
      buf := match (if op = 3 then nchk / 2 ^ 32 % 4 else byte 4) with | 0 => .wbuf | 1 => .abuf | 2 => .cbuf | _ => .gbuf
      gaddr := fld 8 8, boff := fld 16 4, stride := fld 20 4, size := fld 24 4
      auxa := if op = 2 || byte 1 = 1 then fld 28 4 else 0
      auxb := if op = 2 then fld 32 4 else 0
      nbins := fld 36 4, nchk := nchk % 2 ^ 32 }

/-- A region or schedule entry as a load request: ZF 0, POL of the leaf, scope `.sys`, hint normal (03 R81). -/
def entryDesc (e : CopyEnt) : Desc :=
  { op := 0, zf := false, policy := none, scope := .sys, hint := .normal, fmt := e.fmt, buf := e.buf, gaddr := e.src
    boff := e.off, stride := e.stride, size := e.size, auxa := 0, auxb := 0, nbins := 0, nchk := 0 }

/-! ### Released requests (R276) -/

/-- The last place in the rotation of a core's requests (R276). -/
def nextTurn (s : State) (core : Nat) : Nat := (btesOf s core).foldl (fun n r => max n (r.turn + 1)) 0

/-- Add a checked request to a core's BTE, in release order: behind the kicks that await their fetch. -/
def addRequest (s : State) (core blk : Nat) (d : Desc) : State :=
  let r : BteReq :=
    { id := s.reqNo, block := blk, desc := d, next := 0, again := [], cur := 0, got := [], zeroed := []
      chunks := (List.range ((loadExtent d + 511) / 512)).map (d.boff / 512 + ·)
      stall := none, parks := [], walked := none, answer := none, row := 0, phase := 0, slot := 0, binBase := 0, results := []
      issued := 0, gate := (coreOf s core).kicks.length, turn := nextTurn s core }
  due { setBtes s core (btesOf s core ++ [r]) with reqNo := s.reqNo + 1 } [.bteTransactionIssue core]

/-- Destination chunks of entries go to the engine side (R273). -/
def takeChunks (b : Block) (ds : List Desc) : Block :=
  ((ds.flatMap descSpans).flatMap spanChunks).foldl (fun b c => if c.2 < declared b c.1 then setOwner b c.1 c.2 0 else b) b

/-- Release entries as requests, in order; one that fails a check is a request error (R280, R121). -/
def releaseEntries (s : State) (core blk : Nat) : List Desc → State
  | [] => s
  | d :: ds =>
    match blockOf s blk with
    | none => s
    | some b => if descOk b d then releaseEntries (addRequest s core blk d) core blk ds else failBlock s blk 1 0x32

/-- A block enters STAGING: its region entries are stage 0 (06 R168, 03 R82). -/
def enterStaging (s : State) (id : Nat) : State :=
  match blockOf s id with
  | none => s
  | some b =>
    match b.core with
    | none => s
    | some core =>
      let ds := if b.task.isSome then [] else ((kernelOf s b).elim [] (·.regions)).map entryDesc
      if ds.isEmpty then enterRunning s id
      else releaseEntries (setBlock s id { takeChunks b ds with state := .staging }) core id ds

/-- Requests of a block at any core's BTE. -/
def blockRequests (s : State) (blk : Nat) : List (Nat × BteReq) :=
  s.bte.flatMap (fun (e : Nat × List BteReq) => (e.2.filter (fun r => r.block == blk)).map (fun r => (e.1, r)))

/-- A staged block whose requests have all landed enters RUNNING (06 R168). -/
def checkStaged (s : State) (id : Nat) : State :=
  match blockOf s id with
  | some b => if b.state == .staging && (blockRequests s id).isEmpty then enterRunning s id else s
  | none => s

end Sys2Proof.Machine
end

