-- ==== Sys2Proof/Machine/Place.lean ====
section
/-! DEFINITION. Where blocks and tasks go: sensors as placement reads them, fit, the choice of a core, save slots,
reservation, a column's allotment, and the entries of cluster queue engines (spec/06 R163-R167, R172, R182; 07
R191-R194; 01 R17-R24). -/

namespace Sys2Proof.Machine

/-! ### Sensors (01 R19-R24) -/

/-- The larger VALUE of a core's two sensors. -/
def coreHeat (s : State) (core : Nat) : Int := max (sensorOf s .core (2 * core)).value (sensorOf s .core (2 * core + 1)).value

/-! ### Save slots (06 R182) -/

/-- The stack, package-wide, that a column saves to first. -/
def saveStack (col : Nat) : Nat := 4 * colTower col + col % 192 % 4
def partner (n : Nat) : Nat := n ^^^ 1
/-- SVBASE and SVCNT of a stack. (DESIGN CHOICE, log 76) -/
def svBase (s : State) (n : Nat) : Nat := mreg s (aDist (n / 4) (0x10 + 8 * (n % 4)))
def svCount (s : State) (n : Nat) : Nat := mreg s (aDist (n / 4) (0x30 + 4 * (n % 4))) % 256
/-- The lowest free save slot of a stack's pool. -/
def freeSaveSlot (s : State) (n : Nat) : Option Nat :=
  (List.range (svCount s n)).find? (fun i => (mget s.saves (n * 256 + i)).isNone)
/-- The slot a column's block saves to: of the named stack, or of its partner. -/
def saveSlotFor (s : State) (col : Nat) : Option Nat :=
  match freeSaveSlot s (saveStack col) with
  | some i => some (saveStack col * 256 + i)
  | none => (freeSaveSlot s (partner (saveStack col))).map (fun i => partner (saveStack col) * 256 + i)

/-! ### Fit (06 R165) -/

def bufCap : Buf → Nat
  | .wbuf => 768 | .abuf => 512 | .cbuf => 512 | .gbuf => 256
def shapeBuf (x : Shape) : Buf → Nat
  | .wbuf => x.wbuf | .abuf => x.abuf | .cbuf => x.cbuf | .gbuf => x.gbuf
def floorBytes (x : Shape) : Nat := x.groups * x.floor * x.width * 4

/-- Blocks with a migration's reservation on a core (07 R195). -/
def reservedHere (s : State) (core : Nat) : List (Block × List Nat) :=
  s.migs.filterMap (fun (m : Nat × Mig) => if m.2.target = core then (blockOf s m.2.block).map (fun b => (b, m.2.slots)) else none)

/-- Group slots of a core that are taken: by groups, by blocks whose groups are still to start or return, by
reservations. -/
def usedSlots (s : State) (core : Nat) : List Nat :=
  ((List.range 32).filter (fun i => (groupOf s (gkey core i)).isSome)) ++
  (resident s core).flatMap (fun (b : Nat × Block) => match b.2.state with
    | .reserved | .staging | .restoring => b.2.slots
    | _ => []) ++
  (reservedHere s core).flatMap (fun r => r.2)

/-- The lowest free group slots of a core, n of them when there are so many. -/
def freeSlots (s : State) (core n : Nat) : List Nat :=
  ((List.range 32).filter (fun i => !(usedSlots s core).contains i)).take n

/-- A layer is evacuated or evacuating (07 R206). -/
def evacuated (s : State) (core : Nat) : Bool := s.evac.contains (4 * colTower (coreCol core) + coreLayer core)

/-- Reference-list entries of a block's groups that are saved or in transfer. -/
def savedRefs (b : Block) : Nat := b.saved.foldl (fun n (g : Nat × Group) => n + g.2.refs.length) 0

/-- Reference-list entries in use in a column's pool: those of the groups on its cores, and those that a block takes with it which
returns or moves there (08 R219). -/
def poolUsed (s : State) (col : Nat) : Nat :=
  s.groups.foldl (fun n (g : Nat × Group) => if coreCol (keyCore g.1) = col then n + g.2.refs.length else n) 0 +
  (columnBlocks s col).foldl (fun n (b : Nat × Block) => n + savedRefs b.2) 0

/-- A block of a shape and pre-emption class fits a core (R165). -/
def fits (s : State) (core : Nat) (x : Shape) (cls : Nat) : Bool :=
  decide ((freeSlots s core x.groups).length = x.groups) &&
  decide (floorBytes x + (reservedHere s core).foldl (fun n r => n + floorBytes r.1.shape) 0 ≤ freeRowBytes s core) &&
  [Buf.wbuf, Buf.abuf, Buf.cbuf, Buf.gbuf].all (fun f =>
    decide (shapeBuf x f + (resident s core).foldl (fun n (b : Nat × Block) => n + shapeBuf b.2.shape f) 0 +
      (reservedHere s core).foldl (fun n r => n + shapeBuf r.1.shape f) 0 ≤ bufCap f)) &&
  !evacuated s core &&
  (decide (7 ≤ cls) || (saveSlotFor s (coreCol core)).isSome)

/-- Groups resident in a column: on its cores, and those that blocks placed there are still to start or to return (06 R166). -/
def columnGroups (s : State) (col : Nat) : Nat :=
  (s.groups.filter (fun (g : Nat × Group) => coreCol (keyCore g.1) == col && keySlot g.1 != 32)).length +
  (columnBlocks s col).foldl (fun n (b : Nat × Block) => match b.2.state with
    | .reserved | .staging | .restoring => n + b.2.slots.length
    | _ => n) 0

/-- The order of R166 between two cores. -/
def coreBefore (s : State) (a b : Nat) : Bool :=
  let ka := ((coreOf s a).clamp, columnGroups s (coreCol a))
  let kb := ((coreOf s b).clamp, columnGroups s (coreCol b))
  if ka.1 != kb.1 then kb.1
  else if ka.2 ≠ kb.2 then decide (ka.2 < kb.2)
  else if coreHeat s a ≠ coreHeat s b then decide (coreHeat s a < coreHeat s b)
  else decide (a < b)

/-- The core R166 chooses among columns for a block. -/
def chooseCore (s : State) (cols : List Nat) (x : Shape) (cls : Nat) : Option Nat :=
  bestBy (coreBefore s) ((cols.flatMap (fun c => [4 * c, 4 * c + 1, 4 * c + 2, 4 * c + 3])).filter (fun k => fits s k x cls))

def aAgst (a : Nat) : Nat := 0x53000 + 4 * a
/-- An agent's state: 0 ACTIVE, 1 LOST, 2 QUARANTINED (02 R47). -/
def agentState (s : State) (a : Nat) : Nat := field (mreg s (aAgst a)) 1 0

/-- Columns of a cluster, by engine key, that take part: one that is LOST or QUARANTINED is served no request (02 R47), so no block
goes there. (DEDUCED, log 121) -/
def engineCols (s : State) (k : Nat) : List Nat := ((List.range 16).map (16 * k + ·)).filter (fun c => agentState s c == 0)

/-! ### Reservation (06 R166, R167) -/

/-- A block whose state moved is counted at its launch's node. -/
def blockCls (s : State) (b : Block) : Nat := (kernelOf s b).elim 0 (·.cls)

/-- Reserve a core for a block: its slots, floor and chunks (R166). -/
def reserveCore (s : State) (id core : Nat) (st : BlockState) : State :=
  match blockOf s id with
  | none => s
  | some b =>
    let s := setBlock s id { b with
      state := st, core := some core, slots := freeSlots s core b.shape.groups, placed := s.entNo
      units := 0, refWins := 0, refNow := false, full := false, demand := 96 }
    allotColumn { s with entNo := s.entNo + 1 } (coreCol core)

/-- A new block. -/
def Block.new (launch index member : Nat) (x : Shape) (init : List Word64) : Block where
  launch := launch
  index := index
  member := member
  shape := x
  state := .queued
  core := none
  slots := []
  exited := 0
  bytes := []
  owner := []
  returned := []
  stage := 0
  kfet := 0
  barriers := List.replicate 8 ⟨0, 0, 0⟩
  task := none
  depth := 0
  priv := false
  saved := []
  after := none
  shares := []
  stolen := none
  init := init
  placed := 0
  moved := none
  units := 0
  refWins := 0
  refNow := false
  full := false
  demand := 96
  share := 0
  saveSlot := none
  check := 0
  spill := false
  recKicks := []

/-- Add a block, giving its identifier. -/
def addBlock (s : State) (b : Block) : State × Nat :=
  ({ s with blocks := mset s.blocks s.blockNo b, blockNo := s.blockNo + 1 }, s.blockNo)

/-! ### Engine entries (06 R163, R164, R173) -/

/-- Priority of a launch's entries. -/
def launchPrio (s : State) (slot : Nat) : Nat := (launchOf s slot).elim 0 (fun l => if l.handler then 7 else l.priority)

/-- Kind of a saved entry, which goes before the others of its priority. -/
def EntKind.isSaved : EntKind → Bool
  | .saved _ | .savedGang _ => true
  | _ => false

/-- The order in which an engine tries its entries: arrival order is list order (R164). -/
def engineOrder (l : List QEnt) : List QEnt :=
  sortBy (fun a b => decide (b.prio < a.prio) || (a.prio == b.prio && (a.kind.isSaved || !b.kind.isSaved))) l

/-- A gang placement in progress releases every reservation (R172, R173). -/
def releasePlacing (s : State) (k : Nat) : State :=
  match (engineOf s k).placing with
  | none => s
  | some p =>
    let s := p.reserved.foldl (fun s b =>
      match blockOf s b with
      | none => s
      | some x =>
        let s := updBlock s b (fun x => { x with core := none, slots := [] })
        let s := if x.saveSlot.isSome then updBlock s b (fun x => { x with state := .saved }) else { s with blocks := mdel s.blocks b }
        x.core.elim s (fun c => allotColumn s (coreCol c))) s
    updEngine s k (fun e => { e with placing := none })

/-- An entry reaches an engine: a higher priority rolls an incomplete gang placement back (R173). -/
def addEntry (s : State) (k launch : Nat) (kind : EntKind) (prio : Nat) : State :=
  let e := engineOf s k
  let s := match e.placing with
    | none => s
    | some p =>
      if e.entries.any (fun q => q.id == p.ent && decide (q.prio < prio)) then
        bump (releasePlacing s k) (aDist (k / 12) 0x98) 1
      else s
  let s := updEngine s k (fun e => { e with entries := e.entries ++ [⟨s.entNo, launch, kind, prio, false, false⟩] })
  due { s with entNo := s.entNo + 1 } [.blockPlace (k / 12) (k % 12)]

/-! ### Tasks placed (08 R213) -/

/-- A task starts on a core: it has no regions to stage (06 R168). -/
def startTask (s : State) (id core : Nat) : State := enterStaging (reserveCore s id core .reserved) id

end Sys2Proof.Machine
end

