-- ==== Sys2Proof/Machine/Ends.lean ====
section
/-! DEFINITION. How groups, blocks and tasks end: `exit`, block barriers, DONE, and the blocks of fault-handler launches
(spec/14 R414, 18 R506, 06 R167, R177, 08 R217, R224, 04 R127, 09 R244, R264). -/

namespace Sys2Proof.Machine

/-- A waiting group traps at its instruction; another group may hold the issue slot meanwhile. -/
def trapWaiting (s : State) (k : Nat) (t : TrapInfo) : State :=
  let holder := (coreOf s (keyCore k)).issuing
  let s := takeTrap s k t
  updCore s (keyCore k) (fun c => { c with issuing := holder.filter (fun h => h != keySlot k) })

/-! ### Fault-handler launches (04 R127) -/

/-- The tower's current handler launch. -/
def currentHandler (s : State) (t : Nat) : Option (Nat × Launch) :=
  (handlerSlots t).findSome? (fun i => match launchOf s i with
    | some l => if l.handler && l.current then some (i, l) else none
    | none => none)
/-- Handler blocks of a tower, in any state (R124 HANDLERS). -/
def handlerBlocks (s : State) (t : Nat) : Nat :=
  (s.blocks.filter (fun (b : Nat × Block) => (handlerSlots t).contains b.2.launch)).length +
  foldUpto (fun n j => n + (engineOf s (12 * t + j)).entries.foldl (fun n e => match e.kind with
    | .batch _ m => if (handlerSlots t).contains e.launch then n + m else n
    | _ => n) 0) 0 12
def maxHandlers (s : State) (t : Nat) : Nat := field (mreg s (aFault t 0x10)) 15 8

/-- The engine of a tower with the fewest pending blocks, ties to the lowest; none while it lacks `need` free entries (06 R160). -/
def leastEngine (s : State) (t need : Nat) : Option Nat :=
  (bestBy (fun a b => decide (engineBlocks s a < engineBlocks s b) || (engineBlocks s a == engineBlocks s b && decide (a < b)))
    ((List.range 12).map (12 * t + ·))).filter (fun k => decide ((engineOf s k).entries.length + need ≤ 1024))

/-- With records unconsumed and fewer than MAXH handler blocks running, one is added to the current launch (R127).
(DEDUCED, log 35) -/
def addHandler (s : State) (t : Nat) : State :=
  match currentHandler s t with
  | none => s
  | some (slot, l) =>
    if mreg s (aFault t 0x14) = mreg s (aFault t 0x18) || maxHandlers s t ≤ handlerBlocks s t then s
    else
      match leastEngine s t 1 with
      | none => s
      | some k =>
        let s := updLaunch s slot (fun l => { l with dealt := (l.dealt + 1) % 2 ^ 24 })
        addEntry (treeAdd s slot (nodeCluster k) 1) k slot (.batch l.dealt 1) 7

/-- Count the cycles a group spent broken on allocation or waiting (R266, R495, R519; 16 R469). -/
def countWait (s : State) (k : Nat) (g : Group) : State :=
  let core := keyCore k
  let n := (coreOf s core).cycles - g.since
  match g.status with
  | .broken (.rows _) => countPerf s core 0x16 n
  | .waiting (.fget _) => countPerf s core 0x44 n
  | .waiting (.xwait _ _) => countPerf s core 0x95 n
  | .waiting .bar => countPerf s core 0xA1 n
  | .waiting .barx => countPerf s core 0xA3 n
  | .waiting .push => countPerf s core 0xA5 n
  | .waiting (.sleep _) => countPerf s core 0x26 n
  | .waiting (.drain _ false rel _) =>
    if liveMask g = 0 then s else countPerf (if rel then countPerf s core 0x62 n else s) core 0x83 n
  | _ => s

/-! ### Block barriers (18 R506) -/

/-- The barrier's instance is released when all it counts have arrived. -/
def barrierTest (b : Block) (i : Nat) : Block :=
  match b.barriers[i]? with
  | none => b
  | some x =>
    let n := popCount x.arrived 16
    if n ≠ 0 && n = (if x.count = 0 then b.shape.groups - b.exited else x.count) then
      { b with barriers := lset b.barriers i { x with gen := (x.gen + 1) % 256, arrived := 0 } }
    else b

/-! ### DONE (06 R167) -/

/-- The members of a block's gang instance, itself among them. -/
def instanceBlocks (s : State) (b : Block) : List (Nat × Block) :=
  s.blocks.filter (fun (x : Nat × Block) => x.2.launch == b.launch && x.2.index == b.index && x.2.task.isNone && x.2.stolen.isNone)

/-- A group's identifier of the launch's block is a gang member's. -/
def isGang (s : State) (b : Block) : Bool := (launchOf s b.launch).elim false (·.gang)

/-- Waiting producers of a gang instance try again: room appeared, or a consumer is DONE (09 R256, 18 R508). -/
def wakePushes (s : State) (launch index : Nat) : State :=
  let ks := s.groups.filterMap (fun (e : Nat × Group) =>
    match e.2.waitRec, blockOf s e.2.block with
    | some (.push _ _ _ _ w), some b => if b.launch = launch && b.index = index && w ≠ 0 then some e.1 else none
    | _, _ => none)
  due s (ks.map (fun k => Instr.pushAccept (keyCore k) (keySlot k)))

/-- A block leaves its core DONE: its gang instance's storage goes when every member is DONE; its item leaves the tree
(06 R170, R171, R177); a bound launch's engine stores state done (08 R233). -/
def blockGone (s : State) (id : Nat) : State :=
  match blockOf s id with
  | none => s
  | some b =>
    let col := b.core.elim 0 coreCol
    let s := clearVictim (freeSave (cancelMig (releaseCore s id) id) id) id
    let s := match (launchOf s b.launch).bind (·.bind) with
      | some d =>
        if b.index < d.count && b.stolen.isNone && b.task.isNone then
          due (updEngine s (colEngine col) (fun e => { e with
            stores := e.stores ++ [(b.launch, d.tiles + 16 * b.index, 2 * 2 ^ 62 + Config.packageId % 256 * 2 ^ 48 + b.index)] }))
            [.tileClaim (colTower col) (colEngine col % 12)]
        else s
      | none => s
    let s :=
      if b.stolen.isSome then
        due (updBlock s id (fun b => { b with state := .done, stolen := b.stolen.map (fun x => { x with col := col }) })) [.stolenBlockDone id]
      else
        let s := treeSub s b.launch (nodeColumn col) 1
        if isGang s b && b.task.isNone then
          let s := updBlock s id (fun b => { b with state := .done })
          let inst := instanceBlocks s b
          if inst.all (fun (x : Nat × Block) => x.2.state == .done) &&
              inst.length = (launchOf s b.launch).elim 0 (fun l => l.kernels.length) then
            inst.foldl (fun s (x : Nat × Block) => dropBlock s x.1) s
          else wakePushes s b.launch b.index
        else dropBlock s id
    match launchOf s b.launch with
    | some l =>
      if l.handler then addHandler (handlerGone s b.launch) (colTower col) else s
    | none => s

/-- A task's entry at its exit (08 R217, R224). -/
def taskExit (s : State) (id e : Nat) : State :=
  let f := futOf s e
  match f.state with
  | .doomed => reclaimIf s id
  | .committed =>
    if f.count = 0 then blockGone (bump (freeFut s e) (aTask (colTower (e / 1024)) 0x30) 1) id
    else blockGone (setFut s e { f with state := .done }) id
  | .running => blockGone (setFut s e { f with state := .done }) id
  | _ => blockGone s id

/-- A block whose groups have all exited, with no request or kick left, is DONE (14 R414). -/
def checkDone (s : State) (id : Nat) : State :=
  match blockOf s id with
  | none => s
  | some b =>
    let kicked := b.core.elim false (fun c => (coreOf s c).kicks.any (fun e => e.2.1 == id)) || !b.recKicks.isEmpty
    let busy := match b.state with
      | .running | .stopping => false
      | _ => true
    if b.exited < b.shape.groups || busy || kicked || !(blockRequests s id).isEmpty then s
    else
      match b.task with
      | some e => taskExit s id e
      | none => blockGone s id

/-- Everything a group issued has completed (14 R414). -/
def exitReady (s : State) (k : Nat) (g : Group) : Bool :=
  !outstanding s (some (coreCol (keyCore k))) s.reqNo && !bankPending s (some k) && !mmaInFlight g

/-- The group's task is doomed. -/
def doomedTask (s : State) (g : Group) : Bool :=
  (blockOf s g.block).elim false (fun b =>
    b.task.elim false (fun e => (futOf s e).state == .doomed && (futOf s e).task == g.block))

/-- A group enters EXITED: its slot, rows and queues are freed, its references released, its block's barriers tested
(09 R244, 08 R219, R228; 18 R506); a supervisor's exit finishes the frozen group's launch (09 R264). -/
def groupExit (s : State) (k : Nat) : State :=
  match groupOf s k with
  | none => s
  | some g =>
    if g.super then
      let core := keyCore k
      let s := match (coreOf s core).serves.bind (groupOf s) with
        | some f => failBlock s f.block 1 0
        | none => s
      let s := updCore (dropGroup s k) core (fun c => { c with serves := none })
      if (coreOf s core).frozen.isEmpty then s else due s [.supervisorStart core]
    else if doomedTask s g then
      -- the exit of a doomed task is its reclamation point (08 R225)
      reclaimIf (updGroup s k (fun g => { g with status := .ready, run := none })) g.block
    else
      let s := releaseRefs s g.refs
      let s := dropGroup s k
      let s := updBlock s g.block (fun b =>
        foldUpto barrierTest { b with exited := b.exited + 1 } 8)
      checkDone (placeAgain s (keyCore k)) g.block

/-- A group with no live lane left exits, at once or when what it issued has completed. -/
def tryExit (s : State) (k : Nat) : State :=
  match groupOf s k with
  | none => s
  | some g =>
    if exitReady s k g then groupExit s k
    else updGroup s k (fun g => { g with status := .waiting (.drain s.reqNo false false false), run := none })

/-- `exit` (14 R414). -/
def execExit (c : Ctl) (s : State) : Out :=
  issue s { ctlSpec c with transfer := true } (fun x s =>
    let g := mapLanes x.g (fun l y =>
      if inMask x.mask l then { y with live := false } else if inMask x.r.active l then { y with pc := x.next } else y)
    let s := countPerf (countPerf s x.core 0x19 (releases g)) x.core 0x24 (laneCount x.mask)
    let s := setGroup s x.key (releaseHeld g)
    -- a task's exit releases at .twr (08 R214)
    let task := !g.super && (blockOf s g.block).elim false (fun b => b.task.isSome)
    let s := if task && liveMask g = 0 then releaseAction s (coreCol x.core) else s
    let s := complete s x.key x.next true true 1 [] []
    .gone (match groupOf s x.key with
      | none => s
      | some g =>
        if liveMask g = 0 then tryExit s x.key
        else
          match g.handler with
          | some h => if pool g = 0 then updGroup s x.key (fun g => endHandler g h) else s
          | none => s))

/-- `eret` (18 R511, 09 R261). -/
def execEret (c : Ctl) (s : State) : Out :=
  issue s { e := c.e, pred := 0, neg := false, transfer := true, own := if !c.plain then some (1, 0x60) else none }
    (fun x s =>
      match x.g.handler with
      | none => .trap s (x.trapActive 1 0x71 0)
      | some h =>
        let h := { h with returned := h.returned ||| x.r.active }
        let s := complete (setGroup s x.key { x.g with handler := some h }) x.key x.next true true 1 [] []
        .gone (match groupOf s x.key with
          | some g => if pool g = 0 then updGroup s x.key (fun g => endHandler g h) else s
          | none => s))

/-! ### Stopped groups (06 R181) -/

/-- A group has stopped where its block may be saved: at a run boundary, nothing of its own on its way, its `mma` not
executing (R181, 17 R481). (DEDUCED, log 80) -/
def groupStopped (s : State) (spill : Bool) (k : Nat) (g : Group) : Bool :=
  (atBoundary g || (spill && rowsShort' g)) && g.awaiting.isEmpty &&
  g.queues.all (fun q => q.pending.isEmpty) && (g.mctx.elim true (fun m => m.state != 2)) &&
  !s.reqs.any (fun r => r.group == some k) && !s.held.any (fun x => x.1.group == some k) && !s.rets.any (fun r => r.group == some k) &&
  !s.peerOut.any (fun p => p.2.2.2.group == some k) && !s.arrivals.any (fun a => a.who == .group k) &&
  !s.bankCmds.any (fun b => b.group == some k)
where
  rowsShort' (g : Group) : Bool := match g.status with
    | .broken (.rows _) => true
    | _ => false

/-- Group slots of a block that still hold its groups. -/
def blockGroups (s : State) (b : Block) (id : Nat) : List (Nat × Group) :=
  b.core.elim [] (fun c => b.slots.filterMap (fun sl => match groupOf s (gkey c sl) with
    | some g => if g.block = id then some (gkey c sl, g) else none
    | none => none))

end Sys2Proof.Machine
end

