-- ==== Sys2Proof/Machine/Tasks.lean ====
section
/-! DEFINITION. Tasks, futures, reclamation and `trap` (spec/18_isa_tasks_system.md R500-R505, R510; 08 R210-R228). -/

namespace Sys2Proof.Machine

/-- A group-level instruction's guard must be p0 (R498, R520). -/
def groupLevel (c : Ctl) : Option (Nat × Nat) := if c.plain then none else some (1, 0x60)

/-- A waiting instruction is the first of its run and ends it (R498). -/
def waitingOwn (c : Ctl) (count : Nat) (guarded : Bool) : Option (Nat × Nat) :=
  if guarded && !c.plain then some (1, 0x60) else if count ≠ 0 || !c.e then some (1, 0x62) else none

/-- Instructions executed so far in the run of the issuing group. -/
def runCount (s : State) : Nat := (issueCtx s 0 false).elim 0 (fun x => x.r.count)

/-! ### Handles (R501, R218, R220) -/

/-- The list entry of a handle in a group. -/
def refOf (g : Group) (h : Nat) : Option Nat := (g.refs.find? (fun r => r.1 == h)).map (·.2)

/-- A group can add a list entry (08 R219). -/
def listRoom (s : State) (k : Nat) (g : Group) : Bool :=
  decide (g.refs.length < 511) && decide (poolUsed s (coreCol (keyCore k)) < 4096)

/-- The subcode with which a handle fails the first two checks of R501, or none. -/
def handleFault (s : State) (h : Nat) : Option Nat :=
  if h / 2 ^ 31 = 0 || h % 4 ≠ 0 || 191 < field h 29 22 || field h 5 2 = 0 then some 0x06
  else
    let f := futOf s (handleEntry h)
    if f.state == .free || f.tag ≠ field h 11 6 || f.depth ≠ field h 5 2 then some 0x01 else none

/-- A task reads its own handle (R220). -/
def ownHandle (s : State) (g : Group) (h : Nat) : Bool :=
  !g.super && (blockOf s g.block).elim false (fun b => b.task == some (handleEntry h))

/-- One more reference, in COUNT and list (08 R219). -/
def addRef (g : Group) (h : Nat) : Group :=
  match refOf g h with
  | some _ => { g with refs := g.refs.map (fun r => if r.1 = h then (h, r.2 + 1) else r) }
  | none => { g with refs := g.refs ++ [(h, 1)] }

/-- One reference fewer. -/
def subRef (g : Group) (h : Nat) : Group :=
  { g with refs := g.refs.filterMap (fun r => if r.1 = h then (if r.2 ≤ 1 then none else some (h, r.2 - 1)) else some r) }

/-! ### spawn (R500) -/

/-- The shape a task descriptor asks for; none when it breaks a limit of 08 R210. -/
def parseTask (x width : Nat) : Option Shape :=
  let fld (o n : Nat) : Nat := x / 2 ^ (8 * o) % 2 ^ (8 * n)
  let t : Shape := ⟨fld 0 8, fld 8 2, fld 10 2, fld 12 2, fld 14 2, fld 16 2, fld 18 2, 1, width⟩
  if t.entry % 4 != 0 || t.floor == 0 || decide (t.floor > 384) || decide (t.peak < t.floor) || decide (t.peak > 384) ||
      decide (t.peak * width * 4 > 393216) || decide (t.wbuf > 768) || decide (t.abuf > 512) || decide (t.cbuf > 512) ||
      decide (t.gbuf > 256) || fld 20 12 != 0 then none
  else some t

/-- Depth of a group: its task's, or 0 (08 R212). -/
def depthOf (s : State) (g : Group) : Nat := if g.super then 0 else (blockOf s g.block).elim 0 (·.depth)

/-- The lowest FREE entry of a column's future table (08 R213). -/
def freeFuture (s : State) (col : Nat) : Option Nat :=
  (List.range 1024).find? (fun e => (futOf s (col * 1024 + e)).state == .free)

/-- The handle of a new task (08 R215). -/
def makeHandle (col e tag depth : Nat) : Nat :=
  2 ^ 31 + col / 192 * 2 ^ 30 + col % 192 * 2 ^ 22 + e * 2 ^ 12 + tag * 2 ^ 6 + depth * 4

/-- Create the task of a checked descriptor, or return 0 (R500, 08 R211-R214). -/
def doSpawn (x : Ctx) (s : State) (t : Shape) (d : Nat) (v0 v1 : Nat) : State :=
  let col := coreCol x.core
  let tw := colTower col
  let launch := groupLaunch s x.g
  match freeFuture s col with
  | none => bump (countPerf (updGroup s x.key (fun g => setSreg g d 0)) x.core 0x41 1) (aTask tw 0x10) 1
  | some e =>
    if depthOf s x.g = 8 || !listRoom s x.key x.g then
      bump (countPerf (updGroup s x.key (fun g => setSreg g d 0)) x.core 0x41 1) (aTask tw 0x10) 1
    else
      let k := col * 1024 + e
      let depth := depthOf s x.g + 1
      let h := makeHandle col e (futOf s k).tag depth
      let parent := blockOf s x.g.block
      let b := { Block.new launch (parent.elim 0 (·.index)) (parent.elim 0 (·.member)) t [w64 v0, w64 v1, w64 h] with
        task := some k, depth := depth, priv := privileged s x.g }
      let (s, id) := addBlock s b
      let s := setFut s k ⟨.queued, 1, (futOf s k).tag, 0, depth, id⟩
      let s := updGroup s x.key (fun g => addRef (setSreg g d h) h)
      let s := releaseAction s col
      let s := updBlock s id (fun b => { b with after := some (col, s.reqNo, x.key) })
      let s := match chooseCore s [col] t (parent.elim 0 (blockCls s)) with
        | some core => startTask (treeAdd s launch (nodeColumn col) 1) id core
        | none => addEntry (treeAdd s launch (nodeCluster (colEngine col)) 1) (colEngine col) launch (.task id) (launchPrio s launch)
      bump (countPerf s x.core 0x40 1) (aTask tw 0x08) 1

/-- Check the descriptor that was read, and spawn (R500). -/
def spawnWith (x : Ctx) (s : State) (v d v0 v1 : Nat) : Res :=
  let s := updGroup s x.key (fun g => { g with fetched := none })
  let may := !x.g.super && ((blockOf s x.g.block).bind (kernelOf s)).elim false (·.maySpawn)
  match if may then parseTask v x.g.width else none with
  | none => .trap s (x.trapActive 1 0x21 0)
  | some t => .ok (doSpawn x s t d v0 v1)

def execSpawn (c : Ctl) (d a v0 v1 : Fin 128) (s : State) : Out :=
  issue s { e := c.e, pred := 0, neg := false, own := groupLevel c, reads := [.s a.val, .s v0.val, .s v1.val], dst := .s d.val }
    (fun x s =>
      let va := sreg x.g a.val
      let x' := { x with mask := x.r.active, full := x.r.active }
      -- the descriptor read, made once (16 R448)
      match x.g.fetched with
      | none =>
        (match afterAcquires x s (memLoop x' true [] (fun s _ =>
            laneGlobal x' s va 32 .read ⟨0, some .pkg, .normal, none⟩ .load (.desc d.val)) [0] s) with
          | .ok s => (match (groupOf s x.key).bind (·.fetched) with
            | none => .brk s (.operand [.s d.val]) x.r.start
            | some v => spawnWith x s v d.val (sreg x.g v0.val) (sreg x.g v1.val))
          | r => r)
      | some v => spawnWith x s v d.val (sreg x.g v0.val) (sreg x.g v1.val))

/-! ### Consumers (R501-R503) -/

/-- An instruction on a handle in a scalar register, after the checks of R501 that all share. -/
def onHandle (s : State) (spec : Spec) (h : Fin 128) (own : Group → State → Nat → Option Nat)
    (act : Ctx → State → Nat → Res) : Out :=
  issue s { spec with reads := [.s h.val] } (fun x s =>
    let v := sreg x.g h.val % 2 ^ 32
    match handleFault s v with
    | some sub => .trap s (x.trapActive 0x13 sub 0)
    | none =>
      match own x.g s v with
      | some sub => .trap s (x.trapActive 0x13 sub 0)
      | none => act x s v)

/-- `fget` (R502). -/
def execFget (c : Ctl) (d h : Fin 128) (s : State) : Out :=
  onHandle s { e := c.e, pred := 0, neg := false, own := waitingOwn c (runCount s) true, dst := .s d.val } h
    (fun g s v => if ownHandle s g v then some 0x05 else none)
    (fun x s v =>
      let f := futOf s (handleEntry v)
      if f.state == .done then
        .ok (acquireAction (updGroup s x.key (fun g => setSreg g d.val f.result.toNat)) (coreCol x.core))
      else .wait s (.fget v))

/-- `fpoll` (R502). -/
def execFpoll (c : Ctl) (d h : Fin 128) (s : State) : Out :=
  onHandle s { e := c.e, pred := 0, neg := false, own := groupLevel c, dst := .s d.val } h
    (fun g s v => if ownHandle s g v then some 0x05 else none)
    (fun x s v =>
      if (futOf s (handleEntry v)).state == .done then
        .ok (acquireAction (updGroup s x.key (fun g => setSreg g d.val 1)) (coreCol x.core))
      else .ok (updGroup s x.key (fun g => setSreg g d.val 0)))

/-- `fret` (R503). -/
def execFret (c : Ctl) (h : Fin 128) (s : State) : Out :=
  onHandle s { e := c.e, pred := 0, neg := false, own := groupLevel c } h
    (fun g s v =>
      if (futOf s (handleEntry v)).count ≥ 65535 then some 0x03
      else if (refOf g v).isNone && !listRoom s ((issueCtx s 0 false).elim 0 (·.key)) g then some 0x04 else none)
    (fun x s v =>
      let k := handleEntry v
      let s := setFut s k { futOf s k with count := (futOf s k).count + 1 }
      .ok (countPerf (updGroup s x.key (fun g => addRef g v)) x.core 0xA0 1))

/-- `frel` (R503). -/
def execFrel (c : Ctl) (h : Fin 128) (s : State) : Out :=
  onHandle s { e := c.e, pred := 0, neg := false, own := groupLevel c } h
    (fun g _ v => if (refOf g v).isNone then some 0x02 else none)
    (fun x s v =>
      .ok (futSub (countPerf (updGroup s x.key (fun g => subRef g v)) x.core 0xA0 1) (handleEntry v) 1))

/-! ### The group's own entry (R504) -/

/-- The entry of the issuing group's task; it is freed when another task or none has it. -/
def ownEntry (s : State) (g : Group) : Option (Nat × Bool) :=
  if g.super then none
  else
    (blockOf s g.block).bind (fun b => b.task.map (fun e => (e, (futOf s e).state != .free && (futOf s e).task == g.block)))

/-- `fset` (R504). -/
def execFset (c : Ctl) (v : Fin 128) (s : State) : Out :=
  issue s { e := c.e, pred := 0, neg := false, own := groupLevel c, reads := [.s v.val] } (fun x s =>
    match ownEntry s x.g with
    | none => .trap s (x.trapActive 0x13 0x07 0)
    | some (_, false) => .trap s (x.trapActive 0x13 0x01 0)
    | some (e, true) => .ok (setFut s e { futOf s e with result := w64 (sreg x.g v.val) }))

/-- A doomed task stops at this instruction and goes to its Goat (08 R225). -/
def reclaimHere (x : Ctx) (s : State) : Res :=
  let s := leaveSlot (updGroup s x.key (fun g => { g with run := none })) x.key .ready
  .gone (reclaimIf s x.g.block)

/-- `commit` (R504, 08 R217, R224). -/
def execCommit (c : Ctl) (s : State) : Out :=
  issue s { e := c.e, pred := 0, neg := false, own := groupLevel c } (fun x s =>
    match ownEntry s x.g with
    | none => .ok s
    | some (_, false) => .trap s (x.trapActive 0x13 0x01 0)
    | some (e, true) =>
      match (futOf s e).state with
      | .running => .ok (setFut s e { futOf s e with state := .committed })
      | .doomed => reclaimHere x s
      | _ => .ok s)

/-- `rclm` (R504, 08 R225). -/
def execRclm (c : Ctl) (s : State) : Out :=
  issue s { e := c.e, pred := 0, neg := false, own := groupLevel c } (fun x s =>
    match ownEntry s x.g with
    | some (e, true) => if (futOf s e).state == .doomed then reclaimHere x s else .ok s
    | _ => .ok s)

/-! ### The Goat (08 R226, R227) -/

/-- Children doomed by a release of references, for CASCADE. -/
def doomedBy (s : State) (refs : List (Nat × Nat)) : Nat :=
  (refs.filter (fun (r : Nat × Nat) =>
    let f := futOf s (handleEntry r.1)
    f.tag == field r.1 11 6 && decide (f.count ≤ r.2) && (f.state == .queued || f.state == .running))).length

/-- Chunks a task held, for PERF 0x43. -/
def shapeChunks (x : Shape) : Nat := x.wbuf + x.abuf + x.cbuf + x.gbuf

/-- An engine entry of a task, queued or saved. -/
def entOfTask (id : Nat) (q : QEnt) : Bool := q.kind == EntKind.task id || q.kind == EntKind.saved id

/-- A response is due to a BTE request of a launch that is gone (R226). -/
def strayOut (s : State) (launch : Nat) : Bool :=
  bteOut s (fun w l => l == launch && (match w with
    | .bte c i _ => !(btesOf s c).any (·.id == i)
    | _ => false))

/-- R226 steps 1 and 2: the task's group stops, its `mma` is abandoned, its kicks and requests are dropped. What it holds stays its
own until every response has been discarded. -/
def goatStop (s : State) (col id : Nat) (b : Block) : State :=
  let kicks := b.core.elim [] (fun c => (coreOf s c).kicks.filter (fun e => e.2.1 == id))
  let s := bump s (aTask (colTower col) 0x28) (kicks.length + (blockRequests s id).length)
  let s := match b.core with
    | none => s
    | some c =>
      let s := match taskGroup s b, b.slots.head? with
        | some g, some sl =>
          let s := countWait s (gkey c sl) g
          updBlock (dropGroup s (gkey c sl)) id (fun b => { b with saved := [(0, g)] })
        | _, _ => s
      let s := countPerf (countPerf s c 0x42 1) c 0x43 (shapeChunks b.shape)
      dropKicks s c (fun e => e.2.1 == id)
  updBlock (dropRequests s id) id (fun b => { b with state := .done })

/-- The task that a column's reclamation engine turns to: the first waiting for it, or one that has come to a run boundary DOOMED
(R225). -/
def goatNext (s : State) (col : Nat) : Option Nat :=
  match mgetD s.goats col [] with
  | id :: _ => some id
  | [] => ((columnBlocks s col).find? (fun (b : Nat × Block) => b.2.state == .running &&
      b.2.task.elim false (fun e => (futOf s e).state == .doomed && (futOf s e).task == b.1) &&
      (taskGroup s b.2).elim false atBoundary && !s.migs.any (fun (m : Nat × Mig) => m.2.block == b.1))).map (·.1)

/-- A column whose reclamation engine can go on. -/
def goatWork (s : State) : Option Instr :=
  ((s.goats.map (·.1) ++ s.blocks.filterMap (fun (b : Nat × Block) => if b.2.task.isSome then b.2.core.map coreCol else none)).eraseDups.find?
    (fun col => (goatNext s col).elim false (fun id => (blockOf s id).elim true (fun b =>
      b.state != .done || !strayOut s b.launch)))).map (fun col => Instr.goatReclaim col)

/-- GOAT_RECLAIM: the column's engine reclaims the first task waiting for it (R226): it stops the task, and when no response is due
frees what it held. -/
def execGoatReclaim (col : Nat) (s : State) : Out :=
  match goatNext s col with
  | none => .next s
  | some id =>
    let rest := (mgetD s.goats col []).drop 1
    let tw := colTower col
    match blockOf s id with
    | none => .next { s with goats := if rest.isEmpty then mdel s.goats col else mset s.goats col rest }
    | some b =>
      let s := if b.state == .done then s else goatStop s col id b
      let b := (blockOf s id).getD b
      if strayOut s b.launch then .next { s with goats := mset s.goats col (id :: rest) }
      else
      let s := { s with goats := if rest.isEmpty then mdel s.goats col else mset s.goats col rest }
      let s := if rest.isEmpty then s else due s [.goatReclaim col]
      let refs := (b.saved.head?).elim [] (·.2.refs)
      -- an entry still at its engine leaves it
      let node := b.core.elim (nodeCluster (colEngine col)) (fun c => nodeColumn (coreCol c))
      let holder := s.engines.find? (fun (e : Nat × Engine) => e.2.entries.any (entOfTask id))
      let node := match holder with
        | some (k, _) => nodeCluster k
        | none => node
      let s := { s with engines := s.engines.map (fun (e : Nat × Engine) => (e.1, { e.2 with
        entries := e.2.entries.filter (fun q => !entOfTask id q) })) }
      let moved := s.transit.find? (fun (e : Nat × Nat × QEnt) => entOfTask id e.2.2)
      let node := match moved with
        | some (k, _, _) => nodeCluster k
        | none => node
      let s := { s with transit := s.transit.filter (fun (e : Nat × Nat × QEnt) => !entOfTask id e.2.2) }
      let launch := b.launch
      let s := updBlock s id (fun b => { b with task := none, owner := [] })
      let s := dropBlock s id
      let s := releaseRefs (bump s (aTask tw 0x20) (doomedBy s refs)) refs
      let s := match b.task with
        | some e => bump (freeFut s e) (aTask (colTower (e / 1024)) 0x18) 1
        | none => s
      .next (treeSub s launch node 1)

/-! ### trap (R510) -/

def execTrap (c : Ctl) (code : BitVec 12) (s : State) : Out :=
  issue s (ctlSpec c) (fun x s =>
    if x.mask = 0 then .ok s else .trap (countPerf s x.core 0xA6 1) (x.trapFirst 1 0x70 code.toNat))

end Sys2Proof.Machine
end

