-- ==== Sys2Proof/Machine/Bte.lean ====
section
/-! DEFINITION. The block-transfer engine: kicks and stages, transactions, landing, scatters, and the instructions that
feed and await it (spec/10_typed_buffers_and_transfer_engine.md R276-R292, spec/17 R486-R489, spec/04 R121, R132). -/

namespace Sys2Proof.Machine

/-! ### A request's transactions (R276, R286, R287) -/

/-- Requests a BTE works on at once. (DEDUCED, log 24) -/
def bteSlots : Nat := 16

def updReq (s : State) (core id : Nat) (f : BteReq → BteReq) : State :=
  setBtes s core ((btesOf s core).map (fun r => if r.id = id then f r else r))
def reqOf (s : State) (core id : Nat) : Option BteReq := (btesOf s core).find? (fun r => r.id == id)

/-- Virtual address of storage unit u. -/
def unitVa (d : Desc) (u : Nat) : Nat :=
  (d.gaddr + u * (if d.stride = 0 then fmtU d.fmt else d.stride)) % 2 ^ 64

/-- Bytes of a unit of n bytes that piece j covers, a transaction each: the unit is cut at 64-byte lines (R276). -/
def pieceStart (va j : Nat) : Nat := if j = 0 then 0 else 64 * j - va % 64
def pieceEnd (va n j : Nat) : Nat := min n (64 * (j + 1) - va % 64)

/-- The transaction after one, by its code unit · 4,096 + piece. -/
def nextTx (d : Desc) (t : Nat) : Nat :=
  let u := t / 4096
  if fmtU d.fmt ≤ pieceEnd (unitVa d u) (fmtU d.fmt) (t % 4096) then (u + 1) * 4096 else t + 1
/-- All transactions of a load or store have been issued. -/
def txEnd (d : Desc) (t : Nat) : Bool := decide (descUnits d ≤ t / 4096)

/-! ### Bytes of the canonical layout (R284-R286) -/

/-- Byte o of unit u, as read. -/
def unitByte (r : BteReq) (u o : Nat) : Nat :=
  let va := unitVa r.desc u
  let j := (va % 64 + o) / 64
  nget r.got (u * 4096 + j) / 2 ^ (8 * (o - pieceStart va j)) % 256

def unit16 (r : BteReq) (u o : Nat) : Nat := unitByte r u o + 256 * unitByte r u (o + 1)

/-- Bytes of scale codes of row i, block j of a unit: its place in the unit (R286). -/
def scaleByte (f i j : Nat) : Nat := if f < 8 then 4096 + 2 * i + j / 4 else 2048 + 8 * i + j

/-- Byte a of the destination extent of a load. -/
def destByte (r : BteReq) (a : Nat) : Nat :=
  let d := r.desc
  if d.fmt ≤ 5 then (if a < d.size then unitByte r (a / fmtU d.fmt) (a % fmtU d.fmt) else 0)
  else if a < scaleOff d then unitByte r (a / elemBytes d.fmt) (a % elemBytes d.fmt)
  else if a < bandOff d then
    let b := a - scaleOff d
    let row := b / 16
    let code := unitByte r (row / 64) (scaleByte d.fmt (row % 64) (b % 16 / 2))
    let v := if d.fmt < 8 then ue8m7OfE8m0 code else ue8m7OfE3m5 code
    v / 2 ^ (8 * (b % 2)) % 256
  else
    let b := a - bandOff d
    if descUnits d ≤ b / 2 then 0
    else (if d.fmt < 8 then 0x3F80 else unit16 r (b / 2) 2560) / 2 ^ (8 * (b % 2)) % 256

/-- The destination bytes that bytes [x, y) of unit u feed: offsets and ends. -/
def feeds (d : Desc) (u x y : Nat) : List (Nat × Nat) :=
  if d.fmt ≤ 5 then [(u * fmtU d.fmt + x, u * fmtU d.fmt + y)]
  else
    let e := elemBytes d.fmt
    let per := if d.fmt < 8 then 2 else 8
    let sx := max x e - e
    let sy := min (max y e - e) (64 * per)
    (if x < e then [(u * e + x, u * e + min y e)] else []) ++
    (if sx < sy then [(scaleOff d + 16 * (64 * u + sx / per), scaleOff d + 16 * (64 * u + (sy - 1) / per + 1))] else []) ++
    (if 8 ≤ d.fmt && decide (2560 < y) && decide (x < 2562) then [(bandOff d + 2 * u, bandOff d + 2 * u + 2)] else [])

/-- A transaction feeds a chunk of the destination. -/
def txFeeds (d : Desc) (t c : Nat) : Bool :=
  let u := t / 4096
  let va := unitVa d u
  (feeds d u (pieceStart va (t % 4096)) (pieceEnd va (fmtU d.fmt) (t % 4096))).any (fun p =>
    decide (p.1 / 512 ≤ c - d.boff / 512) && decide (c - d.boff / 512 ≤ (p.2 - 1) / 512))

/-- A destination chunk has all its bytes: nothing that feeds it is still to be read. -/
def chunkReady (r : BteReq) (c : Nat) : Bool :=
  r.desc.op == 0 && r.chunks.contains c && txEnd r.desc r.next &&
  !(r.stall.isSome && txFeeds r.desc r.cur c) &&
  r.again.all (fun t => !txFeeds r.desc t c) && r.parks.all (fun p => !txFeeds r.desc p.1 c)

/-! ### Residency (R289) -/

/-- A storage byte was not read as zero. -/
def resByte (r : BteReq) (u o : Nat) : Bool :=
  let a := u * fmtU r.desc.fmt + o
  !r.zeroed.any (fun z => decide (z.1 ≤ a) && decide (a < z.1 + z.2))

/-- Residency bit i of the mask. -/
def resBit (r : BteReq) (i : Nat) : Bool :=
  let d := r.desc
  if d.fmt = 0 then (List.range 4).all (fun k => resByte r (4 * i / 64) ((4 * i + k) % 64))
  else if d.fmt ≤ 5 then
    let w := fmtU d.fmt / 64
    (List.range w).all (fun k => resByte r (i / 64) (i % 64 * w + k))
  else
    let u := i / 4096
    let row := i / 64 % 64
    let col := i % 64
    let own := if d.fmt < 8 then 64 * row + col else 32 * row + col / 2
    resByte r u own && resByte r u (scaleByte d.fmt row (col / 8)) &&
    (d.fmt < 8 || (resByte r u 2560 && resByte r u 2561))

/-- Write the residency mask to gbuf. -/
def writeMask (b : Block) (r : BteReq) : Block :=
  foldUpto (fun b k => bufWrite b .gbuf (r.desc.auxa + k) 1 (packNat 1 (fun i => bit (resBit r (8 * k + i))) 8)) b
    (maskBytes r.desc)

/-! ### Returning chunks and completion (R275, R283) -/

/-- Chunks return to the thread side (R275; PERF 0x52). -/
def returnChunks (s : State) (core blk : Nat) (cs : List (Buf × Nat)) (sc : Scope) : State :=
  let s := updBlock s blk (fun b => cs.foldl (fun b c => returnChunk b c.1 c.2 (wideScope sc)) b)
  countPerf s core 0x52 cs.length

/-- The redirect entry of a request that ends is freed (07 R199). -/
def freeRedir (s : State) (core id : Nat) : State :=
  { s with redirs := s.redirs.map (fun (e : Nat × List (Nat × Nat)) => (e.1, e.2.filter (fun x => x != (core, id)))) }

/-- A request is complete: it leaves the BTE, and its block may go on (06 R168, 14 R414). -/
def finishReq (s : State) (core : Nat) (r : BteReq) : State :=
  let tw := colTower (coreCol core)
  let s := setBtes s core ((btesOf s core).filter (fun x => x.id != r.id))
  let s := freeRedir { s with hists := s.hists.filter (fun h => match h.1 with | .bte c i _ => !(c == core && i == r.id) | _ => true) }
    core r.id
  let s := bump s (aBte tw 0x08) 1
  let s := if (coreOf s core).kicks.isEmpty then s else due s [.kickFetch core]
  checkDone (checkStaged s r.block) r.block

/-- A request error, or a fault of a request that is no parking one (R121, R280, R281). -/
def requestError (s : State) (blk : Nat) : State := failBlock s blk 1 0x32

/-- Land the chunks that are complete. -/
def dueLandings (s : State) (core id : Nat) : State :=
  match reqOf s core id with
  | none => s
  | some r => due s ((r.chunks.filter (chunkReady r)).map (fun c => .chunkLanding core id c))

/-- The core that a moved block's chunks land on: its migration's target, or where it is (07 R209). -/
def movedTo (s : State) (core blk : Nat) : Nat :=
  match (mget s.migs (coreCol core)).filter (fun m => m.block == blk && m.state == .xfer) with
  | some m => m.target
  | none => (blockOf s blk).elim core (fun b => b.core.getD core)

/-- CHUNK_LANDING: a destination chunk whose bytes are all read is written and returns; the residency mask returns with
the last (R283). -/
def execChunkLanding (core id chunk : Nat) (s : State) : Out :=
  let s := meetStrikes s (fun x => (reqOf s core id).elim false (fun r => x == .buffer r.block))
  match reqOf s core id with
  | none => .next s
  | some r =>
    if !chunkReady r chunk then .next s
    else
      let d := r.desc
      let s := updBlock s r.block (fun b => foldUpto (fun b i =>
        bufWrite b d.buf (512 * chunk + i) 1 (destByte r (512 * chunk + i - d.boff))) b 512)
      let moved := (mgetD s.redirs (coreCol core) []).contains (core, id)
      let s := if moved then
          let tw := colTower (coreCol core)
          bump (bump (countPerf s (movedTo s core r.block) 0x35 1) (aSheep tw 0x28) 1) (aSheep tw 0x48) 512
        else s
      let s := returnChunks s core r.block [(d.buf, chunk)] d.scope
      let rest := r.chunks.filter (· != chunk)
      let s := updReq s core id (fun r => { r with chunks := rest })
      if rest.isEmpty then
        let mask := if d.zf then spanChunks (.gbuf, d.auxa, maskBytes d) else []
        let s := if d.zf then updBlock s r.block (fun b => writeMask b r) else s
        .next (finishReq (returnChunks s core r.block mask d.scope) core r)
      else .next s

/-- A store or scatter whose writes are all performed returns its chunks together (R283). -/
def finishWrites (s : State) (core : Nat) (r : BteReq) : State :=
  finishReq (returnChunks s core r.block ((descSpans r.desc).flatMap spanChunks).eraseDups r.desc.scope) core r

/-! ### One transaction -/

/-- What a transaction does at its line: read n bytes, write them, or add 1 (R291). -/
inductive TxKind where
  | read | write (v : Nat) | bumpOne
  deriving DecidableEq, Repr, Inhabited

/-- The request of a transaction to its home. -/
def txReq (s : State) (core : Nat) (r : BteReq) (k : TxKind) (ia n : Nat) (leaf : Leaf) (peer : Option Nat) : Req :=
  let named := r.desc.policy
  let pol := match k with
    | .read => Policy.sinv
    | .write _ => policyOf s named leaf ia true
    | .bumpOne => .wt
  { id := 0, col := coreCol core, group := none, line := ia / 64, mask := byteMask (ia % 64) n, policy := pol
    kind := match k with
      | .read => .load
      | .write v => .store (linePlace v (ia % 64) n)
      | .bumpOne => .atomic (.add .z32) 1
    scope := r.desc.scope, hint := r.desc.hint, acquire := false, release := false, dest := .bte core r.id, leaf := leaf
    peer := peer, launch := (blockOf s r.block).elim 0 (·.launch), tower := false }

/-- Issue a transaction of a request (R276): translated whole, then sent; `tx` names it among the request's. -/
def issueTx (s : State) (core : Nat) (r : BteReq) (tx va n : Nat) (k : TxKind) : State :=
  match blockOf s r.block with
  | none => s
  | some b =>
    let write := match k with
      | .read => false
      | _ => true
    let priv := b.priv || (launchOf s b.launch).elim false (·.handler)
    let q : XReq :=
      { who := .bte core r.id tx, tower := colTower (coreCol core), ia := 0, va := va, launch := b.launch, col := coreCol core
        layer := coreLayer core, slot := 0xFF, write := write, atomic := k == .bumpOne, nmo := false, fetch := false
        zf := r.desc.zf, priv := priv }
    let send (s : State) (ia : Nat) (leaf : Leaf) (peer : Option Nat) (a : RangeReg) : State :=
      if k == .bumpOne && !pathCarries s a peer.isSome leaf ia (some (.add .z32)) r.desc.scope then requestError s r.block
      else
        enqueue (updReq (countPerf s core 0x53 1) core r.id (fun r => { r with stall := some 4097, cur := tx, walked := none, issued := r.issued + 1 }))
          (txReq s core r k ia n leaf peer)
    match translate s b.launch va n (if write then .write else .read) q r.walked with
    | .ok s ia leaf a => send (clearHist s q.who) ia leaf none a
    | .peer s ia p a => send s ia ⟨0, 0, 3⟩ (some p) a
    | .trap s _ _ => requestError s r.block
    | .walk s => updReq s core r.id (fun r => { r with again := tx :: r.again, stall := some 4096, cur := tx })
    | .dead s => s
    | .park s sub l q =>
      if q.zf && (sub = 5 || sub = 6) && k == .read then
        -- zero and flag (04 R132)
        let s := bump (postNopark (countPerf s core 0x53 1) q sub l) (aBte q.tower 0x18) 1
        let u := tx / 4096
        let st := pieceStart (unitVa r.desc u) (tx % 4096)
        let s := updReq s core r.id (fun r => { r with
          walked := none, issued := r.issued + 1, zeroed := r.zeroed ++ [(u * fmtU r.desc.fmt + st, n)] })
        due (dueLandings s core r.id) [.bteTransactionIssue core]
      else
        dueLandings (parkRequest (updReq s core r.id (fun r => { r with walked := none, issued := r.issued + 1 })) q sub l)
          core r.id

/-! ### Loads and stores -/

/-- Value of the storage bytes that a store's piece takes from its buffer (R287). -/
def storePiece (b : Block) (d : Desc) (tx : Nat) : Nat :=
  let u := tx / 4096
  let va := unitVa d u
  let st := pieceStart va (tx % 4096)
  bufRead b d.buf (d.boff + u * fmtU d.fmt + st) (pieceEnd va (fmtU d.fmt) (tx % 4096) - st)

/-- The next transaction of a load or store (R276). -/
def copyTx (s : State) (core : Nat) (r : BteReq) : State :=
  let d := r.desc
  let go (s : State) (r : BteReq) (tx : Nat) : State :=
    let u := tx / 4096
    let va := unitVa d u
    let st := pieceStart va (tx % 4096)
    let k : TxKind := if d.op = 0 then .read else .write ((blockOf s r.block).elim 0 (fun b => storePiece b d tx))
    issueTx s core r tx ((va + st) % 2 ^ 64) (pieceEnd va (fmtU d.fmt) (tx % 4096) - st) k
  match r.again with
  | t :: rest => let r := { r with again := rest }; go (updReq s core r.id (fun _ => r)) r t
  | [] =>
    if txEnd d r.next then s
    else
      let t := r.next
      let r := { r with next := nextTx d t }
      go (updReq s core r.id (fun _ => r)) r t

/-- The answer to the transaction of a load or store. -/
def copyAnswer (s : State) (core : Nat) (r : BteReq) (v : Nat) : State :=
  let r := { r with answer := none, got := if r.desc.op = 0 then mset r.got r.cur v else r.got }
  let s := updReq s core r.id (fun _ => r)
  if r.desc.op = 0 then dueLandings s core r.id
  else if txEnd r.desc r.next && r.again.isEmpty && r.parks.isEmpty then finishWrites s core r else s

/-! ### Scatter (R290, R291) -/

/-- Result of a row, and the next row; the request completes after the last (R291). -/
def rowDone (s : State) (core : Nat) (r : BteReq) (res : Nat) : State :=
  let r := { r with answer := none, results := mset r.results r.row res, row := r.row + 1, phase := 0, next := 0 }
  let s := updReq s core r.id (fun _ => r)
  if r.row < rowCount r.desc then s
  else
    let s := updBlock s r.block (fun b => foldUpto (fun b i => bufWrite b .gbuf (r.desc.auxb + 4 * i) 4 (nget r.results i)) b
      (rowCount r.desc))
    finishWrites s core r

/-- Bin index of the row under way. -/
def binOf (s : State) (r : BteReq) : Nat := (blockOf s r.block).elim 0xFFFF (fun b => bufRead b .gbuf (r.desc.auxa + 2 * r.row) 2)
/-- Address of its bin-table entry. (DESIGN CHOICE, log 25) -/
def binEntry (s : State) (r : BteReq) : Nat := (r.desc.gaddr + 16 * binOf s r) % 2 ^ 64
/-- Destination of its row. -/
def rowVa (r : BteReq) : Nat := (r.binBase + r.slot * rowBytes r.desc) % 2 ^ 64

/-- The next transaction of a scatter: bump, capacity, base, row bytes. (DEDUCED, log 52) -/
def scatterTx (s : State) (core : Nat) (r : BteReq) : State :=
  let e := binEntry s r
  let r := { r with again := [] }
  let s := updReq s core r.id (fun _ => r)
  match r.phase with
  | 0 =>
    if binOf s r = 0xFFFF then rowDone s core r 0xFFFFFFFE
    else if r.desc.nbins ≤ binOf s r then rowDone s core r 0xFFFFFFFD
    else if e % 4 ≠ 0 then requestError s r.block
    else
      let r := { r with phase := 1 }
      issueTx (updReq s core r.id (fun _ => r)) core r 0 ((e + 12) % 2 ^ 64) 4 .bumpOne
  | 1 => issueTx s core r 0 ((e + 12) % 2 ^ 64) 4 .bumpOne
  | 2 => issueTx s core r 1 ((e + 8) % 2 ^ 64) 4 .read
  | 3 => issueTx s core r 2 e 4 .read
  | 4 => issueTx s core r 3 ((e + 4) % 2 ^ 64) 4 .read
  | _ =>
    let va := rowVa r
    let n := rowBytes r.desc
    let st := pieceStart va r.next
    let en := pieceEnd va n r.next
    let v := (blockOf s r.block).elim 0 (fun b => bufRead b r.desc.buf (r.desc.boff + r.row * n + st) (en - st))
    issueTx s core r (4096 + r.next) ((va + st) % 2 ^ 64) (en - st) (.write v)

/-- The answer to a scatter's transaction, other than its bump. -/
def scatterAnswer (s : State) (core : Nat) (r : BteReq) (v : Nat) : State :=
  let put (r : BteReq) : State := updReq s core r.id (fun _ => { r with answer := none })
  match r.phase with
  | 2 =>
    if v ≤ r.slot then rowDone (bump s (aBte (colTower (coreCol core)) 0x10) 1) core r 0xFFFFFFFF
    else put { r with phase := 3 }
  | 3 => put { r with phase := 4, binBase := v }
  | 4 => put { r with phase := 5, next := 0, binBase := r.binBase + v * 2 ^ 32 }
  | 5 =>
    if rowBytes r.desc ≤ pieceEnd (rowVa r) (rowBytes r.desc) r.next then rowDone s core r r.slot
    else put { r with next := r.next + 1 }
  | _ => put r

/-- SCATTER_BUMP_RETURN: the bump's old value is the row's slot (R291). -/
def execScatterBumpReturn (core id : Nat) (s : State) : Out :=
  match reqOf s core id with
  | none => .next s
  | some r =>
    match r.phase, r.answer with
    | 1, some v => .next (due (updReq s core id (fun r => { r with answer := none, phase := 2, slot := v }))
        [.bteTransactionIssue core])
    | _, _ => .next s

/-! ### The engine -/

/-- A request has a transaction to issue: one again, or, while fewer than 512 are outstanding, a new one (R276). -/
def reqBusy (room : Bool) (r : BteReq) : Bool :=
  if r.desc.op = 2 then r.parks.isEmpty else !r.again.isEmpty || (room && !txEnd r.desc r.next)

/-- The requests a core's BTE works on: the first 16 in release order (R276). -/
def activeReqs (s : State) (core : Nat) : List BteReq := ((btesOf s core).filter (fun r => r.gate == 0)).take bteSlots

/-- The request that goes on: one whose answer is at hand, else the one whose turn it is of those that no walk and no full park table
stops, when its last transaction is answered (R276). -/
def nextReq (s : State) (core : Nat) : Option BteReq :=
  let active := activeReqs s core
  match active.find? (fun r => r.stall.isNone && r.answer.isSome) with
  | some r => some r
  | none =>
    (bestBy (fun (a b : BteReq) => decide (a.turn < b.turn))
      (active.filter (fun r => reqBusy (decide (bteOutstanding s core < 512)) r && (r.stall.isNone || r.stall == some 4097)))).filter
      (fun r => r.stall.isNone)

/-- The chunk of its storage that a request's next transaction belongs to, or the row of a scatter: a turn's work (R276). -/
def turnOf (r : BteReq) : Nat :=
  if r.desc.op = 2 then r.row
  else (r.next / 4096 * fmtU r.desc.fmt + pieceStart (unitVa r.desc (r.next / 4096)) (r.next % 4096)) / 512

/-- A request that has issued a chunk's transactions goes to the end of the rotation (R276). -/
def rotate (s : State) (core : Nat) (old : BteReq) : State :=
  updReq s core old.id (fun r => if turnOf r = turnOf old then r else { r with turn := nextTurn s core })

/-- BTE_TRANSACTION_ISSUE: a request takes an answer, or issues its next transaction; active requests take turns, chunk by chunk
(R276). -/
def execBteTransactionIssue (core : Nat) (s : State) : Out :=
  if s.halted then .next s
  else
    match nextReq s core with
    | none => .next s
    | some r =>
      let s := match r.answer with
        | some v =>
          let r := { r with answer := none }
          let s := updReq s core r.id (fun _ => r)
          if r.desc.op = 2 then (if r.phase = 1 then updReq s core r.id (fun r => { r with phase := 2, slot := v }) else scatterAnswer s core r v)
          else copyAnswer s core r v
        | none => rotate (if r.desc.op = 2 then scatterTx s core r else copyTx s core r) core r
      .next (if (nextReq s core).isSome && !s.agenda.contains (.bteTransactionIssue core) then
          due s [.bteTransactionIssue core]
        else s)

/-- A fetched kick's request stands before what was released after the kick (R276). -/
def kicked (s : State) (core id : Nat) : State :=
  let l := btesOf s core
  let before := l.filter (fun r => r.id != id && r.gate == 0)
  let after := l.filter (fun r => r.id != id && r.gate != 0)
  setBtes s core (before ++ (l.filter (fun r => r.id == id)).map (fun r => { r with gate := 0 }) ++ after)

/-- A fetched descriptor is checked and becomes a request; a null request returns its chunks (R279, R280, R282). -/
def takeDesc (s : State) (core blk : Nat) (x : Nat) : State :=
  match blockOf s blk with
  | none => s
  | some b =>
    match parseDesc x with
    | none => requestError s blk
    | some d =>
      if !descOk b d then requestError s blk
      else if d.op = 3 then
        let cs := ((List.range (d.nchk / 65536 % 65536)).map (fun i => (d.buf, d.nchk % 65536 + i))).filter (fun c =>
          (ownerOf b c.1 c.2).isSome)
        let s := bump s (aBte (colTower (coreCol core)) 0x08) 1
        checkDone (returnChunks s core blk cs d.scope) blk
      else
        let id := s.reqNo
        let s := kicked (addRequest s core blk d) core id
        updBlock s blk (fun b => ((descSpans d).flatMap spanChunks).foldl (fun b c => setOwner b c.1 c.2 (2 + id)) b)

/-- A block's kicks are not fetched while its state crosses to another core, or once its groups have stopped for a save: they are to
be recorded (07 R201, 06 R181). -/
def kicksHeld (s : State) (blk : Nat) : Bool :=
  s.migs.any (fun (m : Nat × Mig) => m.2.block == blk && m.2.state == .xfer) ||
  (blockOf s blk).elim false (fun b => b.state == .saving ||
    (b.state == .stopping && (blockGroups s b blk).all (fun g => groupStopped s b.spill g.1 g.2)))

/-- Kicks recorded for replay go into their core's queue as far as it has room, each block's in order (R278; 06 R181, R184). -/
def refillKicks (s : State) (core : Nat) : State :=
  (resident s core).foldl (fun s (b : Nat × Block) =>
    let n := 64 - (coreOf s core).kicks.length
    if b.2.state != .running || b.2.recKicks.isEmpty || n = 0 then s
    else
      let ks := (b.2.recKicks.take n).map (fun e => (gkey core (b.2.slots.getD e.1 0), b.1, e.2))
      due (updBlock (updCore s core (fun c => { c with kicks := c.kicks ++ ks })) b.1 (fun x => { x with recKicks := x.recKicks.drop n }))
        [.kickFetch core]) s

/-- KICK_FETCH: the oldest kick's descriptor is fetched, when a request can be taken on (R278). -/
def execKickFetch (core : Nat) (s : State) : Out :=
  if s.halted then .next s
  else
    let c := coreOf s core
    match c.kicks with
    | [] => .next s
    | (_, blk, addr) :: rest =>
      if bteSlots ≤ ((btesOf s core).filter (fun r => r.gate == 0)).length || kicksHeld s blk then .next s
      else
        let x := (blockOf s blk).elim 0 (fun b => bufRead b .gbuf addr 64)
        let s := setCore s core { c with kicks := rest }
        -- what was released after it has one kick fewer before it
        let s := setBtes s core ((btesOf s core).map (fun r => { r with gate := r.gate - 1 }))
        let s := refillKicks s core
        let s := updBlock s blk (fun b => { b with kfet := (b.kfet + 1) % 1024 })
        let s := takeDesc (countPerf s core 0x50 1) core blk x
        .next (due s (if (coreOf s core).kicks.isEmpty then [.bteTransactionIssue core] else [.bteTransactionIssue core, .kickFetch core]))

/-! ### Instructions (17 R486-R489) -/

/-- Group-level engine instructions name p0 (R494, subcode 0x54). -/
def engineOwn (c : Ctl) : Option (Nat × Nat) := if c.plain then none else some (1, 0x54)

/-- `xkick` (R486). -/
def execXkick (c : Ctl) (base : Fin 128) (k : BitVec 12) (s : State) : Out :=
  issue s { e := c.e, pred := 0, neg := false, own := engineOwn c, reads := [.s base.val] } (fun x s =>
    let a := (sreg x.g base.val % 2 ^ 32 + 64 * k.toNat) % 2 ^ 32
    let core := coreOf s x.core
    if 64 ≤ core.kicks.length || (ctxBlk s x).elim false (fun b => !b.recKicks.isEmpty) then .brk s .kickFull x.r.start
    else
      match ctxBlk s x with
      | none => .trap s (x.trapActive 0x09 3 a)
      | some b =>
        if 512 * declared b .gbuf < a + 64 then .trap s (x.trapActive 0x09 3 a)
        else if (ownerOf b .gbuf (a / 512)).isSome then .trap s (x.trapActive 0x08 3 a)
        else
          let op := bufRead b .gbuf a 1
          if uncommitted s x.g && (op == 1 || op == 2) then .trap s (x.trapActive 0x12 0 a)
          else .ok (due (setCore s x.core { core with kicks := core.kicks ++ [(x.key, x.g.block, a)] }) [.kickFetch x.core]))

/-- Entries of the stage after a block's (R277). -/
def nextStage (s : State) (b : Block) : List Desc :=
  if b.task.isSome then []
  else (((kernelOf s b).elim [] (·.schedule)).filter (fun e => e.stage == b.stage + 1)).map entryDesc

/-- The lowest engine-owned destination address of entries: buffer and address. -/
def ownedDest (b : Block) (ds : List Desc) : Option (Buf × Nat) :=
  bestBy (fun (x y : Buf × Nat) => decide (x.2 < y.2))
    (((ds.flatMap descSpans).filterMap (fun sp =>
      ((spanChunks sp).find? (fun c => (ownerOf b c.1 c.2).isSome)).map (fun c => (c.1, max sp.2.1 (512 * c.2))))))

/-- `xstage` (R487, R277). -/
def execXstage (c : Ctl) (s : State) : Out :=
  issue s { e := c.e, pred := 0, neg := false, own := engineOwn c } (fun x s =>
    match ctxBlk s x with
    | none => .ok s
    | some b =>
      if b.stage = 63 then .ok s
      else
        let ds := nextStage s b
        match ownedDest b ds with
        | some (f, a) => .trap s (x.trapActive 0x08 (bufCode f) a)
        | none =>
          let s := setBlock s x.g.block { takeChunks b ds with stage := b.stage + 1 }
          let s := releaseEntries (countPerf s x.core 0x51 ds.length) x.core x.g.block ds
          if (groupOf s x.key).isSome then .ok s else .gone s)

/-- The chunks an `xwait` or `xtest` selects (R488). -/
def selectChunks (g : Group) (sf : Nat) (cnt : Nat) (m : Option (Fin 128)) : List Nat :=
  ((List.range cnt).filter (fun i => match m with
    | none => true
    | some r => (sreg g r.val).testBit i)).map (sreg g sf % 2 ^ 16 + ·)

/-- Subcode 0x57: a mask selects among at most 64 chunks. -/
def maskOwn (c : Ctl) (cnt : BitVec 10) (m : Option (Fin 128)) : Option (Nat × Nat) :=
  if !c.plain then some (1, 0x54) else if m.isSome && 64 ≤ cnt.toNat then some (1, 0x57) else none

/-- The trap of a selected chunk beyond the declared count. -/
def chunkBounds (b : Option Block) (f : Buf) (cs : List Nat) : Option Nat :=
  cs.find? (fun c => decide (b.elim 0 (fun b => declared b f) ≤ c))

def xReads (sf : Fin 128) (m : Option (Fin 128)) : List AReg := .s sf.val :: (m.elim [] (fun r => [.s r.val]))

/-- `xwait` (R488). -/
def execXwait (c : Ctl) (f : Buf) (sf : Fin 128) (cnt : BitVec 10) (m : Option (Fin 128)) (s : State) : Out :=
  let own := match maskOwn c cnt m with
    | some t => some t
    | none => if runCount s ≠ 0 || !c.e then some (1, 0x55) else none
  issue s { e := c.e, pred := 0, neg := false, own := own, reads := xReads sf m } (fun x s =>
    let cs := selectChunks x.g sf.val (cnt.toNat + 1) m
    match chunkBounds (ctxBlk s x) f cs with
    | some ch => .trap s (x.trapActive 0x09 (bufCode f) (512 * ch))
    | none =>
      if cs.all (fun ch => ((ctxBlk s x).bind (fun b => ownerOf b f ch)).isNone) then
        .ok (acquireChunks s x.g.block (coreCol x.core) f cs)
      else .wait s (.xwait f cs))

/-- `xtest` (R489). -/
def execXtest (c : Ctl) (d : Fin 128) (f : Buf) (sf : Fin 128) (cnt : BitVec 10) (m : Option (Fin 128)) (s : State) : Out :=
  issue s { e := c.e, pred := 0, neg := false, own := maskOwn c cnt m, reads := xReads sf m, dst := .s d.val } (fun x s =>
    let cs := selectChunks x.g sf.val (cnt.toNat + 1) m
    match chunkBounds (ctxBlk s x) f cs with
    | some ch => .trap s (x.trapActive 0x09 (bufCode f) (512 * ch))
    | none =>
      let all := cs.all (fun ch => ((ctxBlk s x).bind (fun b => ownerOf b f ch)).isNone)
      let s := updGroup s x.key (fun g => setSreg g d.val (bit all))
      .ok (acquireChunks s x.g.block (coreCol x.core) f cs))

end Sys2Proof.Machine
end

