-- ==== Sys2Proof/Decode.lean ====
section
/-! DEFINITION. Parcels to instructions and back (spec/12_instruction_formats.md R331-R359, with the field tables of
14-18). A parcel that decodes to no instruction is rejected by its cause and subcode. The encoder stands after the
decoder. -/

namespace Sys2Proof

/-! ### Fields -/

/-- The fields of a long instruction (12 R336). -/
structure Long where
  cls : BitVec 12
  src2 : BitVec 9
  src1 : BitVec 9
  mod : BitVec 3
  dst : BitVec 9
  neg : Bool
  pred : BitVec 4
  m2 : Bool
  m1 : Bool
  op : BitVec 10
  e : Bool
  deriving DecidableEq, Repr, Inhabited

/-- Bit k of a word as a truth value. -/
def bitAt {n : Nat} (w : BitVec n) (k : Nat) : Bool := w.getLsbD k

/-- The fields of two parcels, by the bit ranges of 12 R336. -/
def Long.ofParcels (p0 p1 : Word) : Long where
  cls := p1.extractLsb' 20 12
  src2 := p1.extractLsb' 11 9
  src1 := p1.extractLsb' 2 9
  mod := p0.extractLsb' 29 3
  dst := p0.extractLsb' 20 9
  neg := bitAt p0 19
  pred := p0.extractLsb' 15 4
  m2 := bitAt p0 14
  m1 := bitAt p0 13
  op := p0.extractLsb' 3 10
  e := bitAt p0 2

/-- The first parcel of a long instruction: selector 10 (12 R336). -/
def Long.parcel0 (l : Long) : Word :=
  l.mod ++ l.dst ++ BitVec.ofBool l.neg ++ l.pred ++ BitVec.ofBool l.m2 ++ BitVec.ofBool l.m1 ++ l.op ++
    BitVec.ofBool l.e ++ (2 : BitVec 2)

/-- The second parcel of a long instruction: selector 11 (12 R336). -/
def Long.parcel1 (l : Long) : Word :=
  l.cls ++ l.src2 ++ l.src1 ++ (3 : BitVec 2)

/-- The 30-bit immediate of form W, bits [63:34] (12 R337). -/
def Long.wImm (l : Long) : BitVec 30 := l.cls ++ l.src2 ++ l.src1

def Long.ctl (l : Long) : Ctl := ⟨l.e, l.pred, l.neg⟩
/-- The type field of form R (12 R337). -/
def Long.ty (l : Long) : BitVec 3 := l.cls.extractLsb' 9 3
/-- The src3 field of form R (12 R337). -/
def Long.src3 (l : Long) : BitVec 9 := l.cls.extractLsb' 0 9

/-! ### Codes of fields -/

/-- An unmarked 9-bit register code (12 R334). -/
def Reg.ofCode (n : BitVec 9) : Reg :=
  if h : n.toNat < 384 then .v ⟨n.toNat, h⟩ else .s ⟨n.toNat - 384, by have := n.isLt; omega⟩

def Reg.code : Reg → BitVec 9
  | .v n => BitVec.ofNat 9 n.val
  | .s n => BitVec.ofNat 9 (384 + n.val)

def IType.ofCode (c : BitVec 3) : IType :=
  match c.toNat with
  | 0 => .s8 | 1 => .s16 | 2 => .s32 | 3 => .s64 | 4 => .z8 | 5 => .z16 | 6 => .z32 | _ => .z64

def IType.code : IType → BitVec 3
  | .s8 => 0 | .s16 => 1 | .s32 => 2 | .s64 => 3 | .z8 => 4 | .z16 => 5 | .z32 => 6 | .z64 => 7

def FType.ofCode (c : BitVec 3) : Option FType :=
  match c.toNat with
  | 0 => some .f32 | 1 => some .f16 | 2 => some .bf16 | 3 => some .f16x2 | 4 => some .bf16x2 | _ => none

def FType.code : FType → BitVec 3
  | .f32 => 0 | .f16 => 1 | .bf16 => 2 | .f16x2 => 3 | .bf16x2 => 4

def EFmt.ofCode (c : BitVec 3) : EFmt :=
  match c.toNat with
  | 0 => .e4m3 | 1 => .e5m2 | 2 => .mx8e4 | 3 => .mx8e5 | 4 => .vf4 | 5 => .h4 | 6 => .bf16 | _ => .f16

def EFmt.code : EFmt → BitVec 3
  | .e4m3 => 0 | .e5m2 => 1 | .mx8e4 => 2 | .mx8e5 => 3 | .vf4 => 4 | .h4 => 5 | .bf16 => 6 | .f16 => 7

def Policy.ofCode (c : BitVec 2) : Policy :=
  match c.toNat with
  | 0 => .own | 1 => .wt | 2 => .sinv | _ => .winv

def Policy.code : Policy → BitVec 2
  | .own => 0 | .wt => 1 | .sinv => 2 | .winv => 3

/-- Scope codes of ATSC: none for 000, 110 and 111 (04 R101). -/
def Scope.ofCode (c : BitVec 3) : Option Scope :=
  match c.toNat with
  | 1 => some .grp | 2 => some .blk | 3 => some .twr | 4 => some .pkg | 5 => some .sys | _ => none

def Scope.code : Scope → BitVec 3
  | .grp => 1 | .blk => 2 | .twr => 3 | .pkg => 4 | .sys => 5

def Scope.codeOpt : Option Scope → BitVec 3
  | none => 0
  | some s => s.code

def Hint.ofCode (c : BitVec 2) : Hint :=
  match c.toNat with
  | 0 => .normal | 1 => .evictFirst | 2 => .evictLast | _ => .noAllocate

def Hint.code : Hint → BitVec 2
  | .normal => 0 | .evictFirst => 1 | .evictLast => 2 | .noAllocate => 3

def Buf.ofCode (c : BitVec 2) : Buf :=
  match c.toNat with
  | 0 => .wbuf | 1 => .abuf | 2 => .cbuf | _ => .gbuf

def Buf.code : Buf → BitVec 2
  | .wbuf => 0 | .abuf => 1 | .cbuf => 2 | .gbuf => 3

/-! ### Checked fields

A field parse collects the subcodes of the faults it finds; the instruction's fault is the first of them in the order
of 12 R355, step 6. -/

/-- A value with the encoding faults found on the way to it. -/
structure V (α : Type) where
  faults : List Byte
  val : Option α

def V.ok {α : Type} (a : α) : V α := ⟨[], some a⟩
def V.bad {α : Type} (sub : Byte) : V α := ⟨[sub], none⟩

/-- Apply a function of one more field. -/
def V.ap {α β : Type} (f : V (α → β)) (x : V α) : V β :=
  ⟨f.faults ++ x.faults,
   match f.val, x.val with
   | some g, some a => some (g a)
   | _, _ => none⟩

/-- Demand a condition of the fields, or add the subcode. -/
def V.req {α : Type} (x : V α) (cond : Bool) (sub : Byte) : V α :=
  if cond then x else ⟨x.faults ++ [sub], x.val⟩

/-- Demand a condition of the value, or add the subcode. -/
def V.check {α : Type} (x : V α) (p : α → Bool) (sub : Byte) : V α :=
  match x.val with
  | some a => x.req (p a) sub
  | none => x

/-- The place of a subcode in the order of 12 R355: step 5, then step 6. -/
def faultRank (sub : Byte) : Nat :=
  match sub.toNat with
  | 0x00 => 0 | 0x01 => 0 | 0x02 => 1 | 0x03 => 2 | 0x50 => 3 | 0x09 => 4 | 0x0A => 5 | 0x06 => 6 | 0x05 => 7
  | _ => 8

/-- The fault of 12 R355 that is taken when several are found. -/
def firstFault : List Byte → Option Byte
  | [] => none
  | f :: fs =>
    match firstFault fs with
    | none => some f
    | some g => if faultRank f ≤ faultRank g then some f else some g

/-- The instruction, or the subcode it is rejected with. -/
def V.result {α : Type} (x : V α) : Except Byte α :=
  match firstFault x.faults, x.val with
  | some f, _ => .error f
  | none, some a => .ok a
  | none, none => .error 0x02

/-- A scalar code. -/
def V.sca (code : BitVec 9) (mark : Bool) (sub : Byte) : V (Fin 128) :=
  match Reg.ofCode code, mark with
  | .s n, false => .ok n
  | _, _ => .bad sub

/-- A vector code of an unmarked field. -/
def V.vec (code : BitVec 9) (sub : Byte) : V (Fin 384) :=
  match Reg.ofCode code with
  | .v n => .ok n
  | .s _ => .bad sub

/-- A source code with its marker; `imm` is the immediate of src2 where the form allows one (12 R334). -/
def V.src (code : BitVec 9) (mark : Bool) (imm : Option (BitVec 9)) : V Src :=
  match Reg.ofCode code, mark with
  | .v n, m => .ok (.v n m)
  | .s n, false => .ok (.s n)
  | .s n, true =>
    if h : n.val < 8 then .ok (.q ⟨n.val, h⟩)
    else if n.val = 127 then (match imm with | some i => .ok (.imm i) | none => .bad 0x03)
    else .bad 0x03

def Src.code : Src → BitVec 9
  | .v n _ => BitVec.ofNat 9 n.val
  | .s n => BitVec.ofNat 9 (384 + n.val)
  | .q n => BitVec.ofNat 9 (384 + n.val)
  | .imm _ => 511

def Src.mark : Src → Bool
  | .v _ l => l
  | .s _ => false
  | .q _ => true
  | .imm _ => true

namespace Long

def a (l : Long) : V Src := V.src l.src1 l.m1 none
def b (l : Long) : V Src := V.src l.src2 l.m2 none
def bImm (l : Long) : V Src := V.src l.src2 l.m2 (some l.src3)
def d (l : Long) : V Reg := .ok (Reg.ofCode l.dst)
def dV (l : Long) (sub : Byte) : V (Fin 384) := V.vec l.dst sub
def dS (l : Long) : V (Fin 128) := V.sca l.dst false 0x03
def s1 (l : Long) : V (Fin 128) := V.sca l.src1 l.m1 0x03
def s2 (l : Long) : V (Fin 128) := V.sca l.src2 l.m2 0x03
def s3 (l : Long) : V (Fin 128) := V.sca l.src3 false 0x03
def pa (l : Long) : V PField := .ok ⟨l.src1, l.m1⟩
def pb (l : Long) : V PField := .ok ⟨l.src2, l.m2⟩
def c3 (l : Long) : V Reg := .ok (Reg.ofCode l.src3)
def ity (l : Long) : V IType := .ok (IType.ofCode l.ty)
def fty (l : Long) : V FType :=
  match FType.ofCode l.ty with
  | some t => .ok t
  | none => .bad 0x09
def efmt (l : Long) : V EFmt := .ok (EFmt.ofCode l.ty)

/-- The whole word is an instance of the immediate form: src2 is 511 with its marker. -/
def isImm (l : Long) : Bool := l.src2 == 511 && l.m2

end Long

/-- Fields that must be zero, with their markers (12 R334); modifier a (12 R336). -/
def V.z1 {α : Type} (x : V α) (l : Long) : V α := x.req (l.src1 == 0 && !l.m1) 0x02
def V.z2 {α : Type} (x : V α) (l : Long) : V α := x.req (l.src2 == 0 && !l.m2) 0x02
/-- src2 of form R unused: zero, and an immediate form there takes subcode 0x03 (12 R337, 15 R420, 18 R497). -/
def V.z2r {α : Type} (x : V α) (l : Long) : V α :=
  if l.isImm then x.req false 0x03 else x.req (l.src2 == 0) 0x02 |>.req (!l.m2) 0x02
def V.zd {α : Type} (x : V α) (l : Long) : V α := x.req (l.dst == 0) 0x02
/-- src3 unused: zero, unless the immediate form puts its immediate there. -/
def V.z3 {α : Type} (x : V α) (l : Long) : V α := x.req (l.isImm || l.src3 == 0) 0x02
def V.zty {α : Type} (x : V α) (l : Long) : V α := x.req (l.ty == 0) 0x09
def V.zcls {α : Type} (x : V α) (l : Long) : V α := x.req (l.cls == 0) 0x02
/-- A class field of form R shown as 0, the immediate form apart. -/
def V.zclsR {α : Type} (x : V α) (l : Long) : V α := (x.req (l.ty == 0) 0x02).z3 l
def V.zm {α : Type} (x : V α) (l : Long) : V α := x.req (l.mod == 0) 0x02

/-- The `.sat` variant of modifier a (14 R396). -/
def satVar (l : Long) : V Bool :=
  match l.mod.toNat with
  | 0 => .ok false
  | 1 => .ok true
  | _ => .bad 0x02

def iop1 (l : Long) : V IOp1 := (((V.ok IOp1.mk).ap l.ity).ap l.d).ap l.a |>.z2r l |>.z3 l
def iop2 (l : Long) : V IOp2 := ((((V.ok IOp2.mk).ap l.ity).ap l.d).ap l.a).ap l.bImm |>.z3 l
def iop3 (l : Long) : V IOp3 := (((((V.ok IOp3.mk).ap l.ity).ap l.d).ap l.a).ap l.b).ap l.c3

/-- An integer instruction of two sources and no variant. -/
def int2 (mk : Ctl → IOp2 → Instr) (l : Long) : V Instr :=
  (V.ok (mk l.ctl)).ap ((iop2 l).check (fun o => scalarForm l.ctl o.d [o.a, o.b]) 0x0A) |>.zm l

/-- An integer instruction of two sources with `.sat`. -/
def int2s (mk : Ctl → Bool → IOp2 → Instr) (l : Long) : V Instr :=
  ((V.ok (mk l.ctl)).ap (satVar l)).ap ((iop2 l).check (fun o => scalarForm l.ctl o.d [o.a, o.b]) 0x0A)

/-- An integer instruction of one source and no variant. -/
def int1 (mk : Ctl → IOp1 → Instr) (l : Long) : V Instr :=
  (V.ok (mk l.ctl)).ap ((iop1 l).check (fun o => scalarForm l.ctl o.d [o.a]) 0x0A) |>.zm l

/-- The check of an integer instruction of three sources. -/
def iop3c (l : Long) : V IOp3 := (iop3 l).check (fun o => scalarForm l.ctl o.d [o.a, o.b, o.c.toSrc]) 0x0A

def V.icond (l : Long) : V ICond :=
  match l.mod.toNat with
  | 0 => .ok .eq | 1 => .ok .ne | 2 => .ok .lt | 3 => .ok .le | 4 => .ok .gt | 5 => .ok .ge | _ => .bad 0x02

def V.brCond (l : Long) : V BrCond :=
  match l.mod.toNat with
  | 0 => (V.ok BrCond.all).z1 l
  | 1 => (V.ok BrCond.any).z1 l
  | 2 => (V.ok BrCond.none).z1 l
  | 3 => (V.ok BrCond.snz).ap l.s1
  | 4 => (V.ok BrCond.sz).ap l.s1
  | _ => .bad 0x02

/-- Control instructions, 0x000-0x009 (14 R407). -/
def decodeControl (op : Nat) (l : Long) : Option (V Instr) :=
  match op with
  | 0x000 => some ((V.ok (Instr.nop l.ctl)).z1 l |>.z2 l |>.zd l |>.zcls l |>.zm l)
  | 0x001 => some ((V.ok (Instr.bra l.ctl l.wImm)).zd l |>.zm l |>.req (!l.m1 && !l.m2) 0x02)
  | 0x002 => some ((((V.ok (Instr.brc l.ctl)).ap (V.brCond l)).ap (.ok l.cls)).z2 l |>.zd l)
  | 0x003 => some (((V.ok (Instr.jmp l.ctl)).ap l.a).check
      (fun i => match i with | .jmp _ t => t.isReg | _ => true) 0x03 |>.z2 l |>.zd l |>.zcls l |>.zm l)
  | 0x004 => some ((((V.ok (Instr.call l.ctl)).ap l.d).ap (.ok l.wImm)).zm l |>.req (!l.m1 && !l.m2) 0x02)
  | 0x005 => some (((V.ok (Instr.ret l.ctl)).ap l.a).check
      (fun i => match i with | .ret _ t => t.isReg | _ => true) 0x03 |>.z2 l |>.zd l |>.zcls l |>.zm l)
  | 0x006 => some ((((V.ok (Instr.meet l.ctl)).ap (satVar l)).ap (.ok l.wImm)).zd l |>.req (!l.m1 && !l.m2) 0x02)
  | 0x007 => some ((V.ok (Instr.exit l.ctl)).z1 l |>.z2 l |>.zd l |>.zcls l |>.zm l)
  | 0x008 => some ((V.ok (Instr.yield l.ctl)).z1 l |>.z2 l |>.zd l |>.zcls l |>.zm l)
  | 0x009 => some ((V.ok (Instr.sleep l.ctl l.cls)).z1 l |>.z2 l |>.zd l |>.zm l)
  | _ => none

/-- `movi` variants (14 R403). -/
def V.moviVar (l : Long) : V MoviVar :=
  match l.mod.toNat with
  | 0 => .ok .k30 | 1 => .ok .b30 | 2 => .ok .b60 | _ => .bad 0x02

/-- `pmov` variants (14 R406). -/
def V.pmovOp (l : Long) : V PmovOp :=
  match l.mod.toNat with
  | 0 => (V.ok (PmovOp.pp l.dst)).ap l.pa
  | 1 => (V.ok (PmovOp.sp l.dst)).ap l.s1
  | 2 => ((V.ok PmovOp.ps).ap l.dS).ap l.pa
  | _ => .bad 0x02

/-- Integer and predicate instructions, 0x010-0x034 (14 R396, R403, R404, R406). -/
def decodeInteger (op : Nat) (l : Long) : Option (V Instr) :=
  match op with
  | 0x010 => some (int2s .iadd l)
  | 0x011 => some (int2s .isub l)
  | 0x012 => some (int2 .imul l)
  | 0x013 => some (((V.ok (Instr.imad l.ctl)).ap (satVar l)).ap (iop3c l))
  | 0x014 => some ((int2 .imulh l).req (IType.ofCode l.ty).isWide 0x09)
  | 0x015 => some (int2 .imin l)
  | 0x016 => some (int2 .imax l)
  | 0x017 => some ((((V.ok (Instr.iabs l.ctl)).ap (satVar l)).ap
      ((iop1 l).check (fun o => scalarForm l.ctl o.d [o.a]) 0x0A)).req (IType.ofCode l.ty).isSigned 0x09)
  | 0x018 => some (int2 .and l)
  | 0x019 => some (int2 .or l)
  | 0x01A => some (int2 .xor l)
  | 0x01B => some (int2 .andn l)
  | 0x01C => some (int2 .shl l)
  | 0x01D => some (int2 .shr l)
  | 0x01E => some (int2 .sar l)
  | 0x01F => some (int2 .rotl l)
  | 0x020 => some (int1 .popc l)
  | 0x021 => some (int1 .clz l)
  | 0x022 => some (int1 .brev l)
  | 0x023 => some (int2 .bfx l)
  | 0x024 => some (((V.ok (Instr.bfi l.ctl)).ap (iop3c l)).zm l)
  | 0x025 => some ((((((V.ok (Instr.icmp l.ctl)).ap (V.icond l)).ap l.ity).ap (l.dV 0x0A)).ap l.a).ap l.bImm |>.z3 l)
  | 0x026 => some ((((((V.ok (Instr.sel l.ctl)).ap l.ity).ap (l.dV 0x0A)).ap l.a).ap l.b).ap (.ok l.src3) |>.zm l)
  | 0x027 => some (int1 .mov l)
  | 0x028 => some (((((V.ok (Instr.movi l.ctl)).ap (V.moviVar l)).ap l.d).ap (.ok l.wImm)).req (!l.m1 && !l.m2) 0x02
      |>.req (scalarForm l.ctl (Reg.ofCode l.dst) []) 0x0A)
  | 0x029 => some ((V.ok (Instr.lea l.ctl l.mod)).ap
      ((iop2 l).check (fun o => o.a.isReg) 0x03 |>.check (fun o => scalarForm l.ctl o.d [o.a, o.b]) 0x0A)
      |>.req (IType.ofCode l.ty).isWide 0x09)
  | 0x030 => some ((((V.ok (Instr.pand l.ctl l.dst)).ap l.pa).ap l.pb).zm l |>.req (l.src3 == 0) 0x02 |>.zty l)
  | 0x031 => some ((((V.ok (Instr.por l.ctl l.dst)).ap l.pa).ap l.pb).zm l |>.req (l.src3 == 0) 0x02 |>.zty l)
  | 0x032 => some ((((V.ok (Instr.pxor l.ctl l.dst)).ap l.pa).ap l.pb).zm l |>.req (l.src3 == 0) 0x02 |>.zty l)
  | 0x033 => some (((V.ok (Instr.pnot l.ctl l.dst)).ap l.pa).zm l |>.z2r l |>.z3 l |>.zty l)
  | 0x034 => some (((V.ok (Instr.pmov l.ctl)).ap (V.pmovOp l)).z2r l |>.z3 l |>.zty l)
  | _ => none

/-- Operand modifiers of a two-source floating-point instruction (15 R421). -/
def Long.fmods (l : Long) : FMods := ⟨bitAt l.mod 0, bitAt l.mod 1, bitAt l.mod 2⟩

def FMods.code (m : FMods) : BitVec 3 := BitVec.ofBool m.absA ++ BitVec.ofBool m.negB ++ BitVec.ofBool m.negA

def flop2 (l : Long) : V FOp2 := (((((V.ok FOp2.mk).ap l.fty).ap (.ok l.fmods)).ap l.d).ap l.a).ap l.b
def flop1 (l : Long) : V FOp1 :=
  (((((V.ok FOp1.mk).ap l.fty).ap (.ok (bitAt l.mod 0))).ap (.ok (bitAt l.mod 2))).ap l.d).ap l.a
    |>.req (!bitAt l.mod 1) 0x02 |>.z2r l |>.z3 l

def fp2 (mk : Ctl → FOp2 → Instr) (l : Long) : V Instr :=
  (V.ok (mk l.ctl)).ap ((flop2 l).check (fun o => scalarForm l.ctl o.d [o.a, o.b]) 0x0A) |>.z3 l
def fp1 (mk : Ctl → FOp1 → Instr) (l : Long) : V Instr :=
  (V.ok (mk l.ctl)).ap ((flop1 l).check (fun o => scalarForm l.ctl o.d [o.a]) 0x0A)

def V.fcond (l : Long) : V FCond :=
  match l.mod.toNat with
  | 0 => .ok .eq | 1 => .ok .ne | 2 => .ok .lt | 3 => .ok .le | 4 => .ok .gt | 5 => .ok .ge | 6 => .ok .un
  | _ => .ok .ord

/-- `cvt` variants (15 R428). -/
def V.cvtVar (l : Long) : V CvtVar :=
  match l.mod.toNat with
  | 0 => (V.ok (CvtVar.to (EFmt.ofCode l.ty))).req (EFmt.ofCode l.ty).plainElem 0x09
  | 1 => (V.ok (CvtVar.from (EFmt.ofCode l.ty))).req (EFmt.ofCode l.ty).plainElem 0x09
  | 2 => (V.ok (CvtVar.toi (IType.ofCode l.ty))).req (CvtVar.toi (IType.ofCode l.ty)).wf 0x09
  | 3 => .ok (CvtVar.fromi (IType.ofCode l.ty))
  | 4 => (V.ok CvtVar.rint).zty l
  | _ => .bad 0x02

/-- Floating-point and conversion instructions, 0x080-0x093 (15 R423, R428-R432). -/
def decodeFloat (op : Nat) (l : Long) : Option (V Instr) :=
  match op with
  | 0x080 => some (fp2 .fadd l)
  | 0x081 => some (fp2 .fsub l)
  | 0x082 => some (fp2 .fmul l)
  | 0x083 => some (((V.ok (Instr.ffma l.ctl)).ap
      ((flop2 l).check (fun o => scalarForm l.ctl o.d [o.a, o.b, (Reg.ofCode l.src3).toSrc]) 0x0A)).ap l.c3)
  | 0x084 => some (fp2 .fmin l)
  | 0x085 => some (fp2 .fmax l)
  | 0x086 => some ((((((V.ok (Instr.fcmp l.ctl)).ap (V.fcond l)).ap
      (l.fty.check (fun t => t != .f16x2 && t != .bf16x2) 0x09)).ap (l.dV 0x0A)).ap l.a).ap l.b |>.z3 l)
  | 0x087 => some (fp1 .frcp l)
  | 0x088 => some (fp1 .frsq l)
  | 0x089 => some (fp1 .fsqrt l)
  | 0x08A => some (fp1 .fexp2 l)
  | 0x08B => some (fp1 .flog2 l)
  | 0x08C => some (fp1 .fsin l)
  | 0x08D => some (fp1 .fcos l)
  | 0x08E => some (fp1 .ftanh l)
  | 0x090 => some (((((V.ok (Instr.cvt l.ctl)).ap (V.cvtVar l)).ap l.d).ap l.a).z2r l |>.z3 l
      |>.check (fun i => match i with | .cvt c _ d a => scalarForm c d [a] | _ => true) 0x0A)
  | 0x091 => some ((((((V.ok (Instr.pack l.ctl l.mod)).ap l.efmt).ap (l.dV 0x0A)).ap l.a).ap l.b
      |>.z3 l |>.req (EFmt.ofCode l.ty).plainElem 0x09))
  | 0x092 => some (((((V.ok (Instr.unpack l.ctl l.mod)).ap l.efmt).ap (l.dV 0x0A)).ap l.a).z2r l |>.z3 l
      |>.req (EFmt.ofCode l.ty).plainElem 0x09)
  | 0x093 => some (V.ok (Instr.qnt l.ctl)
      |>.ap (match EFmt.ofCode l.ty with | .vf4 => .ok false | .h4 => .ok true | _ => .bad 0x09)
      |>.ap (l.dV 0x0A) |>.ap l.a |>.ap l.s2 |>.z3 l |>.zm l)
  | _ => none

def V.shflVar (l : Long) : V ShflVar :=
  match l.mod.toNat with
  | 0 => .ok .lane | 1 => .ok .off | 2 => .ok .flip | 3 => .ok .rot | _ => .bad 0x02

/-- src2 of `shfl`: vector or scalar with the valid predicate of src3, or the immediate (15 R434). -/
def Long.laneB (l : Long) : V LaneB :=
  if l.isImm then .ok (.imm l.src3)
  else ((V.ok LaneB.reg).ap (l.b.check Src.isReg 0x03)).ap (.ok l.src3)

/-- src2 of `bcast` and `carry`: scalar with the valid predicate, or the immediate (15 R434). -/
def Long.laneS (l : Long) : V LaneS :=
  if l.isImm then .ok (.imm l.src3) else ((V.ok LaneS.s).ap l.s2).ap (.ok l.src3)

def V.voteVar (l : Long) : V VoteVar :=
  match l.mod.toNat with
  | 0 => .ok .every | 1 => .ok .some | 2 => .ok .same | _ => .bad 0x02

def V.permVar (l : Long) : V PermVar :=
  match l.mod.toNat with
  | 0 => .ok .lo | 1 => .ok .hi | 2 => .ok .idx | _ => .bad 0x02

def V.redOp (l : Long) : V RedOp :=
  match l.mod.toNat with
  | 0 => .ok .add | 1 => .ok .or | 2 => .ok .max | 3 => .ok .min | 4 => .ok .and | 5 => .ok .xor | _ => .bad 0x02

def V.redTy (l : Long) : V RedTy :=
  match l.ty.toNat with
  | 0 => .ok .f32 | 2 => .ok .s32 | 6 => .ok .z32 | _ => .bad 0x09

def V.carryN (l : Long) : V (Fin 3) :=
  match l.mod.toNat with
  | 1 => .ok 0 | 2 => .ok 1 | 3 => .ok 2 | _ => .bad 0x02

/-- Lane operations, 0x100-0x108 (15 R434). -/
def decodeLane (op : Nat) (l : Long) : Option (V Instr) :=
  match op with
  | 0x100 => some (((((V.ok (Instr.shfl l.ctl)).ap (V.shflVar l)).ap (l.dV 0x0A)).ap l.a).ap l.laneB |>.zty l)
  | 0x101 => some ((((V.ok (Instr.bcast l.ctl)).ap l.d).ap l.a).ap l.laneS |>.zty l |>.zm l)
  | 0x102 => some ((((V.ok (Instr.vote l.ctl)).ap (V.voteVar l)).ap (l.dV 0x0A)).ap l.pa |>.z2r l |>.z3 l |>.zty l)
  | 0x103 => some ((((V.ok (Instr.ballot l.ctl)).ap (satVar l)).ap l.dS).ap l.pa |>.z2r l |>.z3 l |>.zty l)
  | 0x104 => some (((((V.ok (Instr.permb l.ctl)).ap (V.permVar l)).ap (l.dV 0x0A)).ap l.a).ap l.s2 |>.z3 l |>.zty l)
  | 0x105 => some (((((V.ok (Instr.scan l.ctl)).ap (V.redOp l)).ap (V.redTy l)).ap (l.dV 0x0A)).ap l.a
      |>.z2r l |>.z3 l
      |>.check (fun i => match i with | .scan _ op t _ _ => redAllowed op t | _ => true) 0x09)
  | 0x106 => some (((((V.ok (Instr.fold l.ctl)).ap (V.redOp l)).ap (V.redTy l)).ap l.d).ap l.a
      |>.z2r l |>.z3 l
      |>.check (fun i => match i with | .fold _ op t _ _ => redAllowed op t | _ => true) 0x09)
  | 0x107 => some (((((V.ok (Instr.carry l.ctl)).ap (V.carryN l)).ap (l.dV 0x0A)).ap l.a).ap l.laneS |>.zty l)
  | 0x108 => some (((V.ok (Instr.lid l.ctl)).ap (satVar l)).ap l.d |>.z1 l |>.z2 l |>.zcls l
      |>.check (fun i => match i with | .lid _ w d => w || !d.isS | _ => true) 0x0A)
  | _ => none

/-- The class field of form M (12 R337). -/
def Long.mform (l : Long) : V MForm :=
  let sc := l.cls.extractLsb' 7 3
  let given := bitAt l.cls 4
  let pol := l.cls.extractLsb' 2 2
  (V.ok ⟨l.cls.extractLsb' 10 2, Scope.ofCode sc, Hint.ofCode (l.cls.extractLsb' 5 2),
      if given then some (Policy.ofCode pol) else none⟩)
    |>.req (l.cls.extractLsb' 0 2 == 0) 0x02
    |>.req (sc != 6 && sc != 7) 0x06
    |>.req (given || pol == 0) 0x06

/-- The class field of `fence`, `inv` and `flush`: ordering and scope only (16 R445). -/
def Long.mscope (l : Long) : V (Option Scope) :=
  let sc := l.cls.extractLsb' 7 3
  (V.ok (Scope.ofCode sc)) |>.req (l.cls.extractLsb' 0 7 == 0) 0x02 |>.req (sc != 6 && sc != 7) 0x06

def MForm.code (m : MForm) : BitVec 12 :=
  m.ord ++ Scope.codeOpt m.scope ++ m.hint.code ++ BitVec.ofBool m.policy.isSome ++
    (match m.policy with | some p => p.code | none => 0) ++ (0 : BitVec 2)

/-- The address base of a global access in form M (16 R446). -/
def Long.base (l : Long) : V Src := l.a.check Src.isReg 0x03

def V.ldSize (l : Long) : V LdSize :=
  match l.mod.toNat with
  | 0 => .ok .z8 | 1 => .ok .z16 | 2 => .ok .b32 | 3 => .ok .b64 | 4 => .ok .s8 | 5 => .ok .s16 | 6 => .ok .b128
  | _ => .bad 0x02

def V.stSize (l : Long) : V StSize :=
  match l.mod.toNat with
  | 0 => .ok .b8 | 1 => .ok .b16 | 2 => .ok .b32 | 3 => .ok .b64 | 6 => .ok .b128 | _ => .bad 0x02

def BufMode.ofCode (c : BitVec 3) : BufMode :=
  match c.toNat with
  | 0 => .w | 1 => .idx | 2 => .b | 3 => .h | 4 => .d | 5 => .t8 | 6 => .t16 | _ => .t32

def BufMode.code : BufMode → BitVec 3
  | .w => 0 | .idx => 1 | .b => 2 | .h => 3 | .d => 4 | .t8 => 5 | .t16 => 6 | .t32 => 7

/-- The operation and type of `atom` (16 R456). -/
def V.atomOp (l : Long) : V AtomOp :=
  let t := IType.ofCode l.ty
  match l.mod.toNat with
  | 0 => (V.ok (AtomOp.add t)).req t.isWide 0x09
  | 1 => (V.ok (AtomOp.min t)).req t.isWide 0x09
  | 2 => (V.ok (AtomOp.max t)).req t.isWide 0x09
  | 3 => (V.ok (AtomOp.and t)).req t.isWide 0x09
  | 4 => (V.ok (AtomOp.or t)).req t.isWide 0x09
  | 5 => (V.ok (AtomOp.xor t)).req t.isWide 0x09
  | 6 => (V.ok (AtomOp.swap t)).req t.isWide 0x09
  | _ => if l.ty == 0 then .ok .faddF32 else if l.ty == 4 then .ok .faddBf16x2 else .bad 0x09

/-- dst of `atom`: the old value's register, or zero with NR, bit [54] (16 R445). -/
def Long.atomD (l : Long) : V (Option Reg) :=
  if bitAt l.cls 2 then (V.ok none).zd l else .ok (some (Reg.ofCode l.dst))

/-- The scalar-form rule of `ld`, `atom` and `cas` (16 R449). -/
def memScalar (i : Instr) : Bool :=
  match i with
  | .ld c _ _ d b _ => !d.isS || (b.isS && c.plain)
  | .st c _ _ d b _ => !(d.isS && b.isS) || c.plain
  | .atom c _ _ (some d) a x => !d.isS || (c.plain && a.isS && x.isS)
  | .cas c _ _ d a x w => !d.isS || (c.plain && a.isS && x.isS && w.isS)
  | _ => true

/-- `.b128` is not allowed in scalar form (16 R447). -/
def b128Ok (i : Instr) : Bool :=
  match i with
  | .ld _ .b128 _ d _ _ => !d.isS
  | .st _ .b128 _ d b _ => !(d.isS && b.isS)
  | _ => true

/-- Memory instructions, 0x140-0x14C (16 R445). -/
def decodeMem (op : Nat) (l : Long) : Option (V Instr) :=
  match op with
  | 0x140 => some ((((((V.ok (Instr.ld l.ctl)).ap (V.ldSize l)).ap l.mform).ap l.d).ap l.base).ap (.ok l.src2)
      |>.req (!l.m2) 0x02 |>.check b128Ok 0x02 |>.check memScalar 0x0A)
  | 0x141 => some ((((((V.ok (Instr.st l.ctl)).ap (V.stSize l)).ap l.mform).ap l.d).ap l.base).ap (.ok l.src2)
      |>.req (!l.m2) 0x02 |>.check b128Ok 0x02 |>.check memScalar 0x0A)
  | 0x142 => some ((((V.ok (Instr.ldq l.ctl l.mod.toFin)).ap l.mform).ap l.base).ap (.ok l.src2)
      |>.req (!l.m2) 0x02 |>.zd l)
  | 0x143 => some ((((V.ok (Instr.lbuf l.ctl (BufMode.ofCode l.mod) (Buf.ofCode (l.cls.extractLsb' 10 2)))).ap
      (l.dV 0x0A)).ap (l.a.check (BufMode.ofCode l.mod).baseOk 0x03)).ap (.ok (l.cls.extractLsb' 0 10)) |>.z2 l)
  | 0x144 => some ((((V.ok (Instr.sbuf l.ctl (BufMode.ofCode l.mod) (Buf.ofCode (l.cls.extractLsb' 10 2)))).ap
      (l.a.check (BufMode.ofCode l.mod).baseOk 0x03)).ap l.b).ap (.ok (l.cls.extractLsb' 0 10)) |>.zd l)
  | 0x145 => some (((((V.ok (Instr.atom l.ctl)).ap (V.atomOp l)).ap (.ok (l.cls.extractLsb' 0 2))).ap l.atomD).ap
      (l.base) |>.ap l.b |>.req (l.cls.extractLsb' 3 6 == 0) 0x02 |>.check memScalar 0x0A)
  | 0x146 => some ((((((V.ok (Instr.cas l.ctl)).ap l.ity).ap (.ok (l.mod.extractLsb' 0 2))).ap l.d).ap l.base).ap l.b
      |>.ap l.c3 |>.req (!bitAt l.mod 2) 0x02 |>.req (IType.ofCode l.ty).isWide 0x09 |>.check memScalar 0x0A)
  | 0x147 => some ((((V.ok (Instr.fence l.ctl)).ap (satVar l)).ap (.ok (l.cls.extractLsb' 10 2))).ap l.mscope
      |>.z1 l |>.z2 l |>.zd l)
  | 0x148 => some ((((V.ok (Instr.own l.ctl)).ap (.ok (Buf.ofCode (l.cls.extractLsb' 10 2)))).ap l.s1).ap
      (.ok (l.cls.extractLsb' 0 10)) |>.z2 l |>.zd l |>.zm l)
  | 0x149 => some (((((V.ok (Instr.owt l.ctl)).ap (.ok (Buf.ofCode (l.cls.extractLsb' 10 2)))).ap l.dS).ap l.s1).ap
      (.ok (l.cls.extractLsb' 0 10)) |>.z2 l |>.zm l)
  | 0x14A => some (((((V.ok (Instr.prf l.ctl)).ap (satVar l)).ap l.mform).ap l.base).ap (.ok l.src2)
      |>.req (!l.m2) 0x02 |>.zd l)
  | 0x14B => some ((((V.ok (Instr.inv l.ctl)).ap (.ok (l.cls.extractLsb' 10 2))).ap l.mscope).ap
      (match l.mod.toNat with
       | 0 => (V.ok CacheTarget.all).z1 l |>.z2 l
       | 1 => ((V.ok CacheTarget.line).ap l.base).ap (.ok l.src2) |>.req (!l.m2) 0x02
       | _ => .bad 0x02) |>.zd l)
  | 0x14C => some ((((V.ok (Instr.flush l.ctl)).ap (.ok (l.cls.extractLsb' 10 2))).ap l.mscope).ap
      (match l.mod.toNat with
       | 0 => (V.ok FlushVar.all).z1 l |>.z2 l
       | 1 => ((V.ok FlushVar.line).ap l.base).ap (.ok l.src2) |>.req (!l.m2) 0x02
       | 2 => ((V.ok FlushVar.wbi).ap l.base).ap (.ok l.src2) |>.req (!l.m2) 0x02
       | _ => .bad 0x02) |>.zd l)
  | _ => none

/-- An even scalar pair of an operand descriptor: subcode 0x50 when odd (17 R472). -/
def V.pair (code : BitVec 9) (mark : Bool) : V (Fin 64) :=
  match Reg.ofCode code, mark with
  | .s n, false => (V.ok (⟨n.val / 2, by have := n.isLt; omega⟩ : Fin 64)).req (n.val % 2 == 0) 0x50
  | _, _ => .bad 0x03

def V.mmovCount (l : Long) : MmovCount :=
  match (l.mod.extractLsb' 1 2).toNat with
  | 0 => .c1 | 1 => .c2 | 2 => .c4 | _ => .c8

def MmovCount.code : MmovCount → BitVec 2
  | .c1 => 0 | .c2 => 1 | .c4 => 2 | .c8 => 3

/-- The chunk selection mask of `xwait` and `xtest` (17 R472). -/
def Long.selMask (l : Long) : V (Option (Fin 128)) :=
  match l.mod.toNat with
  | 0 => (V.ok none).z2 l
  | 1 => (V.ok some).ap l.s2
  | _ => .bad 0x02

/-- `nmo` commands (17 R490). -/
def V.nmoOp (l : Long) : V NmoOp :=
  match l.mod.toNat with
  | 0 => (V.ok NmoOp.addF32).ap l.b |>.zty l |>.zd l |>.z3 l
  | 1 => (V.ok NmoOp.addBf16x2).ap l.b |>.zty l |>.zd l |>.z3 l
  | 2 => (V.ok NmoOp.addS32).ap l.b |>.zty l |>.zd l |>.z3 l
  | 3 => (V.ok NmoOp.maxF32).ap l.b |>.zty l |>.zd l |>.z3 l
  | 4 => (V.ok NmoOp.maxS32).ap l.b |>.zty l |>.zd l |>.z3 l
  | 5 => (((V.ok NmoOp.cas32).ap (l.dV 0x03)).ap l.b).ap l.c3 |>.zty l
  | 6 => (((V.ok NmoOp.cas64).ap (l.dV 0x03)).ap l.b).ap l.c3 |>.zty l
  | _ =>
    if l.ty == 2 then ((V.ok NmoOp.saccBf16).ap l.b).ap l.s3 |>.zd l
    else ((V.ok NmoOp.saccF32).ap l.b).ap l.s3 |>.zty l |>.zd l

/-- The direction and first vector register of `mmov` (17 R472, R484). -/
def Long.mmovDir (l : Long) : V MmovDir :=
  if bitAt l.mod 0 then
    (match Reg.ofCode l.src2 with
     | .v n => (V.ok (MmovDir.st n l.m2)).req (mmovRegs n.val (V.mmovCount l)) 0x03 |>.zd l
     | .s _ => (V.bad 0x03).zd l)
  else
    (match Reg.ofCode l.dst with
     | .v n => (V.ok (MmovDir.ld n)).req (mmovRegs n.val (V.mmovCount l)) 0x03 |>.z2 l
     | .s _ => (V.bad 0x03).z2 l)

/-- Engine instructions, 0x1C0-0x1C8 (17 R472). -/
def decodeEngine (op : Nat) (l : Long) : Option (V Instr) :=
  match op with
  | 0x1C0 => some ((((((V.ok (Instr.mma l.ctl)).ap (satVar l)).ap l.efmt).ap l.dS).ap (V.pair l.src1 l.m1)).ap
      (V.pair l.src2 l.m2) |>.z3 l)
  | 0x1C1 => some (((((V.ok (Instr.mmov l.ctl)).ap l.mmovDir).ap (.ok (V.mmovCount l))).ap l.s1).ap
      (.ok (l.cls.extractLsb' 0 6)) |>.req (l.cls.extractLsb' 6 6 == 0) 0x02)
  | 0x1C4 => some (((V.ok (Instr.xkick l.ctl)).ap l.s1).ap (.ok l.cls) |>.z2 l |>.zd l |>.zm l)
  | 0x1C5 => some ((V.ok (Instr.xstage l.ctl)).z1 l |>.z2 l |>.zd l |>.zcls l |>.zm l)
  | 0x1C6 => some ((((V.ok (Instr.xwait l.ctl (Buf.ofCode (l.cls.extractLsb' 10 2)))).ap l.s1).ap
      (.ok (l.cls.extractLsb' 0 10))).ap l.selMask |>.zd l)
  | 0x1C7 => some (((((V.ok (Instr.xtest l.ctl)).ap l.dS).ap (.ok (Buf.ofCode (l.cls.extractLsb' 10 2)))).ap l.s1).ap
      (.ok (l.cls.extractLsb' 0 10)) |>.ap l.selMask)
  | 0x1C8 => some (((V.ok (Instr.nmo l.ctl)).ap (V.nmoOp l)).ap l.s1)
  | _ => none

/-- Member index of `barx` (18 R497). -/
def Long.member (l : Long) : V Member :=
  if l.isImm then .ok (.imm l.src3) else (V.ok Member.s).ap l.s2 |>.z3 l

/-- Task, synchronisation, trap and system instructions, 0x200-0x246 (18 R497). -/
def decodeTask (op : Nat) (l : Long) : Option (V Instr) :=
  match op with
  | 0x200 => some (((((V.ok (Instr.spawn l.ctl)).ap l.dS).ap l.s1).ap l.s2).ap l.s3 |>.zm l |>.zty l)
  | 0x201 => some (((V.ok (Instr.fget l.ctl)).ap l.dS).ap l.s1 |>.z2r l |>.zclsR l |>.zm l)
  | 0x202 => some (((V.ok (Instr.fpoll l.ctl)).ap l.dS).ap l.s1 |>.z2r l |>.zclsR l |>.zm l)
  | 0x203 => some ((V.ok (Instr.fret l.ctl)).ap l.s1 |>.z2r l |>.zd l |>.zclsR l |>.zm l)
  | 0x204 => some ((V.ok (Instr.frel l.ctl)).ap l.s1 |>.z2r l |>.zd l |>.zclsR l |>.zm l)
  | 0x205 => some ((V.ok (Instr.fset l.ctl)).ap l.s1 |>.z2r l |>.zd l |>.zclsR l |>.zm l)
  | 0x206 => some ((V.ok (Instr.commit l.ctl)).z1 l |>.z2 l |>.zd l |>.zcls l |>.zm l)
  | 0x207 => some ((V.ok (Instr.rclm l.ctl)).z1 l |>.z2 l |>.zd l |>.zcls l |>.zm l)
  | 0x208 => some ((V.ok (Instr.bar l.ctl (l.cls.extractLsb' 3 5) (l.cls.extractLsb' 0 3))).z1 l |>.z2 l |>.zd l
      |>.req (l.cls.extractLsb' 8 4 == 0) 0x02 |>.zm l)
  | 0x209 => some (((V.ok (Instr.barx l.ctl)).ap l.s1).ap l.member |>.zd l |>.zm l |>.zty l)
  | 0x20A => some ((((V.ok (Instr.push l.ctl)).ap (l.a.check Src.isReg 0x03)).ap (.ok (l.cls.extractLsb' 4 8))).ap
      (.ok (l.cls.extractLsb' 0 4)) |>.z2 l |>.zd l |>.zm l)
  | 0x20B => some (((V.ok (Instr.qlen l.ctl)).ap l.dS).ap (.ok (l.cls.extractLsb' 0 3).toFin) |>.z1 l |>.z2 l
      |>.req (l.cls.extractLsb' 3 9 == 0) 0x02 |>.zm l)
  | 0x240 => some ((V.ok (Instr.trap l.ctl l.cls)).z1 l |>.z2 l |>.zd l |>.zm l)
  | 0x241 => some ((V.ok (Instr.eret l.ctl)).z1 l |>.z2 l |>.zd l |>.zcls l |>.zm l)
  | 0x242 => some (((V.ok (Instr.csrr l.ctl)).ap l.dS).ap (.ok l.cls) |>.z1 l |>.z2 l |>.zm l)
  | 0x243 => some (((V.ok (Instr.csrw l.ctl)).ap l.s1).ap (.ok l.cls) |>.z2 l |>.zd l |>.zm l)
  | 0x244 => some ((V.ok (Instr.wsync l.ctl)).z1 l |>.z2 l |>.zd l |>.zcls l |>.zm l)
  | 0x245 => some ((V.ok (Instr.rinv l.ctl)).ap l.s1 |>.z2 l |>.zd l |>.zcls l |>.zm l)
  | 0x246 => some ((V.ok (Instr.halt l.ctl)).ap l.s1 |>.z2 l |>.zd l |>.zcls l |>.zm l)
  | _ => none

/-- A long instruction by its opcode's class range; an unallocated opcode takes subcode 0x00 (12 R356). -/
def decodeLong (l : Long) : V Instr :=
  let op := l.op.toNat
  let r :=
    if op < 0x010 then decodeControl op l
    else if op < 0x080 then decodeInteger op l
    else if op < 0x100 then decodeFloat op l
    else if op < 0x140 then decodeLane op l
    else if op < 0x1C0 then decodeMem op l
    else if op < 0x200 then decodeEngine op l
    else decodeTask op l
  r.getD (.bad 0x00)

/-! ### Short instructions and prefixes -/

/-- The fields of a short instruction (12 R339). -/
structure Short where
  ty : BitVec 3
  pred : BitVec 4
  last : Bool
  s : BitVec 7
  d : BitVec 7
  op : BitVec 7
  e : Bool
  deriving DecidableEq, Repr, Inhabited

def Short.ofParcel (p : Word) : Short where
  ty := p.extractLsb' 29 3
  pred := p.extractLsb' 25 4
  last := bitAt p 24
  s := p.extractLsb' 17 7
  d := p.extractLsb' 10 7
  op := p.extractLsb' 3 7
  e := bitAt p 2

def Short.parcel (h : Short) : Word :=
  h.ty ++ h.pred ++ BitVec.ofBool h.last ++ h.s ++ h.d ++ h.op ++ BitVec.ofBool h.e ++ (0 : BitVec 2)

def Short.si (h : Short) : SI := ⟨IType.ofCode h.ty, h.pred, h.last, h.s, h.d, h.e⟩
def Short.shift (mk : SShift → Instr) (h : Short) : V Instr :=
  (V.ok (mk ⟨IType.ofCode h.ty, h.pred, h.s, h.d, h.e⟩)).req (!h.last) 0x02
def Short.sf (mk : SF → Instr) (h : Short) : V Instr :=
  match FType.ofCode h.ty with
  | some t => .ok (mk ⟨t, h.pred, h.last, h.s, h.d, h.e⟩)
  | none => .bad 0x09

/-- A short instruction; a short opcode without a short kind takes subcode 0x01 (12 R342). -/
def decodeShort (h : Short) : V Instr :=
  match h.op.toNat with
  | 0x00 => (V.ok (Instr.nopShort h.ty h.pred h.e)).req (h.s == 0 && h.d == 0 && !h.last) 0x02
  | 0x10 => .ok (.iaddShort h.si)
  | 0x11 => .ok (.isubShort h.si)
  | 0x12 => .ok (.imulShort h.si)
  | 0x14 => (V.ok (Instr.imulhShort h.si)).req h.si.ty.isWide 0x09
  | 0x15 => .ok (.iminShort h.si)
  | 0x16 => .ok (.imaxShort h.si)
  | 0x17 => (V.ok (Instr.iabsShort h.si)).req h.si.ty.isSigned 0x09
  | 0x18 => .ok (.andShort h.si)
  | 0x19 => .ok (.orShort h.si)
  | 0x1A => .ok (.xorShort h.si)
  | 0x1B => .ok (.andnShort h.si)
  | 0x1C => h.shift .shlShort
  | 0x1D => h.shift .shrShort
  | 0x1E => h.shift .sarShort
  | 0x1F => h.shift .rotlShort
  | 0x20 => .ok (.popcShort h.si)
  | 0x21 => .ok (.clzShort h.si)
  | 0x22 => .ok (.brevShort h.si)
  | 0x27 => .ok (.movShort h.si)
  | 0x28 => (V.ok (Instr.moviShort h.pred h.s h.d h.e)).req (h.ty == 0 && !h.last) 0x02
  | 0x40 => h.sf .faddShort
  | 0x41 => h.sf .fsubShort
  | 0x42 => h.sf .fmulShort
  | 0x44 => h.sf .fminShort
  | 0x45 => h.sf .fmaxShort
  | 0x47 => h.sf .frcpShort
  | 0x48 => h.sf .frsqShort
  | 0x49 => h.sf .fsqrtShort
  | 0x4A => h.sf .fexp2Short
  | 0x4B => h.sf .flog2Short
  | 0x4C => h.sf .fsinShort
  | 0x4D => h.sf .fcosShort
  | 0x4E => h.sf .ftanhShort
  | 0x50 => (V.ok (Instr.cvtShort ⟨EFmt.ofCode h.ty, h.pred, h.last, h.s, h.d, h.e⟩)).req
      (EFmt.ofCode h.ty).plainElem 0x09
  | _ => .bad 0x01

/-- The fields of a prefix (12 R343). -/
def Pfx.ofParcel (p : Word) : Pfx where
  rsv := p.extractLsb' 21 11
  dhi := p.extractLsb' 19 2
  shi := p.extractLsb' 17 2
  leaf := bitAt p 16
  flush := bitAt p 15
  hint := p.extractLsb' 13 2
  scope := p.extractLsb' 10 3
  policy := p.extractLsb' 8 2
  sat := p.extractLsb' 6 2
  round := p.extractLsb' 3 3
  e := bitAt p 2

def Pfx.parcel (p : Pfx) : Word :=
  p.rsv ++ p.dhi ++ p.shi ++ BitVec.ofBool p.leaf ++ BitVec.ofBool p.flush ++ p.hint ++ p.scope ++ p.policy ++
    p.sat ++ p.round ++ BitVec.ofBool p.e ++ (1 : BitVec 2)

/-! ### Which prefix groups apply (12 R345, 15 R422) -/

/-- The instruction's description names a rounding mode. -/
def Instr.rounds : Instr → Bool
  | .fadd _ _ | .fsub _ _ | .fmul _ _ | .ffma _ _ _ | .frcp _ _ | .frsq _ _ | .fsqrt _ _ | .fexp2 _ _
  | .flog2 _ _ | .fsin _ _ | .fcos _ _ | .ftanh _ _ | .faddShort _ | .fsubShort _ | .fmulShort _ | .frcpShort _
  | .frsqShort _ | .fsqrtShort _ | .fexp2Short _ | .flog2Short _ | .fsinShort _ | .fcosShort _ | .ftanhShort _
  | .cvtShort _ | .pack _ _ _ _ _ _ | .qnt _ _ _ _ _ => true
  | .cvt _ v _ _ => (match v with | .from _ => false | _ => true)
  | .scan _ .add .f32 _ _ | .fold _ .add .f32 _ _ => true
  | _ => false

/-- The instruction's description names saturation. -/
def Instr.saturates : Instr → Bool
  | .qnt _ _ _ _ _ => false
  | .scan _ _ _ _ _ | .fold _ _ _ _ _ => false
  | .cvt _ v _ _ => (match v with | .from _ | .toi _ => false | _ => true)
  | i => i.rounds

/-- A floating-point or conversion instruction, to which flushing applies. -/
def Instr.flushes : Instr → Bool
  | .fmin _ _ | .fmax _ _ | .fminShort _ | .fmaxShort _ | .fcmp _ _ _ _ _ _ | .unpack _ _ _ _ _ | .cvt _ _ _ _
  | .qnt _ _ _ _ _ => true
  | i => i.saturates

/-- An instruction that takes its policy, scope and hint from a prefix: `atom`, `cas` and `nmo`. -/
def Instr.takesMem : Instr → Bool
  | .atom _ _ _ _ _ _ | .cas _ _ _ _ _ _ _ | .nmo _ _ _ => true
  | _ => false

/-- Register reach of d applies: a short instruction other than kind Z (12 R341). -/
def Instr.reachD : Instr → Bool
  | .moviShort _ _ _ _ | .shlShort _ | .shrShort _ | .sarShort _ | .rotlShort _ => true
  | .iaddShort _ | .isubShort _ | .imulShort _ | .imulhShort _ | .iminShort _ | .imaxShort _ | .iabsShort _
  | .andShort _ | .orShort _ | .xorShort _ | .andnShort _ | .popcShort _ | .clzShort _ | .brevShort _ | .movShort _
  | .faddShort _ | .fsubShort _ | .fmulShort _ | .fminShort _ | .fmaxShort _ | .frcpShort _ | .frsqShort _
  | .fsqrtShort _ | .fexp2Short _ | .flog2Short _ | .fsinShort _ | .fcosShort _ | .ftanhShort _ | .cvtShort _ => true
  | _ => false

/-- Register reach of s applies: a short instruction whose s is a register. -/
def Instr.reachS : Instr → Bool
  | .moviShort _ _ _ _ | .shlShort _ | .shrShort _ | .sarShort _ | .rotlShort _ => false
  | i => i.reachD

/-- A prefix group with a non-neutral value applies to the instruction (12 R345). -/
def Pfx.fits (p : Pfx) (i : Instr) : Bool :=
  (p.round == 0 || i.rounds) && (p.sat == 0 || i.saturates) && (!p.flush || i.flushes) &&
  (p.scope == 0 || i.takesMem) && (p.dhi == 0 || i.reachD) && (p.shi == 0 || i.reachS)

/-- The full register number of a short operand (12 R341). -/
def fullCode (reach : BitVec 2) (f : BitVec 7) : Nat := 128 * reach.toNat + f.toNat

/-- A short opcode whose s is a 7-bit immediate: kind Si (12 R340, R356). -/
def shortImm (op : BitVec 7) : Bool := (0x1C ≤ op.toNat && op.toNat ≤ 0x1F) || op == 0x28

/-- The faults a prefix adds to its instruction: reserved values (12 R344) and mismatches (R345). -/
def V.withPfx (x : V Instr) (p : Pfx) : V Instr :=
  (x.req p.wf 0x06).check (fun i => p.fits i) 0x05

/-- The faults of a short instruction's register numbers under a prefix: numbers 392-511 name no register, and the
last-read flag must be zero on a queue (12 R341). -/
def V.withReach (x : V Instr) (h : Short) (p : Pfx) : V Instr :=
  if h.op == 0 then x
  else
    let n := fullCode p.shi h.s
    let y := x.req (fullCode p.dhi h.d < 392) 0x03
    if shortImm h.op then y else y.req (n < 392) 0x03 |>.req (!(h.last && 384 ≤ n)) 0x02

/-! ### One instruction from its parcels -/

/-- What execution that begins at a parcel finds there (12 R331-R333, R347, R355 steps 2-6). -/
inductive Decoded where
  /-- an instruction of the given number of parcels -/
  | instr (i : Instr) (parcels : Nat)
  /-- a trap of this cause and subcode -/
  | fault (cause sub : Byte)
  deriving DecidableEq, Repr

def V.decoded (x : V Instr) (n : Nat) : Decoded :=
  match x.result with
  | .ok i => .instr i n
  | .error sub => .fault 0x01 sub

def V.pfxd (x : V Instr) : Option Pfx → V Instr
  | none => x
  | some p => x.withPfx p

/-- Decode the instruction that begins at parcel p0, whose next parcel is p1, after prefix `pre`. -/
def decodeAt (pre : Option Pfx) (p0 p1 : Word) : Decoded :=
  match (p0.extractLsb' 0 2).toNat with
  | 0 =>
    let h := Short.ofParcel p0
    let x := decodeShort h
    match pre with
    | none => x.decoded 1
    | some p => ((x.withReach h p).withPfx p).decoded 1
  | 1 =>
    match pre with
    | some _ => .fault 0x01 0x04
    | none => .instr (.pfx (Pfx.ofParcel p0)) 1
  | 2 =>
    if p1.extractLsb' 0 2 == 3 then ((decodeLong (Long.ofParcels p0 p1)).pfxd pre).decoded 2
    else .fault 0x01 0x08
  | _ => .fault 0x01 0x07

/-- The instruction the decoder reads from bits w, numbered as the opcode table numbers them: the first parcel is bits
31..0 and the second bits 63..32; bits above nbits are zero. -/
def decodeTableWord (nbits w : Nat) : Option Instr :=
  let v := w % 2 ^ nbits
  match decodeAt none (BitVec.ofNat 32 v) (BitVec.ofNat 32 (v / 2 ^ 32)) with
  | .instr i _ => some i
  | .fault _ _ => none

/-! ### Encoder -/

/-- A long word of the given opcode with every other field zero. -/
def Long.base0 (op : Nat) (c : Ctl) : Long :=
  ⟨0, 0, 0, 0, 0, c.neg, c.pred, false, false, BitVec.ofNat 10 op, c.e⟩

def Long.setA (l : Long) (s : Src) : Long := { l with src1 := s.code, m1 := s.mark }
/-- src2 of a form without an immediate. -/
def Long.setB (l : Long) (s : Src) : Long := { l with src2 := s.code, m2 := s.mark }
def Long.setD (l : Long) (r : Reg) : Long := { l with dst := r.code }
def Long.setS1 (l : Long) (n : Fin 128) : Long := { l with src1 := BitVec.ofNat 9 (384 + n.val) }
def Long.setS2 (l : Long) (n : Fin 128) : Long := { l with src2 := BitVec.ofNat 9 (384 + n.val) }
def Long.setPa (l : Long) (p : PField) : Long := { l with src1 := p.code, m1 := p.mark }
def Long.setPb (l : Long) (p : PField) : Long := { l with src2 := p.code, m2 := p.mark }
def Long.setR (l : Long) (ty : BitVec 3) (src3 : BitVec 9) : Long := { l with cls := ty ++ src3 }
def Long.setW (l : Long) (k : BitVec 30) : Long :=
  { l with cls := k.extractLsb' 18 12, src2 := k.extractLsb' 9 9, src1 := k.extractLsb' 0 9 }
def vcode (n : Fin 384) : BitVec 9 := BitVec.ofNat 9 n.val
def scode (n : Fin 128) : BitVec 9 := BitVec.ofNat 9 (384 + n.val)

/-- The src3 field of an instruction whose src2 may be an immediate. -/
def Src.immField : Src → BitVec 9
  | .imm i => i
  | _ => 0

def satCode (b : Bool) : BitVec 3 := if b then 1 else 0

def encI1 (op : Nat) (c : Ctl) (mod : BitVec 3) (o : IOp1) : Long :=
  { (((Long.base0 op c).setA o.a).setD o.d).setR o.ty.code 0 with mod := mod }
def encI2 (op : Nat) (c : Ctl) (mod : BitVec 3) (o : IOp2) : Long :=
  { ((((Long.base0 op c).setA o.a).setB o.b).setD o.d).setR o.ty.code o.b.immField with mod := mod }
def encI3 (op : Nat) (c : Ctl) (mod : BitVec 3) (o : IOp3) : Long :=
  { ((((Long.base0 op c).setA o.a).setB o.b).setD o.d).setR o.ty.code o.c.code with mod := mod }
def encF2 (op : Nat) (c : Ctl) (o : FOp2) (src3 : BitVec 9) : Long :=
  { ((((Long.base0 op c).setA o.a).setB o.b).setD o.d).setR o.ty.code src3 with mod := o.mods.code }
def encF1 (op : Nat) (c : Ctl) (o : FOp1) : Long :=
  { (((Long.base0 op c).setA o.a).setD o.d).setR o.ty.code 0 with
    mod := FMods.code ⟨o.negA, false, o.absA⟩ }

def ICond.code : ICond → BitVec 3
  | .eq => 0 | .ne => 1 | .lt => 2 | .le => 3 | .gt => 4 | .ge => 5
def FCond.code : FCond → BitVec 3
  | .eq => 0 | .ne => 1 | .lt => 2 | .le => 3 | .gt => 4 | .ge => 5 | .un => 6 | .ord => 7
def ShflVar.code : ShflVar → BitVec 3
  | .lane => 0 | .off => 1 | .flip => 2 | .rot => 3
def VoteVar.code : VoteVar → BitVec 3
  | .every => 0 | .some => 1 | .same => 2
def PermVar.code : PermVar → BitVec 3
  | .lo => 0 | .hi => 1 | .idx => 2
def RedOp.code : RedOp → BitVec 3
  | .add => 0 | .or => 1 | .max => 2 | .min => 3 | .and => 4 | .xor => 5
def RedTy.code : RedTy → BitVec 3
  | .f32 => 0 | .s32 => 2 | .z32 => 6
def LdSize.code : LdSize → BitVec 3
  | .z8 => 0 | .z16 => 1 | .b32 => 2 | .b64 => 3 | .s8 => 4 | .s16 => 5 | .b128 => 6
def StSize.code : StSize → BitVec 3
  | .b8 => 0 | .b16 => 1 | .b32 => 2 | .b64 => 3 | .b128 => 6
def MoviVar.code : MoviVar → BitVec 3
  | .k30 => 0 | .b30 => 1 | .b60 => 2

def CvtVar.modCode : CvtVar → BitVec 3
  | .to _ => 0 | .from _ => 1 | .toi _ => 2 | .fromi _ => 3 | .rint => 4
def CvtVar.tyCode : CvtVar → BitVec 3
  | .to f | .from f => f.code
  | .toi t | .fromi t => t.code
  | .rint => 0

def AtomOp.modCode : AtomOp → BitVec 3
  | .add _ => 0 | .min _ => 1 | .max _ => 2 | .and _ => 3 | .or _ => 4 | .xor _ => 5 | .swap _ => 6
  | .faddF32 | .faddBf16x2 => 7
def AtomOp.tyCode : AtomOp → BitVec 3
  | .add t | .min t | .max t | .and t | .or t | .xor t | .swap t => t.code
  | .faddF32 => 0
  | .faddBf16x2 => 4

/-- Modifier a of the commands of `nmo`. -/
def NmoOp.modCode : NmoOp → BitVec 3
  | .addF32 _ => 0 | .addBf16x2 _ => 1 | .addS32 _ => 2 | .maxF32 _ => 3 | .maxS32 _ => 4 | .cas32 _ _ _ => 5
  | .cas64 _ _ _ => 6 | .saccF32 _ _ => 7 | .saccBf16 _ _ => 7

def encNmo (l : Long) (op : NmoOp) : Long :=
  match op with
  | .addF32 x | .addBf16x2 x | .addS32 x | .maxF32 x | .maxS32 x => { l.setB x with mod := op.modCode }
  | .cas32 d c w | .cas64 d c w => { ((l.setB c).setR 0 w.code) with dst := vcode d, mod := op.modCode }
  | .saccF32 x a => { (l.setB x).setR 0 (scode a) with mod := 7 }
  | .saccBf16 x a => { (l.setB x).setR 2 (scode a) with mod := 7 }

/-- The class field of the buffer instructions: buffer and a 10-bit constant. -/
def bufCls (b : Buf) (k : BitVec 10) : BitVec 12 := b.code ++ k

/-- The class field of `fence`, `inv` and `flush`. -/
def scopeCls (ord : BitVec 2) (s : Option Scope) : BitVec 12 := ord ++ Scope.codeOpt s ++ (0 : BitVec 7)

/-- The fields of a long instruction, by the same tables as the decoder; none for a short form, a prefix or an event. -/
def encodeLong : Instr → Option Long
  | .nop c => some (Long.base0 0x000 c)
  | .bra c k => some ((Long.base0 0x001 c).setW k)
  | .brc c cond k =>
    let l := { Long.base0 0x002 c with cls := k }
    some (match cond with
      | .all => l
      | .any => { l with mod := 1 }
      | .none => { l with mod := 2 }
      | .snz s => { l.setS1 s with mod := 3 }
      | .sz s => { l.setS1 s with mod := 4 })
  | .jmp c t => some ((Long.base0 0x003 c).setA t)
  | .call c d k => some (((Long.base0 0x004 c).setW k).setD d)
  | .ret c t => some ((Long.base0 0x005 c).setA t)
  | .meet c clr k => some { (Long.base0 0x006 c).setW k with mod := satCode clr }
  | .exit c => some (Long.base0 0x007 c)
  | .yield c => some (Long.base0 0x008 c)
  | .sleep c k => some { Long.base0 0x009 c with cls := k }
  | .iadd c s o => some (encI2 0x010 c (satCode s) o)
  | .isub c s o => some (encI2 0x011 c (satCode s) o)
  | .imul c o => some (encI2 0x012 c 0 o)
  | .imad c s o => some (encI3 0x013 c (satCode s) o)
  | .imulh c o => some (encI2 0x014 c 0 o)
  | .imin c o => some (encI2 0x015 c 0 o)
  | .imax c o => some (encI2 0x016 c 0 o)
  | .iabs c s o => some (encI1 0x017 c (satCode s) o)
  | .and c o => some (encI2 0x018 c 0 o)
  | .or c o => some (encI2 0x019 c 0 o)
  | .xor c o => some (encI2 0x01A c 0 o)
  | .andn c o => some (encI2 0x01B c 0 o)
  | .shl c o => some (encI2 0x01C c 0 o)
  | .shr c o => some (encI2 0x01D c 0 o)
  | .sar c o => some (encI2 0x01E c 0 o)
  | .rotl c o => some (encI2 0x01F c 0 o)
  | .popc c o => some (encI1 0x020 c 0 o)
  | .clz c o => some (encI1 0x021 c 0 o)
  | .brev c o => some (encI1 0x022 c 0 o)
  | .bfx c o => some (encI2 0x023 c 0 o)
  | .bfi c o => some (encI3 0x024 c 0 o)
  | .icmp c cond ty pd a b =>
    some { (((Long.base0 0x025 c).setA a).setB b).setR ty.code b.immField with dst := vcode pd, mod := cond.code }
  | .sel c ty d a b pc => some { (((Long.base0 0x026 c).setA a).setB b).setR ty.code pc with dst := vcode d }
  | .mov c o => some (encI1 0x027 c 0 o)
  | .movi c var d k => some { ((Long.base0 0x028 c).setW k).setD d with mod := var.code }
  | .lea c sc o => some (encI2 0x029 c sc o)
  | .pand c pd pa pb => some { ((Long.base0 0x030 c).setPa pa).setPb pb with dst := pd }
  | .por c pd pa pb => some { ((Long.base0 0x031 c).setPa pa).setPb pb with dst := pd }
  | .pxor c pd pa pb => some { ((Long.base0 0x032 c).setPa pa).setPb pb with dst := pd }
  | .pnot c pd pa => some { (Long.base0 0x033 c).setPa pa with dst := pd }
  | .pmov c o =>
    some (match o with
      | .pp pd pa => { (Long.base0 0x034 c).setPa pa with dst := pd }
      | .sp pd sa => { (Long.base0 0x034 c).setS1 sa with dst := pd, mod := 1 }
      | .ps sd pa => { (Long.base0 0x034 c).setPa pa with dst := scode sd, mod := 2 })
  | .fadd c o => some (encF2 0x080 c o 0)
  | .fsub c o => some (encF2 0x081 c o 0)
  | .fmul c o => some (encF2 0x082 c o 0)
  | .ffma c o c3 => some (encF2 0x083 c o c3.code)
  | .fmin c o => some (encF2 0x084 c o 0)
  | .fmax c o => some (encF2 0x085 c o 0)
  | .fcmp c cond ty pd a b =>
    some { (((Long.base0 0x086 c).setA a).setB b).setR ty.code 0 with dst := vcode pd, mod := cond.code }
  | .frcp c o => some (encF1 0x087 c o)
  | .frsq c o => some (encF1 0x088 c o)
  | .fsqrt c o => some (encF1 0x089 c o)
  | .fexp2 c o => some (encF1 0x08A c o)
  | .flog2 c o => some (encF1 0x08B c o)
  | .fsin c o => some (encF1 0x08C c o)
  | .fcos c o => some (encF1 0x08D c o)
  | .ftanh c o => some (encF1 0x08E c o)
  | .cvt c v d a => some { (((Long.base0 0x090 c).setA a).setD d).setR v.tyCode 0 with mod := v.modCode }
  | .pack c p f d a b =>
    some { (((Long.base0 0x091 c).setA a).setB b).setR f.code 0 with dst := vcode d, mod := p }
  | .unpack c e f d a => some { ((Long.base0 0x092 c).setA a).setR f.code 0 with dst := vcode d, mod := e }
  | .qnt c h4 d a b =>
    some { (((Long.base0 0x093 c).setA a).setS2 b).setR (if h4 then 5 else 4) 0 with dst := vcode d }
  | .shfl c v d a b =>
    let l := { (Long.base0 0x100 c).setA a with dst := vcode d, mod := v.code }
    some (match b with
      | .reg b pd => (l.setB b).setR 0 pd
      | .imm i => (l.setB (.imm i)).setR 0 i)
  | .bcast c d a b =>
    let l := ((Long.base0 0x101 c).setA a).setD d
    some (match b with
      | .s n pd => (l.setS2 n).setR 0 pd
      | .imm i => (l.setB (.imm i)).setR 0 i)
  | .vote c v pd pa => some { (Long.base0 0x102 c).setPa pa with dst := vcode pd, mod := v.code }
  | .ballot c w d pa => some { (Long.base0 0x103 c).setPa pa with dst := scode d, mod := satCode w }
  | .permb c v d a t => some { ((Long.base0 0x104 c).setA a).setS2 t with dst := vcode d, mod := v.code }
  | .scan c op t d a => some { ((Long.base0 0x105 c).setA a).setR t.code 0 with dst := vcode d, mod := op.code }
  | .fold c op t d a => some { (((Long.base0 0x106 c).setA a).setD d).setR t.code 0 with mod := op.code }
  | .carry c n d a b =>
    let l := { (Long.base0 0x107 c).setA a with dst := vcode d, mod := BitVec.ofNat 3 (n.val + 1) }
    some (match b with
      | .s m pd => (l.setS2 m).setR 0 pd
      | .imm i => (l.setB (.imm i)).setR 0 i)
  | .lid c w d => some { (Long.base0 0x108 c).setD d with mod := satCode w }
  | .ld c sz m d b off =>
    some { ((Long.base0 0x140 c).setA b).setD d with src2 := off, cls := m.code, mod := sz.code }
  | .st c sz m d b off =>
    some { ((Long.base0 0x141 c).setA b).setD d with src2 := off, cls := m.code, mod := sz.code }
  | .ldq c q m b off =>
    some { (Long.base0 0x142 c).setA b with src2 := off, cls := m.code, mod := BitVec.ofNat 3 q.val }
  | .lbuf c mode buf d b k =>
    some { (Long.base0 0x143 c).setA b with dst := vcode d, cls := bufCls buf k, mod := mode.code }
  | .sbuf c mode buf b x k =>
    some { ((Long.base0 0x144 c).setA b).setB x with cls := bufCls buf k, mod := mode.code }
  | .atom c op ord d a x =>
    let nr : BitVec 1 := BitVec.ofBool d.isNone
    some { ((Long.base0 0x145 c).setA a).setB x with
      cls := op.tyCode ++ (0 : BitVec 6) ++ nr ++ ord,
      mod := op.modCode,
      dst := match d with | some r => r.code | none => 0 }
  | .cas c ty ord d a x w =>
    some { ((((Long.base0 0x146 c).setA a).setB x).setD d).setR ty.code w.code with mod := (0 : BitVec 1) ++ ord }
  | .fence c sc ord s => some { Long.base0 0x147 c with cls := scopeCls ord s, mod := satCode sc }
  | .own c buf f n => some { (Long.base0 0x148 c).setS1 f with cls := bufCls buf n }
  | .owt c buf d f n => some { (Long.base0 0x149 c).setS1 f with cls := bufCls buf n, dst := scode d }
  | .prf c l2 m b off =>
    some { (Long.base0 0x14A c).setA b with src2 := off, cls := m.code, mod := satCode l2 }
  | .inv c ord s t =>
    let l := { Long.base0 0x14B c with cls := scopeCls ord s }
    some (match t with
      | .all => l
      | .line b off => { l.setA b with src2 := off, mod := 1 })
  | .flush c ord s t =>
    let l := { Long.base0 0x14C c with cls := scopeCls ord s }
    some (match t with
      | .all => l
      | .line b off => { l.setA b with src2 := off, mod := 1 }
      | .wbi b off => { l.setA b with src2 := off, mod := 2 })
  | .mma c z f acc a b =>
    some { (Long.base0 0x1C0 c).setR f.code 0 with
      dst := scode acc, src1 := BitVec.ofNat 9 (384 + 2 * a.val), src2 := BitVec.ofNat 9 (384 + 2 * b.val),
      mod := satCode z }
  | .mmov c dir n b j =>
    let l := { (Long.base0 0x1C1 c).setS1 b with cls := (0 : BitVec 6) ++ j }
    some (match dir with
      | .ld d => { l with dst := vcode d, mod := n.code ++ (0 : BitVec 1) }
      | .st s last => { l with src2 := vcode s, m2 := last, mod := n.code ++ (1 : BitVec 1) })
  | .xkick c b k => some { (Long.base0 0x1C4 c).setS1 b with cls := k }
  | .xstage c => some (Long.base0 0x1C5 c)
  | .xwait c buf f n m =>
    let l := { (Long.base0 0x1C6 c).setS1 f with cls := bufCls buf n }
    some (match m with
      | none => l
      | some s => { l.setS2 s with mod := 1 })
  | .xtest c d buf f n m =>
    let l := { (Long.base0 0x1C7 c).setS1 f with cls := bufCls buf n, dst := scode d }
    some (match m with
      | none => l
      | some s => { l.setS2 s with mod := 1 })
  | .nmo c op b => some (encNmo ((Long.base0 0x1C8 c).setS1 b) op)
  | .spawn c d a x y => some { (((Long.base0 0x200 c).setS1 a).setS2 x).setR 0 (scode y) with dst := scode d }
  | .fget c d h => some { (Long.base0 0x201 c).setS1 h with dst := scode d }
  | .fpoll c d h => some { (Long.base0 0x202 c).setS1 h with dst := scode d }
  | .fret c h => some ((Long.base0 0x203 c).setS1 h)
  | .frel c h => some ((Long.base0 0x204 c).setS1 h)
  | .fset c x => some ((Long.base0 0x205 c).setS1 x)
  | .commit c => some (Long.base0 0x206 c)
  | .rclm c => some (Long.base0 0x207 c)
  | .bar c n id => some { Long.base0 0x208 c with cls := (0 : BitVec 4) ++ n ++ id }
  | .barx c a m =>
    let l := (Long.base0 0x209 c).setS1 a
    some (match m with
      | .s n => l.setS2 n
      | .imm i => (l.setB (.imm i)).setR 0 i)
  | .push c x mask pipe => some { (Long.base0 0x20A c).setA x with cls := mask ++ pipe }
  | .qlen c d q => some { Long.base0 0x20B c with dst := scode d, cls := BitVec.ofNat 12 q.val }
  | .trap c k => some { Long.base0 0x240 c with cls := k }
  | .eret c => some (Long.base0 0x241 c)
  | .csrr c d n => some { Long.base0 0x242 c with dst := scode d, cls := n }
  | .csrw c x n => some { (Long.base0 0x243 c).setS1 x with cls := n }
  | .wsync c => some (Long.base0 0x244 c)
  | .rinv c x => some ((Long.base0 0x245 c).setS1 x)
  | .halt c x => some ((Long.base0 0x246 c).setS1 x)
  | _ => none

def encSI (op : Nat) (o : SI) : Short := ⟨o.ty.code, o.pred, o.last, o.s, o.d, BitVec.ofNat 7 op, o.e⟩
def encSShift (op : Nat) (o : SShift) : Short := ⟨o.ty.code, o.pred, false, o.cnt, o.d, BitVec.ofNat 7 op, o.e⟩
def encSF (op : Nat) (o : SF) : Short := ⟨o.ty.code, o.pred, o.last, o.s, o.d, BitVec.ofNat 7 op, o.e⟩

/-- The fields of a short instruction (12 R339, R356). -/
def encodeShort : Instr → Option Short
  | .nopShort ty p e => some ⟨ty, p, false, 0, 0, 0x00, e⟩
  | .iaddShort o => some (encSI 0x10 o)
  | .isubShort o => some (encSI 0x11 o)
  | .imulShort o => some (encSI 0x12 o)
  | .imulhShort o => some (encSI 0x14 o)
  | .iminShort o => some (encSI 0x15 o)
  | .imaxShort o => some (encSI 0x16 o)
  | .iabsShort o => some (encSI 0x17 o)
  | .andShort o => some (encSI 0x18 o)
  | .orShort o => some (encSI 0x19 o)
  | .xorShort o => some (encSI 0x1A o)
  | .andnShort o => some (encSI 0x1B o)
  | .shlShort o => some (encSShift 0x1C o)
  | .shrShort o => some (encSShift 0x1D o)
  | .sarShort o => some (encSShift 0x1E o)
  | .rotlShort o => some (encSShift 0x1F o)
  | .popcShort o => some (encSI 0x20 o)
  | .clzShort o => some (encSI 0x21 o)
  | .brevShort o => some (encSI 0x22 o)
  | .movShort o => some (encSI 0x27 o)
  | .moviShort p k d e => some ⟨0, p, false, k, d, 0x28, e⟩
  | .faddShort o => some (encSF 0x40 o)
  | .fsubShort o => some (encSF 0x41 o)
  | .fmulShort o => some (encSF 0x42 o)
  | .fminShort o => some (encSF 0x44 o)
  | .fmaxShort o => some (encSF 0x45 o)
  | .frcpShort o => some (encSF 0x47 o)
  | .frsqShort o => some (encSF 0x48 o)
  | .fsqrtShort o => some (encSF 0x49 o)
  | .fexp2Short o => some (encSF 0x4A o)
  | .flog2Short o => some (encSF 0x4B o)
  | .fsinShort o => some (encSF 0x4C o)
  | .fcosShort o => some (encSF 0x4D o)
  | .ftanhShort o => some (encSF 0x4E o)
  | .cvtShort o => some ⟨o.fmt.code, o.pred, o.last, o.s, o.d, 0x50, o.e⟩
  | _ => none

/-- The parcels of an instruction or a prefix, first parcel first; an event has none. -/
def encode (i : Instr) : List Word :=
  match i with
  | .pfx p => [p.parcel]
  | i =>
    match encodeShort i, encodeLong i with
    | some h, _ => [h.parcel]
    | none, some l => [l.parcel0, l.parcel1]
    | none, none => []

end Sys2Proof
end

