-- ==== Sys2Proof/Machine/Predicate.lean ====
section
/-! DEFINITION. The predicate instructions (spec/14_isa_control_integer.md R393, R406). -/

namespace Sys2Proof.Machine

/-- A predicate field is within [3:0] with its marker zero (R393). -/
def PField.ok (p : PField) : Bool := p.code.toNat < 16 && !p.mark
/-- A destination predicate field is within [3:0]. -/
def pdOk (p : BitVec 9) : Bool := p.toNat < 16
/-- The bit of a predicate field in lane l. -/
def PField.val (g : Group) (p : PField) (l : Nat) : Bool := inMask (preg g (p.code.toNat % 16)) l

/-- A predicate instruction: its fields' checks and a bit for each lane. -/
def predOp (c : Ctl) (pd : BitVec 9) (ok : Bool) (reads : List AReg) (f : Group → Nat → Bool) : LaneOp :=
  { spec :=
      { e := c.e, pred := c.pred.toNat, neg := c.neg
        own := if pdOk pd && ok then none else some (1, 0x43)
        reads := reads
        dst := .p pd.toNat }
    result := fun g l _ => (bit (f g l), 0) }

def execPand (c : Ctl) (pd : BitVec 9) (pa pb : PField) (s : State) : Out :=
  runInt s (predOp c pd (PField.ok pa && PField.ok pb) [] (fun g l => PField.val g pa l && PField.val g pb l))
def execPor (c : Ctl) (pd : BitVec 9) (pa pb : PField) (s : State) : Out :=
  runInt s (predOp c pd (PField.ok pa && PField.ok pb) [] (fun g l => PField.val g pa l || PField.val g pb l))
def execPxor (c : Ctl) (pd : BitVec 9) (pa pb : PField) (s : State) : Out :=
  runInt s (predOp c pd (PField.ok pa && PField.ok pb) [] (fun g l => PField.val g pa l != PField.val g pb l))
def execPnot (c : Ctl) (pd : BitVec 9) (pa : PField) (s : State) : Out :=
  runInt s (predOp c pd (PField.ok pa) [] (fun g l => !PField.val g pa l))

/-- The bits of a predicate over a mask as a number. -/
def predBits (g : Group) (p : PField) (m : LaneMask) : Nat := (preg g (p.code.toNat % 16) &&& m).toNat

/-- `pmov` (R406): between predicates, and to and from a scalar's bits. (DESIGN CHOICE, log 71) -/
def execPmov (c : Ctl) (o : PmovOp) (s : State) : Out :=
  match o with
  | .pp pd pa => runInt s (predOp c pd (PField.ok pa) [] (fun g l => PField.val g pa l))
  | .sp pd sa => runInt s (predOp c pd true [.s sa.val] (fun g l => (sreg g sa.val).testBit l))
  | .ps sd pa =>
    issue s
      { e := c.e, pred := c.pred.toNat, neg := c.neg
        own := if PField.ok pa then none else some (1, 0x43)
        dst := .s sd.val }
      (fun k s => .ok (if k.full = 0 then s else setGroup s k.key (setSreg k.g sd.val (predBits k.g pa k.full))))

end Sys2Proof.Machine
end

