-- ==== Sys2Proof/Machine/Lane.lean ====
section
/-! DEFINITION. The lane operations (spec/15_isa_vector_lane.md R433-R441). -/

namespace Sys2Proof.Machine

/-- Cycles of a lane operation (R441). -/
def laneCycles (n : Nat) : Nat := 2 * max 1 (ceilDiv n 16)

/-- A value of the latch or of a register in another lane: its value and whether it is valid (R433). -/
def peerLane (g : Group) (latch : List Row) (o : Opnd) (j : Int) : Nat × Bool :=
  if j < 0 || decide ((g.width : Int) ≤ j) then (0, false)
  else if (laneAt g j.toNat).live then (o.val g latch j.toNat % 2 ^ 32, true)
  else (0, false)

/-- What every lane operation tells the issue logic; a scalar form is charged one cycle (07 R186). -/
def laneSpec (c : Ctl) (own : Option (Nat × Nat)) (srcs : List Opnd) (reads : List AReg) (dst : DestReg)
    (cyc : Nat → Nat) : Spec :=
  { e := c.e, pred := c.pred.toNat, neg := c.neg, own := own, srcs := srcs, reads := reads, dst := dst
    charge := classCharge 7 (fun n => if dst.isS then 1 else cyc n), cycles := cyc }

/-- Count a lane operation on n lanes with its beats and its source lanes that were exited or never launched (R444, 09 R267). -/
def countLane (s : State) (core n missing : Nat) : State :=
  countPerf (countPerf (countPerf s core 0x74 1) core 0x75 missing) core 0x12 (ceilDiv n 16)

/-- Write a lane operation's values and its valid predicate in the stream mask (R433). -/
def writePeers (g : Group) (m : LaneMask) (d : Nat) (vp : Option Nat) (f : Nat → Nat × Bool) : Group :=
  if m = 0 then g
  else
    let g' := writeLanes g d m (fun l => w32 (f l).1)
    match vp with
    | none => g'
    | some p => setPreg g' p (maskOf (fun l => if inMask m l then (f l).2 else inMask (preg g p) l))

def missing (m : LaneMask) (f : Nat → Nat × Bool) : Nat := ((laneList m).filter (fun l => !(f l).2)).length

/-- The lane that `shfl` reads in lane l (R435). -/
def shflLane (var : ShflVar) (w l b : Nat) : Int :=
  match var with
  | .lane => ((b % 2 ^ 32 : Nat) : Int)
  | .off => (l : Int) + signedOf 7 b
  | .flip => ((l ^^^ (b % 64) : Nat) : Int)
  | .rot => (((l + b % 64) % w : Nat) : Int)

def execShfl (c : Ctl) (var : ShflVar) (d : Fin 384) (a : Src) (b : LaneB) (s : State) : Out :=
  let oa : Opnd := ⟨a, false⟩
  let (ob, vp) : Opnd × Option (BitVec 9) := match b with
    | .reg x p => (⟨x, false⟩, some p)
    | .imm i => (⟨.imm i, false⟩, none)
  issue s (laneSpec c (if vp.all pdOk then none else some (1, 0x43)) [oa, ob] [] (.v d.val false) laneCycles)
    (fun k s =>
      let f (l : Nat) := peerLane k.g k.latch oa
        (shflLane var k.g.width l (ob.val k.g (k.latch.drop oa.pops.length) l))
      .ok (setGroup (countLane s k.core (laneCount k.mask) (missing k.mask f)) k.key (writePeers k.g k.mask d.val (vp.map (·.toNat)) f)))

/-- `bcast` is `.lane` with one uniform lane (R435). -/
def execBcast (c : Ctl) (d : Reg) (a : Src) (b : LaneS) (s : State) : Out :=
  let oa : Opnd := ⟨a, false⟩
  let (ob, vp) : Opnd × Option (BitVec 9) := match b with
    | .s n p => (⟨.s n, false⟩, some p)
    | .imm i => (⟨.imm i, false⟩, none)
  issue s (laneSpec c (if vp.all pdOk then none else some (1, 0x43)) [oa, ob] [] (.ofReg d false) laneCycles)
    (fun k s =>
      let r := peerLane k.g k.latch oa (ob.val k.g [] 0 % 2 ^ 32 : Nat)
      let s := countLane s k.core (laneCount k.mask) (if r.2 then 0 else laneCount k.mask)
      let vpw (g : Group) : Group := match vp with
        | none => g
        | some p => setPreg g p.toNat (maskOf (fun l => if inMask k.mask l then r.2 else inMask (preg k.g p.toNat) l))
      .ok (setGroup s k.key (match d with
        | .v n => writePeers k.g k.mask n.val (vp.map (·.toNat)) (fun _ => r)
        | .s n => if k.mask = 0 then k.g else vpw (setSreg k.g n.val r.1))))

/-- `vote` (R436). -/
def voteBit (var : VoteVar) (bits : List Bool) : Bool :=
  match var with
  | .every => bits.all id
  | .some => bits.any id
  | .same => bits.all id || bits.all (fun b => !b)

def execVote (c : Ctl) (var : VoteVar) (pd : Fin 384) (pa : PField) (s : State) : Out :=
  issue s (laneSpec c (if pd.val < 16 && PField.ok pa then none else some (1, 0x43)) [] [] (.p pd.val) laneCycles)
    (fun k s =>
      let r := voteBit var ((laneList k.full).map (PField.val k.g pa))
      .ok (setGroup (countLane s k.core (laneCount k.mask) 0) k.key
        (setPreg k.g pd.val (maskOf (fun l => if inMask k.mask l then r else inMask (preg k.g pd.val) l)))))

/-- `ballot`, written even for an empty stream mask (R436). -/
def execBallot (c : Ctl) (wide : Bool) (d : Fin 128) (pa : PField) (s : State) : Out :=
  issue s (laneSpec c (if PField.ok pa then none else some (1, 0x43)) [] [] (.s d.val) laneCycles)
    (fun k s =>
      .ok (setGroup (countLane s k.core (laneCount k.mask) 0) k.key
        (setSreg k.g d.val (predBits k.g pa (if wide then liveMask k.g &&& widthMask k.g.width else k.full)))))

/-- One byte of `permb` (R437). -/
def permByte (var : PermVar) (table b : Nat) : Nat :=
  match var with
  | .lo => table / 2 ^ (8 * (b % 16)) % 256
  | .hi => table / 2 ^ (8 * (b / 16)) % 256
  | .idx => if b ≥ 16 then 0 else table / 2 ^ (8 * b) % 256

def execPermb (c : Ctl) (var : PermVar) (d : Fin 384) (a : Src) (t : Fin 128) (s : State) : Out :=
  let oa : Opnd := ⟨a, false⟩
  issue s (laneSpec c (if t.val % 2 = 1 then some (1, 0x45) else none) [oa] [.s t.val, .s (t.val + 1)] (.v d.val false)
      (vecCycles false))
    (fun k s =>
      let table := sreg k.g t.val + 2 ^ 64 * sreg k.g (t.val + 1)
      let f (l : Nat) : Nat × Bool :=
        let x := oa.val k.g k.latch l
        (packNat 8 (fun i => permByte var table (x / 2 ^ (8 * i) % 256)) 4, true)
      .ok (setGroup (countLane s k.core (laneCount k.mask) 0) k.key (writePeers k.g k.mask d.val none f)))

/-- Identities of `scan` and `fold` (R438). -/
def redIdentity (op : RedOp) (t : RedTy) : Nat :=
  match op, t with
  | .add, .f32 => 0x80000000
  | .max, .f32 | .min, .f32 => 0x7FC00000
  | .max, .s32 => 0x80000000
  | .min, .s32 => 0x7FFFFFFF
  | .min, .z32 => 0xFFFFFFFF
  | .and, _ => 0xFFFFFFFF
  | _, _ => 0

/-- One step acc := op(acc, x) in lane l (R438). -/
def redStep (op : RedOp) (t : RedTy) (v : FpEnv) (l acc x : Nat) : Nat × Nat :=
  let ity : IType := match t with
    | .s32 => .s32
    | _ => .z32
  match t with
  | .f32 =>
    let a := decFmt fmt32 acc
    let b := decFmt fmt32 (x % 2 ^ 32)
    (match op with
      | .max => (encFmt fmt32 (numMax a b), 0)
      | .min => (encFmt fmt32 (numMin a b), 0)
      | _ => deliver fmt32 v (srand v l 0) (numAdd (v.mode == 3) a b))
  | _ =>
    ((match op with
      | .add => opAdd ity false acc x
      | .or => opOr ity acc x
      | .max => opMax ity acc x
      | .min => opMin ity acc x
      | .and => opAnd ity acc x
      | .xor => opXor ity acc x), 0)

/-- The running values of each stream-mask lane, the final value and the union of exceptions. -/
def redRun (op : RedOp) (t : RedTy) (v : FpEnv) (x : Nat → Nat) (ls : List Nat) : List (Nat × Nat) × Nat × Nat :=
  ls.foldl (fun st l =>
    let r := redStep op t v l st.2.1 (x l)
    (st.1 ++ [(l, r.1)], r.1, st.2.2 ||| r.2)) ([], redIdentity op t, 0)

/-- The `.f32` add takes n + 2 cycles at class 3 (R438); the others the lane operations' (R441). -/
def redSpec (c : Ctl) (op : RedOp) (t : RedTy) (a : Opnd) (dst : DestReg) : Spec :=
  let fadd := op == .add && t == .f32
  let cyc := if fadd then (fun n => n + 2) else laneCycles
  { e := c.e, pred := c.pred.toNat, neg := c.neg, srcs := [a], dst := dst
    charge := classCharge (if fadd then 3 else 7) (fun n => if dst.isS then 1 else cyc n), cycles := cyc }

/-- `scan` and `fold` share their steps; `fin` writes what they deliver. -/
def redBody (op : RedOp) (t : RedTy) (o : Opnd) (fin : Group → LaneMask → List (Nat × Nat) → Nat → Group)
    (k : Ctx) (s : State) : Res :=
  let v := { fpEnv k.g k.pre 0 with sat := 0, flush := false }
  let r := redRun op t v (fun l => o.val k.g k.latch l) (laneList k.full)
  let s := countLane s k.core (laneCount k.mask) 0
  let g := raiseFlags k.g r.2.2
  if r.2.2 &&& g.frnd.ten.toNat != 0 then .trap (setGroup s k.key g) (k.trapFirst 0x18 r.2.2 0)
  else
    let g := fin g k.mask r.1 r.2.1
    .ok (setGroup s k.key (if op == .add && t == .f32 && v.mode == 5 then addScnt g 1 else g))

def execScan (c : Ctl) (op : RedOp) (t : RedTy) (d : Fin 384) (a : Src) (s : State) : Out :=
  issue s (redSpec c op t ⟨a, false⟩ (.v d.val false))
    (redBody op t ⟨a, false⟩ (fun g m run _ =>
      if m = 0 then g else writeLanes g d.val m (fun l => w32 (mgetD run l 0))))

def execFold (c : Ctl) (op : RedOp) (t : RedTy) (d : Reg) (a : Src) (s : State) : Out :=
  issue s (redSpec c op t ⟨a, false⟩ (.ofReg d false))
    (redBody op t ⟨a, false⟩ (fun g m _ acc =>
      match d with
      | .v n => if m = 0 then g else writeLanes g n.val m (fun _ => w32 acc)
      | .s n => setSreg g n.val acc))

/-- `carry` joins a lane's bytes to the last bytes of the lane before (R439). -/
def execCarry (c : Ctl) (n : Fin 3) (d : Fin 384) (a : Src) (b : LaneS) (s : State) : Out :=
  let oa : Opnd := ⟨a, false⟩
  let (ob, vp) : Opnd × Option (BitVec 9) := match b with
    | .s n p => (⟨.s n, false⟩, some p)
    | .imm i => (⟨.imm i, false⟩, none)
  let sh := 8 * (n.val + 1)
  issue s (laneSpec c (if vp.all pdOk then none else some (1, 0x43)) [oa, ob] [] (.v d.val false) laneCycles)
    (fun k s =>
      let f (l : Nat) : Nat × Bool :=
        let p := if l = 0 then (ob.val k.g [] 0 % 2 ^ 32, true) else peerLane k.g k.latch oa ((l : Int) - 1)
        (oa.val k.g k.latch l * 2 ^ sh % 2 ^ 32 + p.1 / 2 ^ (32 - sh), p.2)
      .ok (setGroup (countLane s k.core (laneCount k.mask) (missing k.mask f)) k.key (writePeers k.g k.mask d.val (vp.map (·.toNat)) f)))

/-- `lid` (R440). -/
def execLid (c : Ctl) (w : Bool) (d : Reg) (s : State) : Out :=
  issue s (laneSpec c none [] [] (.ofReg d false) (vecCycles false))
    (fun k s =>
      .ok (setGroup (countLane s k.core (laneCount k.mask) 0) k.key (if k.mask = 0 then k.g else match d with
        | .v n => writeLanes k.g n.val k.mask (fun l => w32 (if w then k.g.width else l))
        | .s n => setSreg k.g n.val k.g.width)))

end Sys2Proof.Machine
end

