-- ==== Sys2Proof/Machine/Sync.lean ====
section
/-! DEFINITION. `bar`, `barx`, `push` and `qlen`, arrivals at barrier objects, and pipes (spec/18_isa_tasks_system.md
R499, R506-R509; 08 R229-R231; 09 R254-R257). -/

namespace Sys2Proof.Machine

/-! ### Block barriers (R506) -/

/-- A group arrives at a barrier of its block (R506); none when the count differs from the instance begun. -/
def barArrive (b : Block) (i count idx : Nat) : Option Block :=
  match b.barriers[i]? with
  | none => none
  | some x =>
    if x.arrived ≠ 0 && x.count ≠ count then none
    else some (barrierTest { b with barriers := lset b.barriers i { x with arrived := x.arrived ||| 2 ^ idx, count := count } } i)

def barGen (b : Block) (i : Nat) : Nat := (b.barriers[i]?).elim 0 (·.gen)

/-- `bar` (R506, R499). (DESIGN CHOICE, log 23) -/
def execBar (c : Ctl) (count : BitVec 5) (id : BitVec 3) (s : State) : Out :=
  issue s { e := c.e, pred := 0, neg := false, own := waitingOwn c (runCount s) true } (fun x s =>
    match ctxBlk s x with
    | none => if 1 < count.toNat then .trap s (x.trapActive 1 0x63 0) else .ok s
    | some b =>
      match x.g.waitRec with
      | some (.bar i gen) =>
        if barGen b i ≠ gen then .ok (updGroup s x.key (fun g => { g with waitRec := none }))
        else .wait s .bar
      | _ =>
        if b.shape.groups < count.toNat then .trap s (x.trapActive 1 0x63 0)
        else
          match barArrive b id.toNat count.toNat x.g.index with
          | none => .trap s (x.trapActive 1 0x63 0)
          | some b' =>
            let s := setBlock s x.g.block b'
            if barGen b' id.toNat ≠ barGen b id.toNat then .ok s
            else .wait (updGroup s x.key (fun g => { g with waitRec := some (.bar id.toNat (barGen b id.toNat)) })) .bar)

/-! ### System barriers (R507, 08 R229-R231) -/

/-- Home takes a line for an indivisible update: dirty bytes of copies reach it, the copies go (11 R309). -/
def homeTake (s : State) (leaf : Leaf) (line : Nat) : State × HomeLine :=
  let h := homeGet s leaf line
  let s := if inL2 s line then s else l2Evict s line h.ht h.cls
  let (s, h) := merge (homePut s line h) line line h
  let (s, h) := towerTo s line h h.ht .atHome 1000 true
  let (s, h) := recallCopies s line h 1000 .write
  (homePut s line h, h)

/-- A line cannot be accessed at home yet: a bank-side command, a key load or a retraining holds it. -/
def lineBusy (s : State) (leaf : Leaf) (line : Nat) : Bool :=
  (mget s.home line).elim false (fun h => h.busy != 0) ||
  (!inL2 s line && isHbm (homePa leaf line) && retraining s (stackOf (homePa leaf line))) ||
  (isHbm (homePa leaf line) && s.keyLoads.any (·.1 == leaf.key))

/-- The host may hold a copy of a line (02 R37). -/
def hostHolds (s : State) (line : Nat) : Bool := (mget s.home line).elim false (·.hostBit)

/-- The host may hold a line alone: it must share it before it is read (02 R37). -/
def hostOwns (s : State) (line : Nat) : Bool := (mget s.home line).elim false (fun h => h.hostBit && !h.hostShared)

/-- A line cannot be changed at home yet. -/
def lineHeld (s : State) (leaf : Leaf) (line : Nat) : Bool := lineBusy s leaf line || hostHolds s line

/-- The phase bit of a barrier object at home. -/
def objPhase (s : State) (leaf : Leaf) (ia : Nat) : Bool := (homeGet s leaf (ia / 64)).data.toNat.testBit 8

/-- Offset of a stamp from the phase base, as a saturating signed 32-bit number (08 R229). -/
def arrivalOffset (stamp base : Nat) : Int :=
  let d : Int := signedOf 64 (stamp + 2 ^ 64 - base)
  if d > 2147483647 then 2147483647 else if d < -2147483648 then -2147483648 else d

/-- Bytes [o, o + n) of an object's 128 bytes, and their replacement. -/
def objFld (x o n : Nat) : Nat := field x (8 * (o + n) - 1) (8 * o)
def objSet (x o n v : Nat) : Nat := setField x (8 * (o + n) - 1) (8 * o) v

/-- The object's member count and reserved fields (R507). -/
def objMalformed (x m : Nat) : Bool :=
  let n := objFld x 0 1
  n == 0 || decide (16 < n) || decide (n ≤ m) || objFld x 1 1 / 2 != 0 || objFld x 6 2 != 0 || objFld x 108 20 != 0

/-- The last arrival's update (08 R231): the new object and the flags that became 1. -/
def lastArrival (x z : Nat) : Nat × Nat :=
  let n := objFld x 0 1
  let off (k : Nat) : Int := signedOf 32 (objFld x (16 + 4 * k) 4)
  let med := ((sortBy (fun (a b : Int) => decide (a ≤ b)) ((List.range n).map off))[(n + 1) / 2 - 1]?).getD 0
  let lag : Nat := if objFld x 104 4 = 0 then 50000 else objFld x 104 4
  let late := decide (off z - med > (lag : Int))
  let (x, sets) := foldUpto (fun (a : Nat × Nat) k =>
    let h := objFld a.1 (80 + k) 1 * 2 % 256 + bit (k == z && late)
    let y := objSet a.1 (80 + k) 1 h
    let flags := objFld y 4 2
    if popCount h 8 ≥ 6 then (objSet y 4 2 (flags ||| 2 ^ k), a.2 + bit (!flags.testBit k))
    else if h % 16 = 0 then (objSet y 4 2 (flags - bit (flags.testBit k) * 2 ^ k), a.2)
    else (y, a.2)) (x, 0) n
  (objSet (objSet x 2 2 0) 1 1 (1 - objFld x 1 1 % 2), sets)

/-- The arrival of member m with a stamp, in one update; flags that became 1, and whether it was recorded
(08 R230, R231). -/
def arriveObj (x m stamp : Nat) : Nat × Nat × Bool :=
  let arrived := objFld x 2 2
  if arrived.testBit m then (x, 0, false)
  else
    let base := if arrived = 0 then stamp else objFld x 8 8
    let x := objSet (objSet x 8 8 base) (16 + 4 * m) 4 (unsignedOf 32 (arrivalOffset stamp base))
    let arrived := arrived ||| 2 ^ m
    let x := objSet x 2 2 arrived
    let all := 2 ^ objFld x 0 1 - 1
    if arrived &&& all = all then
      let (x, n) := lastArrival x m
      (x, n, true)
    else (x, 0, true)

/-- Store an object's two lines at home. -/
def storeObj (s : State) (line : Nat) (h0 h1 : HomeLine) (x : Nat) : State :=
  let put (s : State) (k : Nat) (h : HomeLine) (d : Nat) : State :=
    homePut (revive s h.pa) k { h with data := BitVec.ofNat 512 d, dirty := true }
  put (put s line h0 x) (line + 1) h1 (x / 2 ^ 512)

/-- Peers that wait for a phase change of an object are told when it has come (08 R230). -/
def answerWaits (s : State) : State :=
  let past (w : Flit × Nat × Leaf × Bool) : Bool := objPhase s w.2.2.1 w.2.1 != w.2.2.2
  (s.barWaits.filter past).foldl (fun s w => sendReply s w.1 .done) { s with barWaits := s.barWaits.filter (fun w => !past w) }

/-- An arrival goes out to the package that holds the object as a class-3 flit (08 R230); its answer is withheld until
the phase changes (DEDUCED, log 30). -/
def sendArrival (s : State) (a : Arrival) (k pkg : Nat) : State :=
  let col := coreCol (keyCore k)
  let tag := nget s.tags (col * 256 + pkg)
  let r : Req := ⟨s.reqNo, col, some k, .cas 0 0, a.ia / 64, 0, .wt, .sys, .noAllocate, true, true, .none, a.leaf, some pkg,
    a.launch, true⟩
  let s := { s with peerOut := s.peerOut ++ [(pkg, col, tag, r)], reqNo := s.reqNo + 1 }
  let s := updGroup s k (fun g => { g with waitRec := some (.barx (w64 a.va) a.ia a.leaf false true false) })
  sendFlit s 3 pkg col none (.barrier (BitVec.ofNat 52 a.ia) a.member a.stamp)

/-- Members whose flag has risen scan from the top again (08 R235). -/
def noteFlags (s : State) (k slot flags : Nat) : State :=
  updEngine s k (fun e => foldUpto (fun (e : Engine) m =>
    let key := 16 * slot + m
    let up := flags.testBit m && nget e.flagsSeen key == 0
    { e with cursors := if up then mdel e.cursors key else e.cursors, flagsSeen := nset e.flagsSeen key (bit (flags.testBit m)) }) e 16)

/-- A launch is bound to the object at an intermediate address of this package (08 R233). (DEDUCED, log 113) -/
def boundHere (s : State) (slot : Nat) (l : Launch) (ia : Nat) : Bool :=
  match l.bind with
  | none => false
  | some d => (match rangeXlate (l.ranges.getD (readRanges s slot)) d.obj 8 .read l.handler with
    | .ok a r => a == ia && r.peer.isNone
    | .trap _ _ => false)

/-- The engines of the launches bound to an object see its flags change (08 R235). -/
def tellFlags (s : State) (ia old new : Nat) : State :=
  if old = new then s
  else
    s.launches.foldl (fun s (e : Nat × Launch) =>
      if boundHere s e.1 e.2 ia then foldUpto (fun s k => noteFlags (noteFlags s k e.1 old) k e.1 new) s 24 else s) s

/-- The arrival is applied at the object's home (08 R230, R231; R507 check 5). -/
def applyArrival (s : State) (a : Arrival) : State :=
  let line := a.ia / 64
  let (s, h0) := homeTake s a.leaf line
  let (s, h1) := homeTake s a.leaf (line + 1)
  let x := h0.data.toNat + h1.data.toNat * 2 ^ 512
  let phase := x.testBit 8
  if h0.poison != 0 || h1.poison != 0 then
    match a.who with
    | .peer f => sendReply s f .machineCheck
    | _ => machineCheck s a.launch
  else if objMalformed x a.member then
    match a.who with
    | .group k =>
      let m := ((groupOf s k).bind (·.run)).elim 0 (·.active)
      trapWaiting s k ⟨1, 0x64, firstLane m, m, 0⟩
    | .peer f => sendReply s f (.fault 1 0x64)
    | _ => s
  else
    let (y, n, rec_) := arriveObj x a.member a.stamp.toNat
    let s := bump (storeObj s line h0 h1 y) (aTask h0.ht 0x58) n
    let s := tellFlags s a.ia (objFld x 4 2) (objFld y 4 2)
    let s := match a.who with
      | .group k =>
        let s := if rec_ then countPerf s (keyCore k) 0xA2 1 else s
        updGroup s k (fun g => { g with waitRec := some (.barx (w64 a.va) a.ia a.leaf phase false false) })
      | .peer f => { s with barWaits := s.barWaits ++ [(f, a.ia, a.leaf, phase)] }
      | _ => s
    answerWaits s

/-- An arrival cannot be applied yet. -/
def arrivalHeld (s : State) (a : Arrival) : Bool :=
  (launchOf s a.launch).elim false (fun l => l.binding && (match a.who with | .group _ => true | _ => false)) ||
  -- its release comes first: what the column accepted is performed, and peers have acknowledged its writes (11 R311, R328)
  (match a.who with
    | .group k => !released s (coreCol (keyCore k)) a.upto k ||
        s.peerOut.any (fun p => p.2.2.2.col == coreCol (keyCore k) && decide (p.2.2.2.id < a.upto))
    | _ => false) ||
  (a.peer.isNone && (lineHeld s a.leaf (a.ia / 64) || lineHeld s a.leaf (a.ia / 64 + 1)))

/-- Ask the host for the lines it holds before an arrival (02 R37). -/
def askHost (s : State) (a : Arrival) : State :=
  let ask (s : State) (line : Nat) : State :=
    if hostHolds s line then askBi s line true else s
  if a.peer.isSome then s else ask (ask s (a.ia / 64)) (a.ia / 64 + 1)

/-- BARRIER_ARRIVAL: the oldest arrival that nothing holds reaches its object's home (08 R230). -/
def execBarrierArrival (s : State) : Out :=
  match takeFirst (fun a => !arrivalHeld s a) s.arrivals with
  | none => .next (s.arrivals.foldl askHost s)
  | some (a, rest) =>
    let s := { s with arrivals := rest }
    let s := if rest.any (fun a => !arrivalHeld s a) then due s [.barrierArrival] else s
    .next (match a.who, a.peer with
      | .group k, some p => sendArrival s a k p
      | _, _ =>
        match refuses s (homePa a.leaf (a.ia / 64)) with
        | some _ => (match a.who with
          | .group k => (groupOf s k).elim s (fun g => failBlock s g.block 5 0)
          | .peer f => sendReply s f .machineCheck
          | _ => s)
        | none => applyArrival s a)

/-- A launch's first `barx` starts its binding at its cluster's engine; a gang instance that an engine is still reserving is QUEUED
again, so that it is claimed like the others (08 R233). (DEDUCED, log 111) -/
def startBind (s : State) (x : Ctx) (launch va m : Nat) : State :=
  match launchOf s launch with
  | none => s
  | some l =>
    let k := colEngine (coreCol x.core)
    if l.bind.isSome || l.binding then s
    else
      let s := updLaunch s launch (fun l => { l with binding := true })
      let placing : List Nat := (s.engines.filter (fun (e : Nat × Engine) => e.2.placing.elim false (fun p =>
        e.2.entries.any (fun q => q.id == p.ent && q.launch == launch)))).map (·.1)
      let s := placing.foldl releasePlacing s
      due (updEngine s k (fun e => { e with jobs := e.jobs ++ [⟨launch, va, m, 0, 0, 0, 0, 0⟩] })) [.tileClaim (k / 12) (k % 12)]

/-- `barx` (R507, R499). -/
def execBarx (c : Ctl) (a : Fin 128) (m : Member) (s : State) : Out :=
  issue s { e := c.e, pred := 0, neg := false, own := waitingOwn c (runCount s) true
            reads := .s a.val :: (match m with | .s n => [.s n.val] | .imm _ => []) } (fun x s =>
    match x.g.waitRec with
    | some (.barx _ ia leaf phase peer told) =>
      if told || (!peer && objPhase s leaf ia != phase) then
        .ok (acquireAction (updGroup s x.key (fun g => { g with waitRec := none })) (coreCol x.core))
      else .wait s .barx
    | _ =>
      let va := sreg x.g a.val
      let member := match m with
        | .s n => sreg x.g n.val
        | .imm i => immVal i
      let launch := groupLaunch s x.g
      if va % 128 ≠ 0 then .trap s (x.trapActive 0x0A 0 va)
      else if uncommitted s x.g then .trap s (x.trapActive 0x12 0 va)
      else
        let go (s : State) (ia : Nat) (leaf : Leaf) (peer : Option Nat) : Res :=
          let (t, s) := readDtc s
          let s := releaseAction s (coreCol x.core)
          let s := startBind s x launch va member
          .wait (due { s with arrivals := s.arrivals ++ [⟨.group x.key, ia, leaf, member, t, launch, va, peer, s.reqNo⟩] }
            [.barrierArrival]) .barx
        match laneXlate x s va 128 .write true false with
        | .ok s ia leaf _ =>
          if leaf.repl || !isHbm (leaf.pa52 ia) then .trap s (x.trapActive 0x11 0 va) else go s ia leaf none
        | .peer s ia p r =>
          if r.atsc < 5 then .trap s (x.trapActive 0x11 0 va) else go s ia ⟨0, 0, 3⟩ (some p)
        | r =>
          match xlateStop x va r with
          | .ok s => .ok s
          | .trap s cause sub addr => .trap s (x.trapActive cause sub addr)
          | .brk s why => .brk s why x.r.start
          | .gone s => .gone s)

/-! ### Pipes (09 R256, R257; R508) -/

/-- A pipe of a block's gang: producer, consumer mask, depth, queue register. -/
def pipeOf (s : State) (b : Block) (p : Nat) : Option (Nat × Nat × Nat × Nat) :=
  (launchOf s b.launch).bind (fun l => (l.pipes.find? (fun e => e.1 == p)).map (·.2))

/-- The block of a gang member in an instance. -/
def memberBlock (s : State) (launch index m : Nat) : Option (Nat × Block) :=
  s.blocks.find? (fun (x : Nat × Block) => x.2.launch == launch && x.2.index == index && x.2.member == m && x.2.task.isNone)

/-- A consumer can accept: it is not stopping, saved or in transfer (R257), and its share has room. -/
def accepts (s : State) (id : Nat) (b : Block) (pipe depth : Nat) : Bool :=
  (b.state == .running || b.state == .staging) &&
  !s.migs.any (fun (m : Nat × Mig) => m.2.block == id && m.2.state == .xfer) &&
  (b.shares.find? (fun sh => sh.1 == pipe)).elim false (fun sh => decide (sh.2.length < depth))

/-- Offer an entry to the consumers of a mask: the state and the mask of those that have it now (R256). -/
def offer (s : State) (core launch index pipe depth gi : Nat) (row : Row) (mask : Nat) : State × Nat :=
  foldUpto (fun (a : State × Nat) m =>
    let (s, got) := a
    if !mask.testBit m then a
    else
      match memberBlock s launch index m with
      | none => (s, got ||| 2 ^ m)
      | some (id, b) =>
        if b.state == .done then (s, got ||| 2 ^ m)
        else if accepts s id b pipe depth then
          let row := blendRow (widthMask b.shape.width) (laneOf row) 0
          let s := updBlock s id (fun b => { b with shares := b.shares.map (fun sh =>
            if sh.1 = pipe then (sh.1, sh.2 ++ [(gi % max 1 b.shape.groups, row)]) else sh) })
          (due (countPerf s core 0xA4 1) [.pipeDelivery id pipe], got ||| 2 ^ m)
        else a) (s, 0) 8

/-- `push` (R508). -/
def execPush (c : Ctl) (v : Src) (mask : BitVec 8) (pipe : BitVec 4) (s : State) : Out :=
  issue s { ctlSpec c with ownAny := true, own := waitingOwn c (runCount s) false, srcs := [⟨v, false⟩] } (fun x s =>
    match x.g.waitRec with
    | some (.push _ _ _ _ w) =>
      if w = 0 then .ok (updGroup s x.key (fun g => { g with waitRec := none })) else .wait s .push
    | _ =>
      match ctxBlk s x with
      | none => .trap s (x.trapFirst 0x14 0x03 0)
      | some b =>
        match if isGang s b && b.task.isNone then pipeOf s b pipe.toNat else none with
        | none => .trap s (x.trapFirst 0x14 0x03 0)
        | some (prod, cons, depth, _) =>
          let want := if mask = 0 then cons else mask.toNat
          if prod ≠ b.member || want &&& cons ≠ want then .trap s (x.trapFirst 0x14 0x03 0)
          else
            let row := blendRow x.mask (fun l => w32 ((⟨v, false⟩ : Opnd).val x.g x.latch l)) 0
            let (s, got) := offer s x.core b.launch b.index pipe.toNat depth x.g.index row want
            if got = want then .ok s
            else
              .wait (updGroup s x.key (fun g => { g with waitRec := some (.push x.pc pipe.toNat row got (want - got)) })) .push)

/-- PUSH_ACCEPT: a waiting `push` offers its entry again (R256). -/
def execPushAccept (core slot : Nat) (s : State) : Out :=
  let k := gkey core slot
  match groupOf s k with
  | none => .next s
  | some g =>
    match g.waitRec, blockOf s g.block with
    | some (.push pc pipe row acc w), some b =>
      (match pipeOf s b pipe with
        | none => .next s
        | some (_, _, depth, _) =>
          let (s, got) := offer s core b.launch b.index pipe depth g.index row w
          .next (updGroup s k (fun g => { g with waitRec := some (.push pc pipe row (acc ||| got) (w - got)) })))
    | _, _ => .next s

/-- PIPE_DELIVERY: the oldest entry of a share whose group's queue register has room moves there (R256). -/
def execPipeDelivery (block pipe : Nat) (s : State) : Out :=
  match blockOf s block with
  | none => .next s
  | some b =>
    match b.core, pipeOf s b pipe, b.shares.find? (fun sh => sh.1 == pipe) with
    | some core, some (_, _, _, q), some (_, entries) =>
      let keyFor (gi : Nat) : Option Nat := (b.slots[gi]?).map (gkey core)
      let room (e : Nat × Row) : Bool :=
        ((keyFor e.1).bind (groupOf s)).elim false (fun g => g.block == block && decide ((queueAt g q).entries.length < 16))
      if b.state != .running && b.state != .stopping then .next s
      else
        (match takeFirst room entries with
          | none => .next s
          | some (e, rest) =>
            let s := updBlock s block (fun b => { b with shares := b.shares.map (fun sh => if sh.1 = pipe then (sh.1, rest) else sh) })
            let s := match keyFor e.1 with
              | some k => updGroup s k (fun g => setQueue g q { queueAt g q with entries := (queueAt g q).entries ++ [e.2] })
              | none => s
            let s := wakePushes s b.launch b.index
            .next (if rest.any room then due s [.pipeDelivery block pipe] else s))
    | _, _, _ => .next s

/-- `qlen` (R509). -/
def execQlen (c : Ctl) (d : Fin 128) (q : Fin 8) (s : State) : Out :=
  issue s { e := c.e, pred := 0, neg := false, own := groupLevel c, dst := .s d.val } (fun x s =>
    let y := queueAt x.g q.val
    let v := bit (y.entries.isEmpty && queueDry s x.g q.val) * 2 ^ 17 + bit y.pipe * 2 ^ 16 + y.pending.length * 2 ^ 8 + y.entries.length
    .ok (updGroup s x.key (fun g => setSreg g d.val v)))

end Sys2Proof.Machine
end

