-- ==== Sys2Proof/Machine/System.lean ====
section
/-! DEFINITION. Control registers and the device-wide instructions (spec/18_isa_tasks_system.md R496, R512-R519; 09 R262;
07 R189, R190; 10 R277, R278; 17 R482). -/

namespace Sys2Proof.Machine

/-! ### Control registers (R513) -/

/-- How `csrw` treats a register (R512, R513). -/
inductive CsrWrite where
  | no | priv | rules
  deriving DecidableEq, Repr, Inhabited

/-- The register table of R513: none for a number it does not list. -/
def csrKind (n : Nat) : Option CsrWrite :=
  if n ≤ 0x004 || n = 0x011 || (0x018 ≤ n && n ≤ 0x01F) || (0x020 ≤ n && n ≤ 0x022) || n = 0x030 || n = 0x031 || n = 0x033 ||
      n = 0x034 || n = 0x040 then some .no
  else if n = 0x010 || (0x080 ≤ n && n ≤ 0x09F) then some .priv
  else if n = 0x032 || n = 0x041 then some .rules
  else none

/-- GRPID (R514). -/
def csrGrpid (s : State) (slot : Nat) (g : Group) : Nat :=
  let b := if g.super then none else blockOf s g.block
  let task := b.elim false (fun b => b.task.isSome)
  bit task * 2 ^ 31 + bit (privileged s g) * 2 ^ 30 + bit g.super * 2 ^ 29 + groupLaunch s g % 256 * 2 ^ 21 +
    (if g.super then 0 else slot) * 2 ^ 16 + b.elim 0 (·.depth) % 16 * 2 ^ 8 + (if g.super || task then 0 else g.index)

/-- BUDGET and ACTWIN (07 R189). -/
def csrBudget (s : State) (core : Nat) : Nat :=
  let c := coreOf s core
  bit c.clamp * 2 ^ 31 + c.allot % 256 * 2 ^ 16 + budgetValue s core % 256
def csrActwin (s : State) (core : Nat) (g : Group) : Nat :=
  let c := coreOf s core
  bit (decide (budgetValue s core ≤ c.charge)) * 2 ^ 31 + (if g.handler.isSome || g.super then g.exempt % 4096 else 0) * 2 ^ 16 +
    c.charge % 65536

/-- MPROG (17 R482). -/
def csrMprog (g : Group) : Nat :=
  match g.mctx with
  | none => 0
  | some m =>
    let rg (i : Nat) : Nat := (m.done[i]?).getD 0 % 32
    m.state * 2 ^ 62 + bit m.z * 2 ^ 61 + efCode m.fmt * 2 ^ 58 + rg 3 * 2 ^ 15 + rg 2 * 2 ^ 10 + rg 1 * 2 ^ 5 + rg 0

/-- KICK (10 R278). (DEDUCED, log 74) -/
def csrKick (s : State) (core : Nat) : Nat :=
  (coreOf s core).kicks.length % 128 * 2 ^ 16 + bteOutstanding s core % 1024

/-- STAGE (10 R277). -/
def csrStage (s : State) (g : Group) : Nat :=
  match if g.super then none else blockOf s g.block with
  | none => 0
  | some b =>
    let last := if b.task.isSome then 0 else ((kernelOf s b).elim [] (·.schedule)).foldl (fun n e => max n e.stage) 0
    last % 64 * 2 ^ 16 + b.kfet % 1024 * 2 ^ 6 + b.stage % 64

/-- TCAUSE (09 R262). -/
def csrTcause (g : Group) : Nat :=
  bit g.handler.isSome * 2 ^ 31 + bit g.super * 2 ^ 30 + g.trap.sub.toNat * 2 ^ 16 + g.trap.cause.toNat

/-- The value `csrr` reads, and the state after (R512, R513). -/
def csrValue (s : State) (core slot : Nat) (g : Group) (n : Nat) : Nat × State :=
  match n with
  | 0x000 => (csrGrpid s slot g, s)
  | 0x001 => ((blockOf s g.block).elim 0 (fun b => b.index % 2 ^ 24), s)
  | 0x002 => (coreCol core % 192, s)
  | 0x003 => (coreLayer core, s)
  | 0x004 => (colTower (coreCol core), s)
  | 0x010 => (csrBudget s core, s)
  | 0x011 => (csrActwin s core g, s)
  | 0x020 => (csrMprog g, s)
  | 0x021 => (csrKick s core, s)
  | 0x022 => (csrStage s g, s)
  | 0x030 => (csrTcause g, s)
  | 0x031 => (g.trap.pc.toNat, s)
  | 0x032 => (g.trap.lane % 128, s)
  | 0x033 => (g.trap.addr.toNat, s)
  | 0x034 => (g.trap.mask.toNat, s)
  | 0x040 => let (t, s) := readDtc s; (t.toNat, s)
  | 0x041 => (frndBits g.frnd, s)
  | n =>
    if 0x018 ≤ n && n ≤ 0x01F then (weight (coreOf s core) (n - 0x018), s)
    else if 0x080 ≤ n && n ≤ 0x08F then (nget (coreOf s core).perf (n - 0x080), s)
    else (nget (coreOf s core).perfsel (n - 0x090), s)

/-- `csrr` (R512). -/
def execCsrr (c : Ctl) (d : Fin 128) (n : BitVec 12) (s : State) : Out :=
  issue s { e := c.e, pred := 0, neg := false, dst := .s d.val
            own := if !c.plain then some (1, 0x60) else if (csrKind n.toNat).isNone then some (1, 0x61) else none }
    (fun x s =>
      let (v, s) := csrValue s x.core (keySlot x.key) x.g n.toNat
      .ok (updGroup s x.key (fun g => setSreg g d.val v)))

/-- A value lands in a writable register, or the write is discarded (R512; 09 R262, 13 R386, 07 R189, R516). -/
def csrWrite (s : State) (x : Ctx) (n v : Nat) : Option State :=
  let core := coreOf s x.core
  if n = 0x010 then
    let u := v % 256
    if core.allot < u || (core.clamp && 48 < u) then none else some (setCore s x.core { core with pendValue := some u })
  else if n = 0x032 then
    let l := v % 2 ^ 32
    if x.g.handler.isSome && (l == 64 || (decide (l < 64) && inMask x.g.trap.mask l)) then
      some (updGroup s x.key (fun g => { g with trap := { g.trap with lane := l } }))
    else none
  else if n = 0x041 then
    if v % 8 ≥ 6 then none else some (updGroup s x.key (fun g => { g with frnd := frndOf g.frnd v }))
  else if 0x080 ≤ n && n ≤ 0x08F then some (setCore s x.core { core with perf := nset core.perf (n - 0x080) (v % 2 ^ 64) })
  else if 0x090 ≤ n && n ≤ 0x09F then
    some (setCore s x.core { core with perfsel := nset core.perfsel (n - 0x090) (v / 2 ^ 31 % 2 * 2 ^ 31 + v % 256) })
  else none

/-- `csrw` (R512, R496). -/
def execCsrw (c : Ctl) (v : Fin 128) (n : BitVec 12) (s : State) : Out :=
  issue s { e := c.e, pred := 0, neg := false, reads := [.s v.val], priv := csrKind n.toNat == some .priv
            own := if !c.plain then some (1, 0x60) else if (csrKind n.toNat).isNone then some (1, 0x61) else none }
    (fun x s =>
      match csrWrite s x n.toNat (sreg x.g v.val) with
      | some s => .ok s
      | none => .ok (countPerf s x.core 0xA7 1))

/-! ### `wsync` (R517, 04 R114) -/

/-- Lines of a column that `wsync` writes to DRAM after its pushes: dirty copies, and lines of requests on their way. -/
def touchedLines (s : State) (col : Nat) : List (Nat × Leaf) :=
  (columnLines s col).filterMap (fun (e : Nat × L1Line) => if e.2.dirty != 0 then some (e.1, e.2.leaf) else none) ++
  ((s.reqs ++ s.held.map (·.1)).filterMap (fun r => if r.col = col && r.peer.isNone then some (r.line, r.leaf) else none))

/-- `wsync`: pushes and write-backs, the leaf caches emptied and walks marked, then the wait (R114).
(DEDUCED, log 59) -/
def execWsync (c : Ctl) (s : State) : Out :=
  issue s { e := c.e, pred := 0, neg := false, priv := true, own := groupLevel c } (fun x s =>
    let col := coreCol x.core
    let lines := (touchedLines s col).filter (fun (e : Nat × Leaf) => isHbm (e.2.pa52 (64 * e.1)))
    let s := releaseAction s col
    let s := lines.foldl (fun s (e : Nat × Leaf) =>
      enqueue s ⟨0, col, none, .writeback false, e.1, 0, .wt, .pkg, .normal, false, false, .none, e.2, none, 9999, false⟩) s
    let s := (s.home.filter (fun (h : Nat × HomeLine) => h.2.dirty && isHbm h.2.pa)).foldl (fun s (h : Nat × HomeLine) => writeBack s h.1) s
    -- a leaf that its requester still holds goes with the caches: it is walked for again
    let s := { s with
      leaves := [], walks := s.walks.map (fun w => { w with marked := true })
      groups := s.groups.map (fun (e : Nat × Group) => (e.1, { e.2 with walked := none }))
      bte := s.bte.map (fun (e : Nat × List BteReq) => (e.1, e.2.map (fun r => { r with walked := none })))
      engines := s.engines.map (fun (e : Nat × Engine) => (e.1, { e.2 with walked := none })) }
    if wsyncWaits s s.reqNo then
      .gone (leaveSlot (countPerf (complete s x.key x.next c.e false 1 [] []) x.core 0x17 1) x.key (.waiting (.wsync s.reqNo)))
    else .ok s)

/-! ### `rinv` (R518, 04 R104) -/

def execRinv (c : Ctl) (v : Fin 128) (s : State) : Out :=
  issue s { e := c.e, pred := 0, neg := false, priv := true, own := groupLevel c, reads := [.s v.val] } (fun x s =>
    let name := sreg x.g v.val % 2 ^ 32
    let names (l : Launch) : Bool := name == 0xFFFFFFFF || (!l.handler && l.cmd.toNat == name)
    if s.launches.any (fun (e : Nat × Launch) => names e.2) then
      let s := { s with launches := s.launches.map (fun (e : Nat × Launch) =>
        (e.1, if names e.2 then { e.2 with ranges := none } else e.2)) }
      let drop (g : Group) : Group := if (launchOf s (groupLaunch s g)).elim false names then { g with parcels := [] } else g
      let s := { s with groups := s.groups.map (fun (e : Nat × Group) => (e.1, drop e.2)) }
      waitDrain x c.e s true false false
    else .ok s)

/-! ### `halt` (R519) -/

/-- HALTST (R519). -/
def aHaltst : Nat := 0x20

def execHalt (c : Ctl) (v : Fin 128) (s : State) : Out :=
  issue s { e := c.e, pred := 0, neg := false, priv := true, own := groupLevel c, reads := [.s v.val] } (fun x s =>
    if s.halted then .ok s
    else
      let st := 2 ^ 63 + coreLayer x.core * 2 ^ 48 + coreCol x.core * 2 ^ 32 + sreg x.g v.val % 2 ^ 32
      .ok (raiseEvent (setMreg { s with halted := true } aHaltst st) 7))

end Sys2Proof.Machine
end

