-- ==== Sys2Proof/Machine/Run.lean ====
section
/-! DEFINITION. The issue slot: grants between runs, resumption after breaks and waits, supervisors, and what a core
fetches to issue (spec/06 R174, spec/09 R244-R249, R263-R265, spec/12 R331-R333, R348, R353-R355, spec/04 R120). -/

namespace Sys2Proof.Machine

/-! ### Supervisors (09 R263) -/

/-- A trap's cause and subcode as a supervisor's registers show them. -/
def trapWord (t : Trap) : Word64 := w64 (t.sub.toNat * 2 ^ 16 + t.cause.toNat)

/-- s0-s9 of a supervisor that serves the frozen group of key k. (DESIGN CHOICE, log 33) -/
def supervisorArgs (s : State) (k : Nat) (g : Group) : List Word64 :=
  let t := g.trap
  let u := g.trap2.getD Trap.zero
  let l := groupLaunch s g
  let core := keyCore k
  [w64 (coreCol core + coreLayer core * 2 ^ 16 + keySlot k * 2 ^ 18), trapWord t, t.pc, t.addr, t.mask, w64 t.lane,
    trapWord u, u.pc, u.addr, w64 ((launchOf s l).elim 0 (fun x => x.cmd.toNat) + l * 2 ^ 32)]

/-- SVENTRY of a tower (09 R266). -/
def svEntry (s : State) (t : Nat) : Nat := mreg s (aCore t 0)

/-- SUPERVISOR_START: with its slot free and SVENTRY nonzero, the core starts a supervisor for its oldest waiting frozen
group (R263, R264). -/
def execSupervisorStart (core : Nat) (s : State) : Out :=
  let c := coreOf s core
  let entry := svEntry s (colTower (coreCol core))
  match c.frozen with
  | [] => .next s
  | k :: rest =>
    if (groupOf s (gkey core 32)).isSome || entry = 0 || s.halted || s.thermal then .next s
    else
      match groupOf s k with
      | none => .next (setCore s core { c with frozen := rest })
      | some g =>
        let x := freshGroup g.block 0 16 (w64 entry) (supervisorArgs s k g) [] c.cycles
        let x := { x with super := true, exempt := 2048, trap := g.trap2.getD Trap.zero }
        .next (setGroup (setCore s core { c with frozen := rest, serves := some k }) (gkey core 32) x)

/-! ### Resumption (09 R244, R248, R249) -/

/-- Commands in a bank's queue (05 R143). (DEDUCED, log 77) -/
def bankCount (s : State) (bank : Nat) : Nat :=
  (s.bankCmds.filter (fun b => b.queued && bankOf (b.leaf.pa52 (64 * b.line)) == bank)).length

/-- The cause of a break has cleared. A walk and a parked access wake their group themselves. -/
def breakCleared (s : State) (k : Nat) (g : Group) : BreakWhy → Bool
  | .operand rs => rs.all (fun r => !awaits g r)
  | .queue q n => decide (n ≤ (queueAt g q).entries.length) || queueDry s g q
  | .ldqRoom q => decide ((queueAt g q).entries.length + (queueAt g q).pending.length < 16)
  | .rows n => rowsFit s (keyCore k) g.block n
  | .budget => decide ((coreOf s (keyCore k)).charge < budgetValue s (keyCore k)) || g.exempt != 0
  | .walk _ | .parked _ => false
  | .kickFull => decide ((coreOf s (keyCore k)).kicks.length < 64) && (blockOf s g.block).elim true (·.recKicks.isEmpty)
  | .matrix => !mmaInFlight g && decide ((coreOf s (keyCore k)).mmas.length < 4)
  | .chunks f n => (blockOf s g.block).elim true (fun b =>
      (List.range n).all (fun i => ownerOf b .cbuf (f + i) != some 1))
  | .bankFull bank => decide (bankCount s bank < 16)
  | .order => g.pendingOrd.isEmpty && !loadsLate g
  | .release c n k => released s c n k

/-- A group's block is to stop, or its task is doomed, so a sleep ends early (14 R416). -/
def stopping (s : State) (g : Group) : Bool :=
  (blockOf s g.block).elim false (fun b => b.state == .stopping) || doomedTask s g ||
  s.migs.any (fun (m : Nat × Mig) => m.2.block == g.block && m.2.state == .stop)

/-- A wait is over, or the instruction would trap (18 R499). -/
def waitCleared (s : State) (k : Nat) (g : Group) : WaitWhy → Bool
  | .fget h => (futOf s (handleEntry h)).state == .done || (handleFault s h).isSome
  | .xwait f cs => (blockOf s g.block).elim true (fun b => cs.all (fun c => (ownerOf b f c).isNone))
  | .bar => (match g.waitRec, blockOf s g.block with
    | some (.bar i gen), some b => barGen b i != gen
    | _, _ => true)
  | .barx => (match g.waitRec with
    | some (.barx _ ia leaf phase peer told) => told || (!peer && objPhase s leaf ia != phase)
    | _ => false)
  | .push => (match g.waitRec with
    | some (.push _ _ _ _ w) => w == 0
    | _ => true)
  | .sleep u => decide (u ≤ (coreOf s (keyCore k)).cycles) || stopping s g
  | .wsync upto => !wsyncWaits s upto
  | .drain upto all _ _ =>
    if liveMask g = 0 then exitReady s k g
    else !outstanding s (if all then none else some (coreCol (keyCore k))) upto && !bankPending s (if all then none else some k)

/-- The cause of a break or a wait has cleared. -/
def causeCleared (s : State) (k : Nat) (g : Group) : Bool :=
  match g.status with
  | .broken why => breakCleared s k g why
  | .waiting why => waitCleared s k g why
  | _ => false

/-- A group whose cause has cleared becomes READY, at its instruction; one with no live lane left exits. -/
def resumeGroup (s : State) (k : Nat) (g : Group) : State :=
  let s := countWait s k g
  -- a sequential fence acquires before what follows it (11 R305), a task before its first instruction (08 R214)
  let s := match g.status with
    | .waiting (.drain _ _ _ true) | .broken (.release _ _ _) => acquireAction s (coreCol (keyCore k))
    | _ => s
  if liveMask g = 0 then groupExit s k else wakeGroup s k

/-- RUN_RESUME: the cause of a break or a wait has cleared (R244, R249). -/
def execRunResume (core slot : Nat) (s : State) : Out :=
  match groupOf s (gkey core slot) with
  | none => .next s
  | some g => .next (if causeCleared s (gkey core slot) g then resumeGroup s (gkey core slot) g else s)

/-- YIELD_TIMEOUT: 256 cycles have passed since a `yield` (14 R415). -/
def execYieldTimeout (core slot : Nat) (s : State) : Out :=
  .next (updGroup s (gkey core slot) (fun g => { g with yielded := false }))

/-- SLEEP_EXPIRE: the cycles of a `sleep` have passed on its core (14 R416). -/
def execSleepExpire (core slot : Nat) (s : State) : Out :=
  match groupOf s (gkey core slot) with
  | none => .next s
  | some g =>
    match g.status with
    | .waiting (.sleep u) =>
      let s := tick s core (u - (coreOf s core).cycles)
      .next (resumeGroup s (gkey core slot) g)
    | _ => .next s

/-! ### Grants (06 R174) -/

/-- A group at a run boundary may begin a run: its block is neither stopping nor being moved, and its task not doomed
(06 R181, 07 R198, 08 R225). -/
def boundaryOpen (s : State) (g : Group) : Bool :=
  g.super ||
  ((blockOf s g.block).elim false (fun b => b.state == .running) && !doomedTask s g &&
   !s.migs.any (fun (m : Nat × Mig) => m.2.block == g.block && m.2.state != .defer))

/-- The groups of a core that compete: slot and group. -/
def competing (s : State) (core : Nat) : List (Nat × Group) :=
  (s.groups.filterMap (fun (e : Nat × Group) =>
    if keyCore e.1 = core && e.2.status == .ready && (e.2.run.isSome || boundaryOpen s e.2) then some (keySlot e.1, e.2) else none))

/-- Those that the yielded ones leave, or all when no other is READY (14 R415). -/
def contenders (s : State) (core : Nat) : List (Nat × Group) :=
  let c := competing s core
  let c' := c.filter (fun x => !x.2.yielded)
  if c'.isEmpty then c else c'

/-- Priority of a group: its launch's, 7 for a supervisor (R174, 09 R263). -/
def groupPrio (s : State) (g : Group) : Nat := if g.super then 7 else launchPrio s (groupLaunch s g)

/-- The keys of R174. -/
def grantBefore (s : State) (core : Nat) (a b : Nat × Group) : Bool :=
  let now := (coreOf s core).cycles
  let wa := now - a.2.since
  let wb := now - b.2.since
  let pa := groupPrio s a.2
  let pb := groupPrio s b.2
  let aged (w : Nat) : Bool := decide (4096 ≤ w)
  if aged wa != aged wb then aged wa
  else if aged wa then (decide (wb < wa) || (wa == wb && (decide (pb < pa) || (pa == pb && decide (a.1 < b.1)))))
  else if pa ≠ pb then decide (pb < pa)
  else if wa ≠ wb then decide (wb < wa)
  else decide (a.1 < b.1)

/-! ### Fetch (04 R103, R120; 12 R331-R333, R354) -/

/-- An instruction that could not be fetched counts as complete: `n` bytes of it were at hand, and the parcel that was not is its last
(09 R261; DEDUCED, log 103). -/
def skipUnfetched (s : State) (k : Nat) (r : Run) (n : Nat) : State := complete s k (r.pc + w64 (n + 4)) false false 1 [] []

/-- What a fetch that did not give a parcel comes to: a fault traps on every active lane at the run's pc (04 R120). -/
def fetchStop (_ : State) (k : Nat) (r : Run) (va : Nat) : XRes → State
  | .ok s _ _ _ => s
  | .peer s _ _ _ => s
  | .trap s cause sub =>
    -- TLANE 64 after its trap: the instruction counts as complete, its second parcel, when that is what fails, with it (09 R261)
    if r.start ≥ 64 then skipUnfetched s k r (va % 2 ^ 64 - r.pc.toNat) else takeTrap s k ⟨cause, sub, firstLane r.active, r.active, 0⟩
  | .walk s => breakRun s k (.walk va) r.start
  | .park s sub l q =>
    let s := parkRequest s q sub l
    (match groupOf s k with
      | none => s
      | some g => (match g.status with
        | .broken why => breakRun s k why r.start
        | _ => breakRun s k (.parked 2048) r.start))
  | .dead s => s

/-- Fetch the parcels of a run from an address on, to its end or 24 instructions (04 R120): what stopped it, if
anything. (DEDUCED, log 28) -/
def scanRun (s : State) (k : Nat) (g : Group) (r : Run) (left va : Nat) : Nat → State × Bool
  | 0 => (s, true)
  | n + 1 =>
    if left = 0 then (s, true)
    else
      match fetchParcel s k g va with
      | .stop x => (fetchStop s k r va x, false)
      | .wait s => (breakRun s k (.walk va) r.start, false)
      | .ok s w =>
        match w.toNat % 4 with
        | 3 => (s, true)
        | 2 => (match fetchSecond s k g va with
          | .stop x => (fetchStop s k r va x, false)
          | .wait s => (breakRun s k (.walk (va + 4)) r.start, false)
          | .ok s _ => if w.toNat.testBit 2 then (s, true) else scanRun s k g r (left - 1) (va + 8) n)
        | 1 => if w.toNat.testBit 2 then (s, true) else scanRun s k g r left (va + 4) n
        | _ => if w.toNat.testBit 2 then (s, true) else scanRun s k g r (left - 1) (va + 4) n

/-- Storage that the groups of a core read: their registers, their blocks' buffers, their column L1, and what serves their
launches (01 R29). -/
def Store.onCore (s : State) (core : Nat) : Store → Bool
  | .registers k => keyCore k == core
  | .buffer b => (blockOf s b).elim false (fun b => b.core == some core)
  | .columnL1 c _ => c == coreCol core
  | .counters n => (resident s core).any (fun b => b.2.launch == n)
  | _ => false

/-- ISSUE_GRANT: the core gives its free issue slot to the group that R174 ranks first; a new run is selected and its
parcels are fetched. Doomed tasks at the boundary go to their Goat instead (08 R225). An error in what its groups read is
met first (01 R29). -/
def execIssueGrant (core : Nat) (s : State) : Out :=
  if s.halted || s.thermal || (coreOf s core).issuing.isSome then .next s
  else
    let s := meetStrikes s (Store.onCore s core)
    let s := (resident s core).foldl (fun s (b : Nat × Block) => reclaimIf s b.1) s
    match bestBy (grantBefore s core) (contenders s core) with
    | none => .next s
    | some (slot, g) =>
      let k := gkey core slot
      let s := updCore s core (fun c => { c with issuing := some slot, idleFrom := c.cycles })
      let s := match g.run with
        | some _ =>
          -- hold and release at the resumption too; the run keeps its active mask (09 R245)
          setGroup (countPerf s core 0x19 (releases g)) k { releaseHeld g with status := .issuing, yielded := false }
        | none =>
          let s := countPerf (countPerf s core 0x19 (releases g)) core 0x10 1
          let s := { s with groups := s.groups.map (fun (e : Nat × Group) =>
            (e.1, if keyCore e.1 = core && e.1 != k then { e.2 with yielded := false } else e.2)) }
          setGroup s k (startRun g)
      match groupOf s k with
      | none => .next s
      | some g =>
        match g.run with
        | none => .next s
        | some r =>
          if r.count = 0 && r.start = 0 && r.pre.isNone && r.pc.toNat % 4 = 0 then .next (scanRun s k g r 24 r.pc.toNat 50).1
          else .next s

/-- The stream mask of a parcel that does not decode, or the active mask (12 R355). -/
def faultMask (g : Group) (r : Run) (p : Word) : LaneMask :=
  let m := match p.toNat % 4 with
    | 0 => r.active &&& preg g (Short.ofParcel p).pred.toNat
    | 2 =>
      let l := Long.ofParcels p 0
      r.active &&& (if l.neg then ~~~preg g l.pred.toNat else preg g l.pred.toNat)
    | _ => r.active
  if m = 0 then r.active else m

/-- A short instruction as a half of a pair (R348-R350); none for a prefix or a long instruction. -/
def pairFn : Instr → Option (Group → Option Pfx → Nat → PairOp)
  | .nopShort _ pred e => some (fun _ _ _ => ⟨sNop pred e, false, true⟩)
  | .iaddShort o => some (fun _ p _ => ⟨sIadd o p, false, false⟩)
  | .isubShort o => some (fun _ p _ => ⟨sIsub o p, false, false⟩)
  | .imulShort o => some (fun _ p _ => ⟨sImul o p, false, false⟩)
  | .imulhShort o => some (fun _ p _ => ⟨sImulh o p, false, false⟩)
  | .iminShort o => some (fun _ p _ => ⟨sImin o p, false, false⟩)
  | .imaxShort o => some (fun _ p _ => ⟨sImax o p, false, false⟩)
  | .iabsShort o => some (fun _ p _ => ⟨sIabs o p, false, false⟩)
  | .andShort o => some (fun _ p _ => ⟨sAnd o p, false, false⟩)
  | .orShort o => some (fun _ p _ => ⟨sOr o p, false, false⟩)
  | .xorShort o => some (fun _ p _ => ⟨sXor o p, false, false⟩)
  | .andnShort o => some (fun _ p _ => ⟨sAndn o p, false, false⟩)
  | .shlShort o => some (fun _ p _ => ⟨sShl o p, false, false⟩)
  | .shrShort o => some (fun _ p _ => ⟨sShr o p, false, false⟩)
  | .sarShort o => some (fun _ p _ => ⟨sSar o p, false, false⟩)
  | .rotlShort o => some (fun _ p _ => ⟨sRotl o p, false, false⟩)
  | .popcShort o => some (fun _ p _ => ⟨sPopc o p, false, false⟩)
  | .clzShort o => some (fun _ p _ => ⟨sClz o p, false, false⟩)
  | .brevShort o => some (fun _ p _ => ⟨sBrev o p, false, false⟩)
  | .movShort o => some (fun _ p _ => ⟨sMov o p, false, false⟩)
  | .moviShort pred k d e => some (fun _ p _ => ⟨sMovi pred k d e p, false, false⟩)
  | .faddShort o => some (fun g p n => ⟨shortFp2 o fnAdd g p n, false, false⟩)
  | .fsubShort o => some (fun g p n => ⟨shortFp2 o fnSub g p n, false, false⟩)
  | .fmulShort o => some (fun g p n => ⟨shortFp2 o (fun _ => fnMul) g p n, false, false⟩)
  | .fminShort o => some (fun g p n => ⟨shortFp2 o (fun _ => fnMin) g p n, false, false⟩)
  | .fmaxShort o => some (fun g p n => ⟨shortFp2 o (fun _ => fnMax) g p n, false, false⟩)
  | .frcpShort o => some (fun g p n => ⟨shortFp1 o fRcp g p n, true, false⟩)
  | .frsqShort o => some (fun g p n => ⟨shortFp1 o fRsq g p n, true, false⟩)
  | .fsqrtShort o => some (fun g p n => ⟨shortFp1 o fSqrt g p n, true, false⟩)
  | .fexp2Short o => some (fun g p n => ⟨shortFp1 o fExp2 g p n, true, false⟩)
  | .flog2Short o => some (fun g p n => ⟨shortFp1 o fLog2 g p n, true, false⟩)
  | .fsinShort o => some (fun g p n => ⟨shortFp1 o fSin g p n, true, false⟩)
  | .fcosShort o => some (fun g p n => ⟨shortFp1 o fCos g p n, true, false⟩)
  | .ftanhShort o => some (fun g p n => ⟨shortFp1 o fTanh g p n, true, false⟩)
  | .cvtShort o => some (fun g p n => ⟨sCvt o g p n, false, false⟩)
  | _ => none

/-- What the core found at its group's pc. -/
inductive FetchOut where
  /-- no instruction issues -/
  | done (s : State)
  /-- one instruction, `cur` set for it -/
  | one (s : State) (i : Instr)
  /-- a pair -/
  | two (s : State) (a b : Group → Option Pfx → Nat → PairOp)

/-- The group's trap entry (09 R260). -/
def trapEntryOf (s : State) (g : Group) : Word64 := ((blockOf s g.block).bind (kernelOf s)).elim 0 (·.trapEntry)

/-- An entry that is no parcel an instruction may begin at: cause 0x07 at a trap entry, else 0x01 (12 R354, 09 R260). -/
def entryFault (s : State) (g : Group) (r : Run) : Nat × Nat :=
  if g.handler.isSome && r.count = 0 && r.pre.isNone && r.pc == trapEntryOf s g then (0x07, 0) else (0x01, 0x07)

/-- A fault of the parcel p at the pc, found as it issues (12 R355). (DEDUCED, log 31) -/
def decodeTrap (s : State) (k : Nat) (g : Group) (r : Run) (p : Word) (m : LaneMask) (cause sub : Byte) : State :=
  let (c, x) := if p.toNat % 4 = 3 then entryFault s g r else (cause.toNat, sub.toNat)
  takeTrap s k ⟨c, x, firstLane m, m, 0⟩

/-- An instruction that does not decode, whose TLANE a handler left at 64, counts as complete (09 R261). -/
def skipUndecoded (s : State) (k : Nat) (r : Run) (p : Word) : State :=
  complete s k (r.pc + (if p.toNat % 4 = 2 then 8 else 4)) (p.toNat.testBit 2 && p.toNat % 4 != 3) false 1 [] []

/-- Fetch and decode for the group that holds a core's issue slot (12 R331-R333, R348). -/
def fetchIssue (s : State) (core slot : Nat) : FetchOut :=
  let k := gkey core slot
  match groupOf s k with
  | none => .done (updCore s core (fun c => { c with issuing := none }))
  | some g =>
    match g.run with
    | none => .done (leaveSlot s k .ready)
    | some r =>
      let va := r.pc.toNat
      if va % 4 ≠ 0 && r.start ≥ 64 then .done (skipUnfetched s k r 0)
      else if va % 4 ≠ 0 then
        let f := entryFault s g r
        .done (takeTrap s k ⟨f.1, f.2, firstLane r.active, r.active, 0⟩)
      else
        match fetchParcel s k g va with
        | .stop x => .done (fetchStop s k r va x)
        | .wait s => .done (breakRun s k (.walk va) r.start)
        | .ok s p =>
          let pre := r.pre.map (·.1)
          let second := if p.toNat % 4 = 2 then fetchSecond s k g va else .ok s 0
          match second with
          | .stop x => .done (fetchStop s k r (va + 4) x)
          | .wait s => .done (breakRun s k (.walk (va + 4)) r.start)
          | .ok s q =>
            match decodeAt pre p q with
            | .fault cause sub =>
              .done (if r.start ≥ 64 then skipUndecoded s k r p else decodeTrap s k g r p (faultMask g r p) cause sub)
            | .instr i n =>
              let one := FetchOut.one { s with cur := some ⟨core, slot, r.pc, 4 * n⟩ } i
              if p.toNat % 4 ≠ 0 || pre.isSome || p.toNat.testBit 2 || va % 8 ≠ 0 then one
              else
                match fetchParcel s k g (va + 4) with
                | .stop x => .done (fetchStop s k r (va + 4) x)
                | .wait s => .done (breakRun s k (.walk (va + 4)) r.start)
                | .ok s w =>
                  if w.toNat % 4 ≠ 0 then .one { s with cur := some ⟨core, slot, r.pc, 4⟩ } i
                  else
                    match decodeAt none w 0 with
                    | .fault cause sub =>
                      let m := faultMask g r w ||| (r.active &&& preg g (Short.ofParcel p).pred.toNat)
                      .done (if r.start ≥ 64 then complete s k (r.pc + 8) (w.toNat.testBit 2) false 2 [] []
                        else takeTrap s k ⟨cause.toNat, sub.toNat, firstLane m, m, 0⟩)
                    | .instr j _ =>
                      match pairFn i, pairFn j with
                      | some a, some b => .two { s with cur := some ⟨core, slot, r.pc, 8⟩ } a b
                      | _, _ => .one { s with cur := some ⟨core, slot, r.pc, 4⟩ } i

/-! ### What the part does next -/

/-- Events that go on in the background, between which cores issue. -/
def background : Instr → Bool
  | .bteTransactionIssue _ | .kickFetch _ => true
  | _ => false

/-- Cores that hold a group, from the core whose turn it is. -/
def busyCores (s : State) : List Nat :=
  let cs := (s.groups.map (fun (e : Nat × Group) => keyCore e.1)).eraseDups
  cs.filter (fun c => decide (s.turn ≤ c)) ++ cs.filter (fun c => decide (c < s.turn))

/-- The first broken or waiting group whose cause has cleared. -/
def clearedGroup (s : State) : Option (Nat × Nat) :=
  (s.groups.find? (fun (e : Nat × Group) => causeCleared s e.1 e.2)).map (fun e => (keyCore e.1, keySlot e.1))

/-- A core whose slot is free and for which some group competes. -/
def grantCore (s : State) : Option Nat :=
  (busyCores s).find? (fun c => (coreOf s c).issuing.isNone && !(competing s c).isEmpty)

/-- A sleeping group whose cycles have passed (14 R416). -/
def wokenGroup (s : State) : Option (Nat × Nat) :=
  (s.groups.find? (fun (e : Nat × Group) => match e.2.status with
    | .waiting (.sleep u) => decide (u ≤ (coreOf s (keyCore e.1)).cycles)
    | _ => false)).map (fun e => (keyCore e.1, keySlot e.1))

/-- The cycles that pass at once on a core with nothing to issue: one while its matrix unit works, else to the end of its
window or of a sleep, where a group waits for one, or is broken on allocation (07 R187, 14 R416, 09 R253).
(DESIGN CHOICE, log 17) -/
def idleCycles (s : State) (core : Nat) : Option Nat :=
  let c := coreOf s core
  let left := 32 - c.cycles % 32
  if !c.mmas.isEmpty then some 1
  else
    (s.groups.filterMap (fun (e : Nat × Group) =>
      if keyCore e.1 ≠ core then none
      else match e.2.status with
        | .broken .budget => if budgetValue s core != 0 || c.pendValue.isSome then some left else none
        -- until the group's allocation is relieved (09 R253)
        | .broken (.rows _) => if c.cycles - c.idleFrom < 4096 then some left else none
        | .waiting (.sleep u) => some (min left (u - c.cycles))
        | _ => none)).min?

/-- A group is broken on allocation. -/
def rowsShort (g : Group) : Bool := match g.status with
  | .broken (.rows _) => true
  | _ => false

/-- The block that a core saves to free rows: the most recently placed one with a group broken on allocation; none while a save
slot is wanting or an earlier such save is under way (09 R253). -/
def spillVictim (s : State) (core : Nat) : Option (Nat × Block) :=
  if (coreOf s core).issuing.isSome || (saveSlotFor s (coreCol core)).isNone ||
    (resident s core).any (fun b => b.2.spill) then none
  else
    bestBy (fun (a b : Nat × Block) => decide (b.2.placed < a.2.placed)) ((resident s core).filter (fun (b : Nat × Block) =>
      b.2.state == .running && !s.migs.any (fun (m : Nat × Mig) => m.2.block == b.1) &&
        (blockGroups s b.2 b.1).any (fun g => rowsShort g.2)))

/-- A core that has issued nothing for 4,096 cycles saves a block whose group is broken on allocation (09 R253). -/
def spillWork (s : State) : Option Instr :=
  if s.halted || s.thermal then none
  else
    (s.groups.find? (fun (e : Nat × Group) =>
      let c := coreOf s (keyCore e.1)
      rowsShort e.2 && decide (4096 ≤ c.cycles - c.idleFrom) && (spillVictim s (keyCore e.1)).isSome)).map
        (fun e => .regspillSave (keyCore e.1))

/-- What the first core in turn does: the group that holds its issue slot goes on, or cycles pass. -/
def nextCore (s : State) : Option (Nat × (Nat ⊕ Nat)) :=
  (busyCores s).findSome? (fun c =>
    match (coreOf s c).issuing with
    | some sl => some (c, .inl sl)
    | none => (idleCycles s c).map (fun n => (c, .inr n)))

end Sys2Proof.Machine
end

