-- ==== Sys2Proof/Machine/Bank.lean ====
section
/-! DEFINITION. Bank-side operations and dead regions: `nmo`, its commands at home and at the bank, and DRCMD
(spec/05_hbm_stacks.md R137-R149, spec/17 R490-R493). -/

namespace Sys2Proof.Machine

/-! ### What the bank computes (R140) -/

/-- a · y + x rounded once to nearest even in a format. -/
def fmaCode (F : Fmt) (a : Num) (y x : Nat) : Nat :=
  encFmt F (roundF F 0 0 (numAdd false (numMul a (decFmt F y)).1 (decFmt F x)).1).1

/-- One 32-bit word of an element-wise command. -/
def nmoWord (op : NmoKind) (a y x : Nat) : Nat :=
  let halves (f : Nat → Nat → Nat) : Nat := f (y % 2 ^ 16) (x % 2 ^ 16) + 2 ^ 16 * f (y / 2 ^ 16) (x / 2 ^ 16)
  let an := decFmt fmt32 a
  match op with
  | .addF32 => addCode fmt32 y x
  | .addBf16x2 => halves (addCode fmtB16)
  | .addS32 => (y + x) % 2 ^ 32
  | .maxF32 => encFmt fmt32 (numMax (decFmt fmt32 y) (decFmt fmt32 x))
  | .maxS32 => opMax .s32 y x
  | .saccF32 => fmaCode fmt32 an y x
  | .saccBf16 => halves (fun y x => encFmt fmtB16 (roundF fmtB16 0 0 (numAdd false (numMul an (decFmt fmtB16 y)).1 (decFmt fmtB16 x)).1).1)
  | .cas32 | .cas64 => y

/-- The line after a command, and the old word of a compare-exchange. -/
def nmoLine (b : BankCmd) (y : Line) : Line × Nat :=
  let cas (n : Nat) : Line × Nat :=
    let old := lineField y b.off n
    (if old = b.c % 2 ^ (8 * n) then mergeLine (byteMask b.off n) (linePlace b.w b.off n) y else y, old)
  match b.op with
  | .cas32 => cas 4
  | .cas64 => cas 8
  | op =>
    let new := BitVec.ofNat 512 (packNat 32 (fun i => nmoWord op b.c (lineField y (4 * i) 4) (lineField b.data (4 * i) 4)) 16)
    (mergeLine b.mask new y, 0)

/-! ### Commands at home (R141-R143) -/

def BankCmd.pa (b : BankCmd) : Nat := b.leaf.pa52 (64 * b.line) / 64 * 64

/-- A command cannot go on from home yet: its line is busy or held, or its bank's queue is full (R141-R143). -/
def cmdWaits (s : State) (b : BankCmd) : Bool :=
  (match mget s.home b.line with
    | some h => h.busy != 0 || h.hostBit
    | none => false) ||
  s.keyLoads.any (·.1 == b.leaf.key) ||
  decide (16 ≤ bankCount s (bankOf b.pa)) ||
  s.bankCmds.any (fun x => x.line == b.line && x.group == b.group && decide (x.id < b.id)) ||
  (b.group.isSome && (s.reqs.any (fun r => r.line == b.line && r.group == b.group && decide (r.id < b.id)) ||
    s.held.any (fun r => r.1.line == b.line && r.1.group == b.group && decide (r.1.id < b.id))))

/-- The host is asked for the lines commands wait for (02 R37). -/
def askForCmds (s : State) : State :=
  s.bankCmds.foldl (fun s b =>
    if !b.queued && (mget s.home b.line).elim false (·.hostBit) then askBi s b.line true else s) s

/-- BANK_COMMAND_HOME: the oldest command that can go on has its line's copies written back and invalidated, its entry
marked busy, and joins its bank's queue (R141). A stack that refuses requests kills the launch (R153). -/
def execBankCommandHome (s : State) : Out :=
  match takeFirst (fun b => !b.queued && !cmdWaits s b) s.bankCmds with
  | none => .next (askForCmds s)
  | some (b, rest) =>
    if stackState s (stackOf b.pa) ≠ 0 then
      .next (killLaunch (due { s with bankCmds := rest } [.bankCommandHome]) b.launch 5)
    else
      let s := { s with bankCmds := rest ++ [{ b with queued := true }] }
      -- its operands leave the column (03 R96)
      let s := b.group.elim s (fun k =>
        let col := coreCol (keyCore k)
        countTraffic s col (if b.leaf.ht == colTower col then 0 else 1) true (laneCount b.mask))
      -- the entry alone is busy: L2 does not hold the line
      let s := wbiLine s b.leaf b.line
      let s := homePut s b.line { (homeGet s b.leaf b.line).alone with busy := 1 }
      let s := due s [.bankCommandExecute (stackOf b.pa) (bankOf b.pa % 4096)]
      .next (if s.bankCmds.any (fun b => !b.queued && !cmdWaits s b) then due s [.bankCommandHome] else s)

/-- A command is acknowledged: its entry is released and the line is not kept in L2 (R141). -/
def ackCmd (s : State) (b : BankCmd) : State :=
  let s := l2Forget { s with home := mupd s.home b.line (fun h => { h with busy := 0 }) } b.line
  let s := unhold s (fun x => x.2 == .busy && x.1.line == b.line)
  let s := if s.arrivals.isEmpty then s else due s [.barrierArrival]
  let s := wakeEngines s
  if s.bankCmds.any (fun b => !b.queued) then due s [.bankCommandHome] else s

/-- BANK_COMMAND_EXECUTE: the oldest command of a bank's queue reads, computes and writes its line, indivisibly (R139,
R140, R144, R149). -/
def execBankCommandExecute (stack bank : Nat) (s : State) : Out :=
  if retraining s stack then .next s
  else
    match takeFirst (fun b => b.queued && bankOf b.pa == 4096 * stack + bank) s.bankCmds with
    | none => .next s
    | some (b, rest) =>
      let s := { s with bankCmds := rest }
      let (y, p) := dramRead s b.pa b.leaf.key
      if p != 0 then .next (machineCheck (ackCmd s b) b.launch)
      else
        let (z, old) := nmoLine b y
        let changed := match b.op with
          | .cas32 => if z == y then 0 else byteMask b.off 4
          | .cas64 => if z == y then 0 else byteMask b.off 8
          | _ => b.mask
        let s := if changed = 0 then revive s b.pa else dramWrite s b.pa b.leaf.key changed z 0
        let s := ackCmd s b
        .next (if b.dest == .none then s
          else due { s with rets := s.rets ++ [⟨b.id, b.group, b.dest, some old, false, .pkg, 9999, b.launch⟩] } [.loadReturn])

/-! ### `nmo` (17 R490-R493) -/

/-- One command of an `nmo`: its checks in the order of R492, then it is sent. -/
def sendCmd (c : Ctx) (s : State) (va align : Nat) (sc : Scope) (mk : Nat → Nat → Leaf → BankCmd) : LaneRes :=
  if va % align ≠ 0 then .trap s 0x0A 0 va
  else if uncommitted s c.g then .trap s 0x12 0 va
  else
    match laneXlate c s va align .write true true with
    | .ok s ia leaf r =>
      let pa := leaf.pa52 ia
      if !isHbm pa || leaf.repl || r.atsc < scopeCode sc then .trap s 0x11 0 va
      else if 16 ≤ bankCount s (bankOf pa) then .brk s (.bankFull (bankOf pa))
      else
        let s := countPerf s c.core 0x96 1
        let b := mk s.reqNo ia leaf
        let s := { s with bankCmds := s.bankCmds ++ [b], reqNo := s.reqNo + 1 }
        let s := updGroup s c.key (fun g => { g with awaiting := g.awaiting ++ b.dest.regs.map (fun a => (a, b.id)) })
        .ok (due s [.bankCommandHome])
    | .peer s _ _ _ => .trap s 0x11 0 va
    | x => xlateStop c va x

/-- Lanes at which an element-wise command is sent: the first stream-mask lane of each beat (R491). -/
def beatLanes (m : LaneMask) : List Nat :=
  (List.range 4).filterMap (fun g => (laneList m).find? (fun l => l / 16 == g))

/-- Operation, operands and awaited rows of an `nmo`. -/
def nmoParts : NmoOp → NmoKind × List Opnd × Option Nat × List Nat
  | .addF32 x => (.addF32, [⟨x, false⟩], none, [])
  | .addBf16x2 x => (.addBf16x2, [⟨x, false⟩], none, [])
  | .addS32 x => (.addS32, [⟨x, false⟩], none, [])
  | .maxF32 x => (.maxF32, [⟨x, false⟩], none, [])
  | .maxS32 x => (.maxS32, [⟨x, false⟩], none, [])
  | .cas32 d c w => (.cas32, [⟨c, false⟩, ⟨w.toSrc, false⟩], none, [d.val])
  | .cas64 d c w => (.cas64, [⟨c, true⟩, ⟨w.toSrc, true⟩], none, [d.val, d.val + 1])
  | .saccF32 x a => (.saccF32, [⟨x, false⟩], some a.val, [])
  | .saccBf16 x a => (.saccBf16, [⟨x, false⟩], some a.val, [])

/-- `nmo` (R490-R493). -/
def execNmo (c : Ctl) (op : NmoOp) (base : Fin 128) (s : State) : Out :=
  let (k, srcs, acc, rows) := nmoParts op
  let isCas := !rows.isEmpty
  let count (n : Nat) : Nat :=
    if isCas then n
    else match issueCtx s c.pred.toNat c.neg with
      | some x => (beatLanes x.mask).length
      | none => 0
  issue s
    { ctlSpec c with
      own := oddOwn ((rows.length == 2 && (rows.headD 0) % 2 == 1) :: srcs.map Opnd.odd)
      srcs := srcs, reads := .s base.val :: (acc.elim [] (fun a => [.s a])), dstRows := rows
      charge := fun core n => weight core 7 * count n
      cycles := fun n => max 1 (count n) }
    (fun x s => afterAcquires x s (
      let va := sreg x.g base.val
      let sc := (prefixM x.pre 0).scope.getD .pkg
      let launch := groupLaunch s x.g
      if isCas then
        let n := if rows.length = 2 then 8 else 4
        let s := if x.mask = 0 then s else updGroup s x.key (fun g => mapRows g rows)
        memLoop x false (rows.map .v) (fun s l =>
          let vs := opndVals x.g x.latch srcs l
          sendCmd x s ((va + n * l) % 2 ^ 64) n sc (fun id ia leaf =>
            { id := id, group := some x.key, line := ia / 64, leaf := leaf, op := k, c := v1 vs, w := v2 vs, off := ia % 64
              data := 0, mask := byteMask (ia % 64) n, dest := .lane (rows.headD 0) l n false, launch := launch, queued := false }))
          (laneList x.mask) s
      else
        memLoop x false [] (fun s l =>
          let g := l / 16
          let word (i : Nat) : Nat := v1 (opndVals x.g x.latch srcs (16 * g + i)) % 2 ^ 32
          let lanes := (List.range 16).filter (fun i => inMask x.mask (16 * g + i))
          sendCmd x s ((va + 64 * g) % 2 ^ 64) 64 sc (fun id ia leaf =>
            { id := id, group := some x.key, line := ia / 64, leaf := leaf, op := k, c := acc.elim 0 (fun a => sreg x.g a % 2 ^ 32)
              w := 0, off := 0, data := BitVec.ofNat 512 (packNat 32 word 16)
              mask := lanes.foldl (fun m i => m ||| byteMask (4 * i) 4) 0, dest := .none, launch := launch, queued := false }))
          (beatLanes x.mask) s))

/-! ### Dead regions (R145-R147) -/

/-- Rows of a 64 KiB region of a stack: their numbers, address / 1,024. -/
def regionRows (stack region : Nat) : List Nat := (List.range 64).map (fun i => stack * 2 ^ 26 + region * 64 + i)

/-- BUSY rises with an accepted DRCMD write, and the operation ends at DRCMD_DONE (R146). -/
def drStart (s : State) (stack : Nat) : State :=
  due (updStack s stack (fun x => { x with busy := true })) [.drcmdDone stack]

/-- DRCMD mark dead: every row of the region is dead and its contents are discarded (R147). -/
def execDrcmdMarkDead (stack : Nat) (region : BitVec 20) (s : State) : Out :=
  if !fwRunning s then .next s
  else if (stackUnit s stack).busy then .next (setBits s (aStack stack 0x10) (2 ^ 31))
  else
    let s := (regionRows stack region.toNat).foldl (fun s r => setDead s r true) (drStart s stack)
    let a := (stack * 2 ^ 20 + region.toNat) * 2 ^ 16
    let s := { s with
      mem := clearRange s.mem a 65536
      poison := s.poison.filter (fun (e : Nat × Nat) => !(decide (a / 4 ≤ e.1) && decide (e.1 < (a + 65536) / 4)))
      keyTags := s.keyTags.filter (fun (e : Nat × Nat) => !(decide (a / 64 ≤ e.1) && decide (e.1 < (a + 65536) / 64))) }
    .next s

/-- DRCMD mark live: each dead row of the region is live with every byte zero (R147). -/
def execDrcmdMarkLive (stack : Nat) (region : BitVec 20) (s : State) : Out :=
  if !fwRunning s then .next s
  else if (stackUnit s stack).busy then .next (setBits s (aStack stack 0x10) (2 ^ 31))
  else
    let s := (regionRows stack region.toNat).foldl (fun s r => if (mget s.dead r).isSome then setDead s r false else s) (drStart s stack)
    .next s

/-- DRCMD_DONE: the operation has taken effect everywhere; BUSY clears (R146). -/
def execDrcmdDone (stack : Nat) (s : State) : Out :=
  .next (updStack s stack (fun x => { x with busy := false }))

end Sys2Proof.Machine
end

