-- ==== Sys2Proof/Machine/Queues.lean ====
section
/-! DEFINITION. Command queues: their registers, acceptance, the dependence graph, starting, bulk copies, signals, waits
and retirement (spec/03_host_command_interface.md R59-R79, R326). -/

namespace Sys2Proof.Machine

/-! ### Registers (R59) -/

/-- Set BADWR of a queue (R60). -/
def cqBad (s : State) (q : Nat) : State := setBits s (aCq q 0x28) (2 ^ 31)

/-! ### Commands (R63) -/

def cmdOf (s : State) (k : Nat) : Option Cmd := mget s.cmds k
def Cmd.fld (c : Cmd) (o n : Nat) : Nat := lineField c.words o n
def Cmd.type (c : Cmd) : Nat := c.fld 0 1
def Cmd.fence (c : Cmd) : Bool := (c.fld 1 1).testBit 1
def Cmd.irq (c : Cmd) : Bool := (c.fld 1 1).testBit 0
def Cmd.staddr (c : Cmd) : Nat := c.fld 24 8
def Cmd.succs (c : Cmd) : List Nat := ((List.range 4).map (fun i => c.fld (8 + 4 * i) 4)).filter (· != 0xFFFFFFFF)

/-! ### The journal (R75) -/

def CmdState.code : CmdState → Nat
  | .accepted => 0 | .started => 1 | .finished => 2 | .retired => 3

/-- The second line of a journal entry: sequence, state, table entry or 0xFF, remaining count, status, start and finish.
(DESIGN CHOICE, log 12) -/
def Cmd.journal (c : Cmd) (k : Nat) : Nat :=
  cmdSeq k + c.state.code * 2 ^ 32 + c.tt.getD 0xFF % 256 * 2 ^ 40 + c.remaining % 2 ^ 16 * 2 ^ 48 + c.status % 2 ^ 16 * 2 ^ 64 +
    c.start % 2 ^ 64 * 2 ^ 128 + c.finish % 2 ^ 64 * 2 ^ 192

/-- An entry is written to each copy whose stack is in service (R75, R77). -/
def journalAt (s : State) (k : Nat) (c : Cmd) (base : Nat) : State :=
  if stackState s (stackOf base) ≠ 0 then s
  else
    let pa := base + 128 * (cmdSeq k % cqSize s (cmdQueue k))
    keepBytes (keepBytes s pa 64 c.words.toNat) (pa + 64) 64 (c.journal k)

def journal (s : State) (k : Nat) (c : Cmd) : State :=
  journalAt (journalAt s k c (cqJBase s (cmdQueue k))) k c (cqJMir s (cmdQueue k))

/-- A change of a command is written to its journal entry before it acts (R75). -/
def updCmd (s : State) (k : Nat) (f : Cmd → Cmd) : State :=
  match cmdOf s k with
  | none => s
  | some c => { journal s k (f c) with cmds := mset s.cmds k (f c) }

/-- The command is invalid (R63). (DEDUCED, log 78) -/
def cmdInvalid (w : Line) : Bool :=
  let f (o n : Nat) : Nat := lineField w o n
  f 1 1 / 4 != 0 || f 4 4 != 0 ||
  (match f 0 1 with
    | 1 => f 40 24 != 0 || f 32 8 % 64 != 0
    | 2 => f 56 8 != 0 || f 32 8 % 64 != 0 || f 40 8 % 64 != 0 || f 48 8 == 0 || f 48 8 % 64 != 0
    | 3 => f 48 16 != 0 || f 32 8 % 8 != 0
    | 4 => f 57 3 != 0 || f 32 8 % 8 != 0 || decide (3 ≤ f 56 1)
    | _ => true)

/-! ### Accesses of the command processor (R67) -/

/-- Translate an intermediate address for the command processor, a privileged agent with no range register: a leaf, or
the status with which the command finishes. -/
def sysXlate (s : State) (ia : Nat) (write : Bool) : Nat ⊕ Leaf :=
  let q : XReq := ⟨.engine 0, 0, ia, 0, 9999, 0, 0, 0xFF, write, false, false, false, false, true⟩
  if 2 ^ 52 ≤ ia then .inl 4
  else
    match pageCheck s q ((findLeaf s none false 0 ia).getD (walkAll s ia (mreg s PTROOT) 0 5)) with
    | .ok l => if (refuses s (l.pa52 ia)).isSome then .inl ((refuses s (l.pa52 ia)).getD 5) else .inr l
    | .fatal 5 => .inl 5
    | _ => .inl 4

/-- A request of the part's own units (column 1,000 stands for none). -/
def sysReq (s : State) (k : ReqKind) (ia n : Nat) (l : Leaf) : Req :=
  ⟨s.reqNo, 1000, none, k, ia / 64, byteMask (ia % 64) n, .wt, .sys, .noAllocate, false, false, .none, l, none, 9999, true⟩

/-- The host does not complete an access to the line of an address (04 R99). -/
def sysFails (s : State) (l : Leaf) (ia : Nat) : Bool := hostFails s (homeKey l (ia / 64) l.ht) (homePa l (homeKey l (ia / 64) l.ht))

/-- A plain load at `.sys` of n bytes in one line: the value, and whether it meets a machine-check. -/
def sysLoad (s : State) (l : Leaf) (ia n : Nat) : State × Nat × Bool :=
  let pa := l.pa52 ia
  if isMgmt pa then (s, mgmtRead s (pa % 2 ^ 24) n, false)
  else if sysFails s l ia then (s, 0, true)
  else
    let r := sysReq s .load ia n l
    let key := homeKey l (ia / 64) l.ht
    let h := homeGet s l key
    let (s, stays) := l2Open s key r h
    let s := countReq s r pa h.ht
    let v := if isHost pa && !cxlMode s then serveRaw s r pa
      else
        let v := serveLoad (homePut s key h) r key h
        { v with s := settleHome v.s key r stays }
    (v.s, lineField (BitVec.ofNat 512 v.val) (ia % 64) n, v.bad)

/-- A plain store `.wt` at `.sys` of n bytes in one line, with poisoned words (R66, 01 R31). -/
def sysStoreP (s : State) (l : Leaf) (ia n v : Nat) (p : BitVec 16) : State :=
  let pa := l.pa52 ia
  let x := linePlace v (ia % 64) n
  if isMgmt pa then due s [.registerWrite (BitVec.ofNat 32 (pa % 2 ^ 24)) n (w64 v)]
  else serve s (sysReq s (if p = 0 then .store x else .push x p) ia n l) (homeKey l (ia / 64) l.ht) (homePa l (homeKey l (ia / 64) l.ht))

def sysStore (s : State) (l : Leaf) (ia n v : Nat) : State := sysStoreP s l ia n v 0

/-- The kinds of access of the part's own units, for what they wait for: a plain load, an acquire, a store. -/
inductive SysKind where
  | load | acquire | store
  deriving DecidableEq, Repr, Inhabited

/-- The request that stands for an access of the part's own units. -/
def sysProbe (s : State) (k : SysKind) (ia n : Nat) (l : Leaf) : Req :=
  { sysReq s (match k with
      | .store => .store 0
      | _ => .load) ia n l with acquire := k == .acquire }

/-- Home's record of the line of an access, and what the host or a column must do before it (02 R37; 11 R315, R316). -/
def sysBars (s : State) (r : Req) : Option (HomeLine × Option Bool × Option Nat) :=
  match mget s.home (homeKey r.leaf r.line r.leaf.ht) with
  | none => none
  | some h =>
    match hostAsk r h, drainFirst r h with
    | none, none => none
    | inv, c => some (h, inv, c)

/-- An access waits for something that is under way: its line is held, the host has been asked, or a column drains. -/
def sysHeld (s : State) (k : SysKind) (ia n : Nat) : Bool :=
  match sysXlate s ia (k == .store) with
  | .inl _ => false
  | .inr l =>
    let r := sysProbe s k ia n l
    !isMgmt (l.pa52 ia) && (lineBusy s l r.line || s.held.any (fun x => x.1.col == 1000 && x.1.line == r.line) ||
      (s.bi.any (fun b => b.1 == r.line) && (sysBars s r).elim false (·.2.1.isSome)))

/-- What home orders before an access: a back-invalidate snoop, or that a column drain; none when nothing stands before it. -/
def sysFirst (s : State) (k : SysKind) (ia n : Nat) : Option State :=
  match sysXlate s ia (k == .store) with
  | .inl _ => none
  | .inr l =>
    let r := sysProbe s k ia n l
    if isMgmt (l.pa52 ia) then none
    else
      match sysBars s r with
      | some (_, some inv, _) => some (askBi s r.line inv)
      | some (h, none, some c) =>
        some (orderDrain { s with reqNo := s.reqNo + 1 } { r with kind := .prefetch true } h c)
      | _ => none

/-- Store n bytes at an address that may cross lines: none when a translation fails. -/
def sysWrite (s : State) (ia v : Nat) : Nat → Option State
  | 0 => some s
  | n + 1 =>
    match sysWrite s ia v n, sysXlate s (ia + n) true with
    | some s, .inr l => some (sysStore s l (ia + n) 1 (v / 2 ^ (8 * n)))
    | _, _ => none

/-- Read the n lines from an address on, as one number; none, with the status, on a fault or poison. -/
def sysReadLines (s : State) (ia : Nat) : Nat → State × (Nat ⊕ Nat)
  | 0 => (s, .inr 0)
  | n + 1 =>
    match sysReadLines s ia n with
    | (s, .inl e) => (s, .inl e)
    | (s, .inr v) =>
      match sysXlate s (ia + 64 * n) false with
      | .inl e => (s, .inl e)
      | .inr l =>
        let (s, x, bad) := sysLoad s l (ia + 64 * n) 64
        (s, if bad then .inl 2 else .inr (v + x * 2 ^ (512 * n)))

/-- Pushes of column copies that have not reached home: a release at `.sys` of the command processor waits for them
(11 R326). -/
def pushesPending (s : State) : Bool := s.reqs.any Req.isPush || s.held.any (fun x => x.1.isPush)

/-- Every column pushes its dirty U bytes: what a launch wrote is performed before its command finishes (11 R326). -/
def releaseAll (s : State) : State :=
  ((s.l1.filter (fun (e : Nat × L1Line) => e.2.st == .u && e.2.dirty != 0)).map (fun e => e.1 / 2 ^ 46)).eraseDups.foldl
    releaseAction s

/-! ### The dependence graph (R64, R69-R71) -/

/-- The sequence a reference names: congruent to 26 bits, within 2^25 of CQACC (R64). -/
def refSeq (s : State) (q low : Nat) : Nat :=
  let d := (low + 2 ^ 32 - cqAcc s q % 2 ^ 26) % 2 ^ 26
  if d < 2 ^ 25 then (cqAcc s q + d) % 2 ^ 32 else (cqAcc s q + 2 ^ 32 + d - 2 ^ 26) % 2 ^ 32

/-- A decrement that is discarded: its issuer gets status 0x0007, a host's sets BADWR (R70, R71). -/
def badDecrement (s : State) (who : Option Nat) (target : Nat) : State :=
  match who with
  | some k => updCmd s k (fun c => { c with status := 7 })
  | none => cqBad s (cmdQueue target)

/-- Apply one decrement to an accepted command. -/
def decrement (s : State) (who : Option Nat) (target : Nat) : State :=
  match cmdOf s target with
  | some c => if c.remaining = 0 then badDecrement s who target else updCmd s target (fun c => { c with remaining := c.remaining - 1 })
  | none => badDecrement s who target

/-- The target has been accepted. -/
def accepted (s : State) (target : Nat) : Bool :=
  decide (2 ^ 31 ≤ seqSub (cmdSeq target) (cqAcc s (cmdQueue target)))

/-- One decrement of a named command: applied, kept for its acceptance, or waiting for room (R69). -/
def release (s : State) (who : Option Nat) (target : Nat) : State :=
  if accepted s target then decrement s who target
  else if s.pendDec.length < 4096 then { s with pendDec := s.pendDec ++ [(who, target)] }
  else { s with relWait := s.relWait ++ [(who, target)] }

/-- SUCCESSOR_RELEASE_RETRY: the oldest release of the queue that waited goes on when there is room (R69). -/
def canRetry (s : State) (e : Option Nat × Nat) : Bool := accepted s e.2 || decide (s.pendDec.length < 4096)

def execSuccessorReleaseRetry (q : Nat) (s : State) : Out :=
  match takeFirst (fun e => relQueue e == q && canRetry s e) s.relWait with
  | none => .next s
  | some (e, rest) => .next (release { s with relWait := rest } e.1 e.2)

/-- CQPOKE: one decrement by the host (R71). -/
def execCqpoke (q : Nat) (v : Word) (s : State) : Out :=
  if !fwRunning s then .next s
  else if field v.toNat 31 26 ≠ 0 then .next (cqBad s q)
  else .next (release s none (cmdKey q (refSeq s q (v.toNat % 2 ^ 26))))

/-! ### Finishing (R69, R79, R84) -/

/-- The launch of a command that holds a slot. -/
def launchOfCmd (s : State) (k : Nat) : Option (Nat × Launch) :=
  s.launches.find? (fun (e : Nat × Launch) => !e.2.handler && e.2.cmd.toNat == cmdQueue k * 2 ^ 26 + cmdSeq k % 2 ^ 26)

/-- The command of a launch that holds a slot. -/
def cmdOfLaunch (s : State) (l : Launch) : Option Nat :=
  if l.handler then none
  else (s.cmds.find? (fun (e : Nat × Cmd) => e.2.state == .started && e.2.type == 1 &&
    l.cmd.toNat == cmdQueue e.1 * 2 ^ 26 + cmdSeq e.1 % 2 ^ 26)).map (·.1)

/-- Engines with entries try again. -/
def placeAll (s : State) : State :=
  due s ((s.engines.filter (fun (e : Nat × Engine) => !e.2.entries.isEmpty)).map (fun e => .blockPlace (e.1 / 12) (e.1 % 12)))

/-- An instance that a finished one had pre-empted resumes (R84). -/
def resumePrev (s : State) (k : Nat) : State :=
  match s.ttPre.find? (fun (e : Nat × Nat) => nget s.ttPrev e.1 == k && (mget s.ttPrev e.1).isSome) with
  | none => s
  | some (i, prev) =>
    let s := { s with ttPre := mdel s.ttPre i }
    match launchOfCmd s prev with
    | some (slot, _) => placeAll (updLaunch s slot (fun l => { l with paused := false }))
    | none => s

/-- A command finishes: each named successor is decremented, in order (R69). -/
def finishCmd (s : State) (k status : Nat) : State :=
  match cmdOf s k with
  | none => s
  | some c =>
    let (t, s) := readDtc s
    let s := updCmd s k (fun c => { c with state := .finished, status := status, finish := t.toNat })
    let s := resumePrev s k
    c.succs.foldl (fun s r => release s (some k) (cmdKey (r / 2 ^ 26) (refSeq s (r / 2 ^ 26) (r % 2 ^ 26)))) s

/-- A command that ends in an error finishes with a black-box record; a machine-check raises its event (R67, R74, R88). -/
def faultCmd (s : State) (k status : Nat) : State :=
  let s := blackBox s 0x30 4 (cmdQueue k) status
  finishCmd (if status = 2 then raiseEvent s 2 else s) k status

/-- A command starts (R75). -/
def startCmd (s : State) (k : Nat) : State :=
  let (t, s) := readDtc s
  updCmd { s with lastQueue := cmdQueue k } k (fun c => { c with state := .started, start := t.toNat })

/-! ### Acceptance (R60, R61, R75) -/

/-- The next command of a queue can be accepted. -/
def canAccept (s : State) (q : Nat) : Bool :=
  fwRunning s && !s.halted && !s.thermal && cqEn s q && cqTail s q != cqAcc s q &&
  decide (seqSub (cqAcc s q) (cqDone s q) < cqSize s q) && !ringDown s q && journalCopies s q != 0

/-- COMMAND_ACCEPT (R61, R63, R69). -/
def execCommandAccept (q : Nat) (s : State) : Out :=
  if !canAccept s q then .next s
  else
    let seq := cqAcc s q
    let k := cmdKey q seq
    let pa := cqBase s q + 64 * (seq % cqSize s q)
    let w := physLine s pa
    let bad := cmdInvalid w
    let ins := s.ttIns.find? (fun e => e.1 == k)
    let c : Cmd := ⟨w, .accepted, lineField w 2 2, 0, 0, 0, ins.map (fun e => e.2.1), ins.elim 0 (fun e => e.2.2.1),
      ins.bind (fun e => e.2.2.2)⟩
    -- a ring in host memory is read over the host link (R96)
    let s := if cqLoc s q then bump s 0x79018 64 else s
    let s := { journal s k c with cmds := mset s.cmds k c, ttIns := s.ttIns.filter (fun e => e.1 != k) }
    let s := setMreg s (aCq q 0x20) ((seq + 1) % 2 ^ 32)
    let mine := s.pendDec.filter (fun e => e.2 == k)
    let s := mine.foldl (fun s e => decrement s e.1 k) { s with pendDec := s.pendDec.filter (fun e => e.2 != k) }
    .next (if bad then faultCmd s k 4 else s)

/-! ### Starting (R65, R68, R71, R84) -/

/-- Both fault units post (04 R125). -/
def faultUnitsOn (s : State) : Bool := fqEnabled s 0 && fqEnabled s 1

/-- A launch slot for commands is free (06 R157). -/
def freeLaunchSlot (s : State) : Option Nat := (List.range 248).find? (fun i => (launchOf s i).isNone)

/-- The instance that a timed command awaits is out of the way (R84). -/
def afterOk (s : State) (c : Cmd) : Bool :=
  match c.after with
  | none => true
  | some p =>
    match cmdOf s p with
    | none => true
    | some x => x.state == .finished ||
      (c.tt.elim false (fun i => (mget s.ttPre i) == some p) &&
        (launchOfCmd s p).elim true (fun e => s.blocks.all (fun (b : Nat × Block) => b.2.launch != e.1 || b.2.core.isNone)))

/-- The lines that the start of a launch reads: those of its record, its arguments, its gang record and the members' records (R80,
06 R169). -/
def startLines (s : State) (addr : Nat) : List Nat :=
  let peek (ia n : Nat) : Nat := match (sysReadLines s ia n).2 with
    | .inr x => x
    | .inl _ => 0
  let one (ia n : Nat) : List Nat := (List.range (((ia % 64) + n + 63) / 64)).map (fun i => ia / 64 + i)
  let rec_ (ia : Nat) : List Nat := one ia 2880 ++ one (peek ia 1 / 2 ^ 320 % 2 ^ 64) 128
  let gang := peek addr 1 / 2 ^ 384 % 2 ^ 64
  rec_ addr ++ (if gang = 0 then []
    else one gang 256 ++ ((List.range (peek gang 1 % 256)).take 8).flatMap (fun i => rec_ (peek gang 2 / 2 ^ (64 + 64 * i) % 2 ^ 64)))

/-- Nothing holds any line, and the host owns none. -/
def linesFree (s : State) : Bool :=
  s.keyLoads.isEmpty && s.home.all (fun (e : Nat × HomeLine) => e.2.busy == 0 && (!e.2.hostBit || e.2.hostShared)) &&
    s.hbmStacks.all (fun (e : Nat × Stack) => !e.2.retraining)

/-- The start of a launch waits for a line that it reads. -/
def startHeld (s : State) (addr : Nat) : Bool := !linesFree s && (startLines s addr).any (fun l => sysHeld s .load (64 * l) 64)

/-- What home orders before the start of a launch reads its lines. -/
def startFirst (s : State) (addr : Nat) : Option State :=
  if linesFree s then none else (startLines s addr).findSome? (fun l => sysFirst s .load (64 * l) 64)

/-- The next command of a queue to start, when it can (R68). -/
def startable (s : State) (q : Nat) : Option Nat :=
  let n := seqSub (cqAcc s q) (cqDone s q)
  let earlier := fun (i : Nat) => cmdOf s (cmdKey q ((cqDone s q + i) % 2 ^ 32))
  match (List.range n).find? (fun i => (earlier i).elim false (fun c => c.state == .accepted)) with
  | none => none
  | some i =>
    let k := cmdKey q ((cqDone s q + i) % 2 ^ 32)
    match cmdOf s k with
    | none => none
    | some c =>
      let ok := c.remaining == 0 && !s.halted && !s.thermal && fwRunning s && afterOk s c &&
        (!c.fence || (List.range i).all (fun j => (earlier j).elim true (fun x => x.state == .finished))) &&
        (match c.type with
          | 1 => (freeLaunchSlot s).isSome && mreg s 0x40 != 0 && faultUnitsOn s && !startHeld s (c.fld 32 8)
          | 3 => !pushesPending s && (c.fld 32 8 == 0 || !sysHeld s .store (c.fld 32 8) 8)
          | _ => true)
      if ok then some k else none

/-- The startable command of a type at a queue. -/
def startableOf (s : State) (q type : Nat) : Option (Nat × Cmd) :=
  match startable s q with
  | none => none
  | some k => (cmdOf s k).bind (fun c => if c.type = type then some (k, c) else none)

/-- SIGNAL (R65). -/
def execSignal (q : Nat) (s : State) : Out :=
  match startableOf s q 3 with
  | none => .next s
  | some (k, c) =>
    match (if c.fld 32 8 = 0 then none else sysFirst s .store (c.fld 32 8) 8) with
    | some s => .next s
    | none =>
      let s := startCmd s k
      if c.fld 32 8 = 0 then .next (finishCmd s k 0)
      else
        match sysXlate s (c.fld 32 8) true with
        | .inl st => .next (faultCmd s k st)
        | .inr l =>
          if sysFails s l (c.fld 32 8) then .next (faultCmd s k 2)
          else .next (finishCmd (sysStore s l (c.fld 32 8) 8 (c.fld 40 8)) k 0)

/-- WAIT: it starts; its polls follow (R65). -/
def execWait (q : Nat) (s : State) : Out :=
  match startableOf s q 4 with
  | none => .next s
  | some (k, _) => .next (startCmd s k)

/-- A wait's condition on a word (R63). -/
def waitHolds (c : Cmd) (w : Nat) : Bool :=
  let x := w &&& c.fld 48 8
  match c.fld 56 1 with
  | 0 => x == c.fld 40 8
  | 1 => decide (c.fld 40 8 ≤ x)
  | _ => x != c.fld 40 8

/-- One poll of a wait, an acquire at `.sys`: the state after it, and the status when the wait ends (R65, R67). -/
def poll (s : State) (c : Cmd) : State × Option Nat :=
  match sysXlate s (c.fld 32 8) false with
  | .inl st => (s, some st)
  | .inr l =>
    let (s, w, bad) := sysLoad s l (c.fld 32 8) 8
    (s, if bad then some 2 else if waitHolds c w then some 0 else none)

/-- A started wait. -/
def isWait (s : State) (k : Nat) : Option Cmd := (cmdOf s k).filter (fun c => c.state == .started && c.type == 4)

/-- WAIT_POLL_RETURN (R65). -/
def execWaitPollReturn (q : Nat) (seq : Word) (s : State) : Out :=
  match isWait s (cmdKey q seq.toNat) with
  | none => .next s
  | some c =>
    if sysHeld s .acquire (c.fld 32 8) 8 then .next s
    else
      match sysFirst s .acquire (c.fld 32 8) 8 with
      | some s => .next s
      | none =>
        match poll s c with
        | (s, none) => .next s
        | (s, some 0) => .next (finishCmd s (cmdKey q seq.toNat) 0)
        | (s, some st) => .next (faultCmd s (cmdKey q seq.toNat) st)

/-- WAIT_TIMEOUT (R65, R74). -/
def execWaitTimeout (q : Nat) (seq : Word) (s : State) : Out :=
  match isWait s (cmdKey q seq.toNat) with
  | none => .next s
  | some c => .next (if c.fld 60 4 = 0 then s else faultCmd s (cmdKey q seq.toNat) 8)

/-! ### Bulk copies (R66) -/

/-- The copy engine takes the oldest started copy when it is free. (DEDUCED, log 82) -/
def nextCopy (s : State) : State :=
  match s.copy, s.copyQueue with
  | none, k :: rest =>
    (match cmdOf s k with
      | some c => { s with copy := some ⟨k, c.fld 32 8, c.fld 40 8, c.fld 48 8 / 64, 0, false⟩, copyQueue := rest }
      | none => { s with copyQueue := rest })
  | _, _ => s

/-- BULK_COPY: it starts, and joins the copy engine's queue (R66). -/
def execBulkCopy (q : Nat) (s : State) : Out :=
  match startableOf s q 2 with
  | none => .next s
  | some (k, _) => .next (nextCopy { startCmd s k with copyQueue := s.copyQueue ++ [k] })

/-- The copy under way ends. -/
def endCopy (s : State) (c : Copy) (status : Nat) : State :=
  let s := { s with copy := none }
  nextCopy (if status = 0 then finishCmd s c.cmd 0 else faultCmd s c.cmd status)

/-- A line of the copy can be moved now. -/
def copyReady (s : State) : Bool :=
  match s.copy with
  | none => false
  | some c => !sysHeld s .load (c.src + 64 * c.finished) 64 && !sysHeld s .store (c.dst + 64 * c.finished) 64

/-- What home orders before the copy's next line is read and written. -/
def copyFirst (s : State) (c : Copy) : Option State :=
  (sysFirst s .load (c.src + 64 * c.finished) 64).orElse (fun _ => sysFirst s .store (c.dst + 64 * c.finished) 64)

/-- BULK_COPY_LINE_DONE: the next line, in increasing address order, has been read and its write is performed; poison
travels with it (R66, R31). -/
def execBulkCopyLineDone (s : State) : Out :=
  match s.copy with
  | none => .next s
  | some c =>
    if !copyReady s then .next s
    else
      match copyFirst s c with
      | some s => .next s
      | none =>
        let src := c.src + 64 * c.finished
        let dst := c.dst + 64 * c.finished
        match sysXlate s src false, sysXlate s dst true with
        | .inr ls, .inr ld =>
          let p := if sysFails s ls src then BitVec.allOnes 16
            else
              let key := homeKey ls (src / 64) ls.ht
              match mget s.home key with
              | some h => (gathered s (src / 64) h).poison
              | none => poisonWords s (homePa ls key)
          let lost := sysFails s ld dst
          let (s, v, _) := sysLoad s ls src 64
          let s := if lost then s else sysStoreP s ld dst 64 v p
          let c := { c with finished := c.finished + 1, bad := c.bad || p != 0 || lost }
          .next (if c.finished < c.lines then { s with copy := some c } else endCopy s c (if c.bad then 2 else 0))
        | .inl st, _ => .next (endCopy s c st)
        | _, .inl st => .next (endCopy s c st)

/-! ### Retirement (R72-R74, R326) -/

/-- The oldest command of a queue that has not retired can. -/
def canRetire (s : State) (q : Nat) : Option (Nat × Cmd) :=
  let k := cmdKey q (cqDone s q)
  match cmdOf s k with
  | none => none
  | some c =>
    if c.state == .finished && s.relWait.all (fun e => e.1 != some k) && !pushesPending s &&
        (c.staddr == 0 || (!sysHeld s .store c.staddr 1 && !sysHeld s .store (c.staddr + 15) 1)) then some (k, c) else none

/-- What home orders before a completion record is written. -/
def recordFirst (s : State) (c : Cmd) : Option State :=
  if c.staddr = 0 then none
  else (sysFirst s .store c.staddr (min 16 (64 - c.staddr % 64))).orElse
    (fun _ => sysFirst s .store (c.staddr + 15) 1)

/-- Start lateness in microseconds of a timed instance (R73). -/
def lateness (c : Cmd) : Nat := if c.tt.isNone then 0 else min 65535 ((c.start - c.origin) / 1000)

/-- COMMAND_RETIRE: the completion record is written, CQDONE advances, and the vector is sent (R72, R73). -/
def execCommandRetire (q : Nat) (s : State) : Out :=
  match canRetire s q with
  | none => .next s
  | some (k, c) =>
    match recordFirst s c with
    | some s => .next s
    | none =>
      let (t, s) := readDtc s
      let s := if c.status = 7 then blackBox s 0x30 4 q 7 else s
      let rec_ := t.toNat + cmdSeq k * 2 ^ 64 + c.status * 2 ^ 96 + lateness c * 2 ^ 112
      let s := if c.staddr = 0 then s
        else
          match sysWrite s c.staddr rec_ 16 with
          | some s => s
          | none => blackBox s 0x30 4 q 4
      let s := updCmd s k (fun c => { c with state := .retired })
      let s := setMreg { s with cmds := mdel s.cmds k } (aCq q 0x24) ((cqDone s q + 1) % 2 ^ 32)
      .next (if c.irq then { s with msix := s.msix ++ [cqVec s q] } else s)

/-! ### Writes of queue registers (R60, R86) -/

/-- Entry i of the time-triggered table: its low and high halves (R83). -/
def ttLow (s : State) (i : Nat) : Nat := mreg s (0x21000 + 16 * i)
def ttHigh (s : State) (i : Nat) : Nat := mreg s (0x21008 + 16 * i)
def ttEn (s : State) (i : Nat) : Bool := (ttHigh s i).testBit 63
def ttQueue (s : State) (i : Nat) : Nat := field (ttHigh s i) 60 55

/-- CQTAIL (R60, R86). -/
def execCqtailWrite (q : Nat) (v : Word) (s : State) : Out :=
  if !fwRunning s then .next s
  else
    let up := seqSub v.toNat (cqAcc s q)
    if cqSize s q < up || up < seqSub (cqTail s q) (cqAcc s q) || (List.range 256).any (fun i => ttEn s i && ttQueue s i == q) then
      .next (cqBad s q)
    else .next (setMreg s (aCq q 0x1C) v.toNat)

/-- CQCFG (R60, R8): reserved bits are discarded. While EN is 1 a write that repeats the other fields is no write of them, and one that
changes them leaves EN too (DESIGN CHOICE, log 105). -/
def execCqcfgWrite (q : Nat) (v : Word) (s : State) : Out :=
  if !fwRunning s then .next s
  else
    let new := v.toNat &&& 0xC03F071F
    let n := field new 4 0
    let base := cqBase s q
    let hbm (pa : Nat) : Bool := isHbm pa && pa < 2 ^ 39
    if cqEn s q && new % 2 ^ 31 ≠ cqcfg s q % 2 ^ 31 then .next (cqBad s q)
    else if new.testBit 31 && (decide (n < 6) || decide (16 < n) || !hbm (cqJBase s q) || !hbm (cqJMir s q) ||
        stackOf (cqJBase s q) == stackOf (cqJMir s q) || (if new.testBit 30 then !(isHost base && base < 2 ^ 52) else !hbm base)) then
      .next (cqBad s q)
    else .next (setMreg s (aCq q 0x18) new)

/-! ### The command processor's next step -/

/-- The queue whose head starts next: higher PRIO first, equal PRIO round-robin (R68). -/
def startQueue (s : State) : Option (Nat × Nat) :=
  bestBy (fun (a b : Nat × Nat) =>
      let ra := (a.1 + 64 - s.lastQueue - 1) % 64
      let rb := (b.1 + 64 - s.lastQueue - 1) % 64
      decide (cqPrio s b.1 < cqPrio s a.1) || (cqPrio s a.1 == cqPrio s b.1 && decide (ra < rb)))
    ((List.range 64).filterMap (fun q => (startable s q).map (fun k => (q, k))))

/-- A wait whose next poll ends it, or has a column drain first. -/
def endingWait (s : State) : Option Nat :=
  (s.cmds.find? (fun (e : Nat × Cmd) => (isWait s e.1).isSome && !sysHeld s .acquire (e.2.fld 32 8) 8 &&
    ((sysFirst s .acquire (e.2.fld 32 8) 8).isSome || (poll s e.2).2.isSome))).map (·.1)

/-- What the command processor can do now (DESIGN CHOICE, log 3). (DEDUCED, log 96) -/
def commandWork (s : State) : Option Instr :=
  match (List.range 64).find? (fun q => canAccept s q) with
  | some q => some (.commandAccept q)
  | none =>
    if s.cmds.isEmpty then none
    else
      match s.relWait.find? (canRetry s) with
      | some e => some (.successorReleaseRetry (relQueue e))
      | none =>
        match startQueue s with
        | some (q, k) => (match (cmdOf s k).elim 0 (·.type) with
          | 1 => some (.launchCommand q)
          | 2 => some (.bulkCopy q)
          | 3 => some (.signal q)
          | _ => some (.wait q))
        | none =>
          match endingWait s with
          | some k => some (.waitPollReturn (cmdQueue k) (BitVec.ofNat 32 (cmdSeq k)))
          | none =>
            if copyReady s then some .bulkCopyLineDone
            else ((List.range 64).find? (fun q => (canRetire s q).isSome)).map (fun q => .commandRetire q)

end Sys2Proof.Machine
end

