-- ==== Sys2Proof/Machine/Launch.lean ====
section
/-! DEFINITION. Launch records, the start of launches, and the fault units' handler launches and records
(spec/03 R80-R82, spec/06 R157, R158, R169, R170, spec/04 R105, R124-R127, R260). -/

namespace Sys2Proof.Machine

/-! ### Records (03 R80, R81) -/

/-- Bytes [o, o + n) of a record read as one number. -/
def recFld (x o n : Nat) : Nat := x / 2 ^ (8 * o) % 2 ^ (8 * n)

/-- What a launch record says. -/
structure Rec where
  kernel : Kernel
  blocks : Nat
  gang : Bool
  argAddr : Nat
  gangAddr : Nat
  ranges : List RangeReg

def recBuf : Nat → Buf
  | 0 => .wbuf | 1 => .abuf | 2 => .cbuf | _ => .gbuf

/-- An entry of a record at a byte offset. -/
def recEntry (x o : Nat) : CopyEnt :=
  ⟨recFld x (o + 14) 2, recFld x o 8, recFld x (o + 8) 4, recBuf (recFld x (o + 12) 1), recFld x (o + 16) 4,
    recFld x (o + 13) 1, recFld x (o + 20) 4⟩

/-- An entry keeps the limits of R81. -/
def entryOk (x o : Nat) (k : Shape) (region : Bool) : Bool :=
  let e := recEntry x o
  let buf := recFld x (o + 12) 1
  e.size % 64 == 0 && decide (64 ≤ e.size) && decide (e.size ≤ 393216) && (buf == 0 || buf == 1 || buf == 3) && decide (e.fmt ≤ 9) &&
  e.off % 512 == 0 && decide (e.off + loadExtent (entryDesc e) ≤ 512 * shapeBuf k e.buf) && recFld x (o + 24) 8 == 0 &&
  (if region then e.stage == 0 else decide (1 ≤ e.stage) && decide (e.stage ≤ 63))

/-- A range register of a record (04 R100). -/
def recRange (x i : Nat) : RangeReg :=
  ⟨w64 (recFld x (64 + 32 * i) 8), w64 (recFld x (72 + 32 * i) 8), w64 (recFld x (80 + 32 * i) 8), w64 (recFld x (88 + 32 * i) 8)⟩

/-- Stages do not decrease. -/
def stagesRise : List CopyEnt → Bool
  | a :: b :: r => decide (a.stage ≤ b.stage) && stagesRise (b :: r)
  | _ => true

/-- Read a launch record; none when it breaks a limit (03 R80, R81; 06 R158; 04 R100). The block count of a fault handler's is
ignored (04 R127). -/
def parseRec (handler : Bool) (x : Nat) : Option Rec :=
  let width := 16 * 2 ^ recFld x 12 1
  let groups := recFld x 13 1
  let k : Shape := ⟨recFld x 0 8, recFld x 14 2, recFld x 16 2, recFld x 18 2, recFld x 20 2, recFld x 22 2, recFld x 24 2, groups, width⟩
  let nr := recFld x 26 1
  let ns := recFld x 27 1
  let flags := recFld x 29 1
  let blocks := recFld x 8 4
  let ranges := (List.range 8).map (recRange x)
  let sched := (List.range ns).map (fun i => recEntry x (832 + 32 * i))
  let ok :=
    k.entry % 4 == 0 && (handler || (decide (1 ≤ blocks) && decide (blocks ≤ 16777216))) && decide (recFld x 12 1 ≤ 2) && decide (1 ≤ groups) &&
    decide (groups ≤ 16) && decide (width * groups ≤ 1024) && decide (1 ≤ k.floor) && decide (k.floor ≤ 384) &&
    decide (k.floor ≤ k.peak) && decide (k.peak ≤ 384) && decide (k.wbuf ≤ 768) && decide (k.abuf ≤ 512) && decide (k.cbuf ≤ 512) &&
    decide (k.gbuf ≤ 256) && decide (nr ≤ 16) && decide (ns ≤ 64) && decide (recFld x 28 1 ≤ 7) && decide (flags < 4) &&
    recFld x 30 2 == 0 && decide (1 ≤ recFld x 32 4) && decide (recFld x 32 4 ≤ 65535) && recFld x 36 4 == 0 &&
    (flags.testBit 0 || recFld x 48 8 == 0) && recFld x 56 8 == 0 &&
    decide (groups * k.floor * width * 4 ≤ 393216) && decide (groups * k.peak * width * 4 ≤ 393216) &&
    ranges.all (fun r => !r.bad) && (List.range nr).all (fun i => entryOk x (320 + 32 * i) k true) &&
    (List.range ns).all (fun i => entryOk x (832 + 32 * i) k false) && stagesRise sched
  if ok then
    some ⟨⟨k, 0, (List.range nr).map (fun i => recEntry x (320 + 32 * i)), sched, [], recFld x 28 1, recFld x 32 4, flags.testBit 1⟩,
      blocks, flags.testBit 0, recFld x 40 8, recFld x 48 8, ranges⟩
  else none

/-- A pipe entry of a gang record: number, producer, consumers, depth, queue register (06 R169). -/
def recPipe (x i : Nat) : Nat × Nat × Nat × Nat × Nat :=
  let o := 72 + 8 * i
  (recFld x o 1, recFld x (o + 1) 1, recFld x (o + 2) 1, recFld x (o + 3) 1, recFld x (o + 4) 1)

/-- A gang record keeps the limits of its tables, for a leader at an address (06 R169). A consumer bit of a member that the
gang does not have breaks them (DESIGN CHOICE, log 104). -/
def gangOk (x addr : Nat) : Bool :=
  let n := recFld x 0 1
  let np := recFld x 1 1
  let pipes := (List.range np).map (recPipe x)
  decide (2 ≤ n) && decide (n ≤ 8) && decide (np ≤ 16) && recFld x 2 6 == 0 && recFld x 200 56 == 0 && recFld x 8 8 == addr &&
  (List.range 8).all (fun i => decide (i < n) || recFld x (8 + 8 * i) 8 == 0) &&
  (List.range np).all (fun i => recFld x (72 + 8 * i + 5) 3 == 0) &&
  pipes.all (fun p => decide (p.1 ≤ 15) && decide (p.2.1 < n) && p.2.2.1 != 0 && !p.2.2.1.testBit p.2.1 && decide (p.2.2.1 < 2 ^ n) &&
    decide (1 ≤ p.2.2.2.1) && decide (p.2.2.2.1 ≤ 16) && decide (p.2.2.2.2 ≤ 7)) &&
  (pipes.map (·.1)).eraseDups.length == np

/-! ### Reading at start -/

/-- Read n bytes from an address on, as one number; none, with a status, on a fault. -/
def sysReadBytes (s : State) (ia n : Nat) : State × (Nat ⊕ Nat) :=
  match sysReadLines s (ia / 64 * 64) ((ia % 64 + n + 63) / 64) with
  | (s, .inl e) => (s, .inl e)
  | (s, .inr v) => (s, .inr (v / 2 ^ (8 * (ia % 64)) % 2 ^ (8 * n)))

/-- The trap entry of a kernel: the 8 bytes below its entry, through the launch's ranges; 0 when they cannot be fetched,
a value of the peer's when they lie in a peer package (09 R260, DESIGN CHOICE, log 20). -/
def readTrapEntry (s : State) (rs : List RangeReg) (entry : Nat) (priv : Bool) : State × Word64 :=
  match rangeXlate rs ((entry + 2 ^ 64 - 8) % 2 ^ 64) 8 .fetch priv with
  | .trap _ _ => (s, 0)
  | .ok ia r =>
    if r.peer.isSome then ((drawFree s).2, (drawFree s).1)
    else
      match sysReadBytes s ia 8 with
      | (s, .inr v) => (s, w64 v)
      | (s, .inl _) => (s, 0)

/-- s0-s15 from an argument block (03 R80). -/
def readArgs (s : State) (addr : Nat) : State × (Nat ⊕ List Word64) :=
  match sysReadBytes s addr 128 with
  | (s, .inl e) => (s, .inl e)
  | (s, .inr v) => (s, .inr ((List.range 16).map (fun i => w64 (recFld v (8 * i) 8))))

/-- A checked record's kernel with its trap entry and arguments. -/
def readKernel (s : State) (rs : List RangeReg) (r : Rec) (priv : Bool) : State × (Nat ⊕ Kernel) :=
  match readArgs s r.argAddr with
  | (s, .inl e) => (s, .inl e)
  | (s, .inr a) =>
    let (s, t) := readTrapEntry s rs r.kernel.shape.entry priv
    (s, .inr { r.kernel with trapEntry := t, args := a })

/-- Read and check a record, a fault handler's or another. -/
def readRec (s : State) (addr : Nat) (handler : Bool) : State × (Nat ⊕ Rec) :=
  if addr % 64 ≠ 0 then (s, .inl 4)
  else
    match sysReadLines s addr 45 with
    | (s, .inl e) => (s, .inl e)
    | (s, .inr x) =>
      match parseRec handler x with
      | some r => (s, .inr r)
      | none => (s, .inl 4)

/-- The kernels of a gang's members, by address, under the leader's ranges (06 R169, R170). -/
def readMembers (s : State) (rs : List RangeReg) (gangAddr blocks : Nat) (priv : Bool) : List Nat → State × (Nat ⊕ List Kernel)
  | [] => (s, .inr [])
  | a :: rest =>
    match readRec s a false with
    | (s, .inl e) => (s, .inl e)
    | (s, .inr r) =>
      if !r.gang || r.gangAddr != gangAddr || r.blocks != blocks then (s, .inl 4)
      else
        match readKernel s rs r priv with
        | (s, .inl e) => (s, .inl e)
        | (s, .inr k) =>
          match readMembers s rs gangAddr blocks priv rest with
          | (s, .inl e) => (s, .inl e)
          | (s, .inr ks) => (s, .inr (k :: ks))

/-- What a launch starts with: kernels, pipes, gang flag, blocks, ranges. -/
structure Start where
  kernels : List Kernel
  pipes : List (Nat × Nat × Nat × Nat × Nat)
  gang : Bool
  blocks : Nat
  ranges : List RangeReg

/-- Read and check everything a launch's record names; `priv` is a fault handler's (03 R80; 06 R158, R169; 04 R127). (DEDUCED, log 38)
(DEDUCED, log 39) -/
def readStart (s : State) (addr : Nat) (priv : Bool) : State × (Nat ⊕ Start) :=
  match readRec s addr priv with
  | (s, .inl e) => (s, .inl e)
  | (s, .inr r) =>
    if !r.gang then
      match readKernel s r.ranges r priv with
      | (s, .inl e) => (s, .inl e)
      | (s, .inr k) => (s, .inr ⟨[k], [], false, r.blocks, r.ranges⟩)
    else if r.gangAddr % 64 ≠ 0 then (s, .inl 4)
    else
      match sysReadLines s r.gangAddr 4 with
      | (s, .inl e) => (s, .inl e)
      | (s, .inr x) =>
        if !gangOk x addr then (s, .inl 4)
        else
          match readMembers s r.ranges r.gangAddr r.blocks priv ((List.range (recFld x 0 1)).map (fun i => recFld x (8 + 8 * i) 8)) with
          | (s, .inl e) => (s, .inl e)
          | (s, .inr ks) => (s, .inr ⟨ks, (List.range (recFld x 1 1)).map (recPipe x), true, r.blocks, r.ranges⟩)

/-! ### Slots (06 R157, 04 R105) -/

/-- The context block of a launch that takes its slot: 4,096 bytes, the reserved ones zero (04 R105). -/
def writeContext (s : State) (slot : Nat) (st : Start) (cmd addr : Nat) : State :=
  let base := ctxBlock s slot
  let s := st.ranges.zipIdx.foldl (fun s (x : RangeReg × Nat) => physFields s (base + 32 * x.2)
    [(0, 8, x.1.base.toNat), (8, 8, x.1.limit.toNat), (16, 8, x.1.offset.toNat), (24, 8, x.1.attr.toNat)]) s
  let s := physFields s (base + 256)
    [(0, 8, cmd + 2 ^ 32), (8, 8, (st.kernels.head?).elim 0 (fun k => k.trapEntry.toNat)), (16, 8, addr), (24, 40, 0)]
  foldUpto (fun s i => physWrite s (base + 320 + 64 * i) 64 0) s 59

/-- A launch takes a slot. -/
def takeSlot (s : State) (slot : Nat) (st : Start) (cmd addr prio : Nat) (handler : Option Nat) : State :=
  let l : Launch :=
    { cmd := BitVec.ofNat 32 cmd, recAddr := addr, priority := prio, handler := handler.isSome, tower := handler.getD 0
      current := handler.isSome, kernels := st.kernels, gang := st.gang, blocks := if handler.isSome then 0 else st.blocks
      pipes := st.pipes, ranges := some st.ranges, home := none, dealt := 0, batches := (0, 0), bind := none, binding := false
      claimed := [], stolen := [], remote := [], ended := none, paused := false }
  writeContext { s with launches := mset s.launches slot l } slot st cmd addr

/-- LAUNCH_COMMAND: a startable launch takes the lowest free slot, its record is read and checked, and its items are
counted at the package node (R157, R158, R177). -/
def execLaunchCommand (q : Nat) (s : State) : Out :=
  match startableOf s q 1, freeLaunchSlot s with
  | some (k, c), some slot =>
    (match startFirst s (c.fld 32 8) with
      | some s => .next s
      | none =>
        let s := startCmd s k
        match readStart s (c.fld 32 8) false with
        | (s, .inl st) => .next (faultCmd s k st)
        | (s, .inr st) =>
          let s := takeSlot s slot st (q * 2 ^ 26 + cmdSeq k % 2 ^ 26) (c.fld 32 8) (cqPrio s q) none
          .next (due (treeAdd s slot 0 (st.blocks * st.kernels.length)) [.batchDeal slot]))
  | _, _ => .next s

/-! ### Fault units (04 R124-R127) -/

def fqcfg (s : State) (t : Nat) : Nat := mreg s (aFault t 0x10)
def fqBad (s : State) (t : Nat) : State := setBits s (aFault t 0x1C) (2 ^ 31)

/-- The command processor starts a tower's handler launch (R127); one whose record fails is not started.
(DEDUCED, log 36) (DEDUCED, log 37) -/
def startHandler (s : State) (t slot : Nat) : State :=
  let s := match currentHandler s t with
    | some (old, _) => handlerGone (updLaunch s old (fun l => { l with current := false })) old
    | none => s
  let addr := mreg s (aFault t 8)
  match readStart s addr true with
  | (s, .inl st) => blackBox s 0x30 4 slot st
  | (s, .inr st) => if st.gang then blackBox s 0x30 4 slot 4 else addHandler (takeSlot s slot st 0 addr 7 (some t)) t

/-- Handlers whose start waited for a context area start (R105, R127). -/
def startHandlers (s : State) : State :=
  foldUpto (fun s t =>
    if (fqcfg s t).testBit 31 && (currentHandler s t).isNone then
      ((handlerSlots t).find? (fun i => (launchOf s i).isNone)).elim s (startHandler s t)
    else s) s 2

/-- FQCFG (R125, R127); with no context area the handler's start waits for one (R105). While EN is 1 a write that repeats MAXH and
LOG2N is no write of them, and one that changes them leaves EN too (DESIGN CHOICE, log 105). -/
def execFqcfgWrite (tower : Nat) (v : Word) (s : State) : Out :=
  if !fwRunning s then .next s
  else
    let new := v.toNat &&& 0x8000FF1F
    let old := fqcfg s tower
    let maxh := field new 15 8
    let n := field new 4 0
    if maxh = 0 || 64 < maxh || n < 6 || 14 < n || (old.testBit 31 && new % 2 ^ 31 ≠ old % 2 ^ 31) then .next (fqBad s tower)
    else
      let s' := setMreg s (aFault tower 0x10) new
      if new.testBit 31 && !old.testBit 31 then
        match (handlerSlots tower).find? (fun i => (launchOf s i).isNone) with
        | none => .next (fqBad s tower)
        | some slot =>
          let s := if mreg s 0x40 = 0 then s' else startHandler s' tower slot
          .next (if s.frecs.any (fun r => r.tower == tower) then due s [.faultRecordPost tower] else s)
      else .next s'

/-- FAULT_RECORD_POST: the tower's oldest record goes to the ring, or waits: with FULL set, or until EN is 1 (R125, R126). -/
def execFaultRecordPost (tower : Nat) (s : State) : Out :=
  match takeFirst (fun (r : FRec) => r.tower == tower) s.frecs with
  | none => .next s
  | some (r, rest) =>
    if !(fqcfg s tower).testBit 31 then .next s
    else
    let prod := mreg s (aFault tower 0x14)
    let size := 2 ^ field (fqcfg s tower) 4 0
    if size ≤ seqSub prod (mreg s (aFault tower 0x18)) then .next (setBits s (aFault tower 0x1C) (2 ^ 30))
    else
      let s := { s with frecs := rest }
      let shared := match r.park with
        | some p => (mget s.parks (tower * 1024 + p)).elim 0 (fun p => p.members.length)
        | none => 0
      let pa := mreg s (aFault tower 0) + 64 * (prod % size)
      let x := r.bytes.toNat + shared % 2 ^ 16 * 2 ^ (8 * 44)
      let s := foldUpto (fun s i => physWrite s (pa + 8 * i) 8 (recFld x (8 * i) 8)) s 8
      let s := setMreg s (aFault tower 0x14) ((prod + 1) % 2 ^ 32)
      let s := { s with noparks := s.noparks.map (fun n =>
        if r.park.isNone && n.1 == tower && n.2.1 == r.page && n.2.2.isNone then (n.1, n.2.1, some prod) else n) }
      let s := addHandler s tower
      .next (if rest.any (fun r => r.tower == tower) then due s [.faultRecordPost tower] else s)

end Sys2Proof.Machine
end

