-- ==== Sys2Proof/Machine/Distribution.lean ====
section
/-! DEFINITION. Launch distribution: dealing, placement, gangs, diffusion, completion trees, and pre-emption with its
saves and restores (spec/06_distribution_and_preemption.md R157-R185, spec/09 R253, spec/11 R299). -/

namespace Sys2Proof.Machine

/-! ### Dealing (R159, R160) -/

/-- The tower of the first region's home, when its leaf pins the launch (R159). (DEDUCED, log 40) -/
def regionHome (s : State) (slot : Nat) (l : Launch) : Option Nat :=
  match (l.kernels.head?).bind (fun k => k.regions.head?) with
  | none => none
  | some e =>
    match rangeXlate (l.ranges.getD (readRanges s slot)) e.src 1 .read l.handler with
    | .trap _ _ => none
    | .ok ia r =>
      if r.peer.isSome then none
      else
        let q : XReq := ⟨.engine 0, 0, ia, e.src, slot, 0, 0, 0xFF, false, false, false, false, false, l.handler⟩
        match pageCheck s q (walkAll s ia (mreg s PTROOT) 0 5) with
        | .ok x => if x.repl || x.mig then none else some x.ht
        | _ => none

/-- Free group slots of a tower. -/
def towerSlots (s : State) (t : Nat) : Nat :=
  foldUpto (fun n i => n + (freeSlots s (768 * t + i) 32).length) 0 768

/-- W of a tower (R159). -/
def towerWeight (s : State) (t : Nat) : Nat :=
  let up := ((List.range 4).map (4 * t + ·)).filter (fun n => stackState s n == 0)
  if up.isEmpty then 0
  else towerSlots s t * (65536 - (up.map (fun n => field (mreg s (aStack n 4)) 15 0)).foldl max 0)

/-- The tower a batch goes to. -/
def batchTower (s : State) (l : Launch) : Nat :=
  match l.home with
  | some t => t
  | none =>
    let w0 := towerWeight s 0
    let w1 := towerWeight s 1
    if w0 ≠ w1 then (if w0 < w1 then 1 else 0) else if l.batches.2 < l.batches.1 then 1 else 0

/-- BATCH_DEAL (R159). -/
def execBatchDeal (slot : Nat) (s : State) : Out :=
  match launchOf s slot with
  | none => .next s
  | some l =>
    if l.ended.isSome || l.handler || l.blocks ≤ l.dealt then .next s
    else
      let l := if l.dealt = 0 then { l with home := regionHome s slot l } else l
      let n := min 16 (l.blocks - l.dealt)
      let t := batchTower s l
      let prio := launchPrio s slot
      let first := l.dealt
      let l' := { l with
        dealt := first + n, batches := if t = 0 then (l.batches.1 + 1, l.batches.2) else (l.batches.1, l.batches.2 + 1) }
      let s := updLaunch s slot (fun _ => l')
      let s := { s with dealtTo := s.dealtTo ++ [(t, ⟨0, slot, .batch first n, prio, false, false⟩)] }
      let s := treeMove s slot 0 (nodeTower t) (n * l.kernels.length)
      .next (due s (.batchHandoff t :: (if first + n < l.blocks then [.batchDeal slot] else [])))

/-- The entries that a batch becomes at an engine: itself, or one for each gang instance (R163). -/
def handoffKinds (s : State) (e : QEnt) : List EntKind :=
  match e.kind with
  | .batch f n => if (launchOf s e.launch).elim false (·.gang) then (List.range n).map (fun i => .gang (f + i)) else [e.kind]
  | x => [x]

/-- The oldest batch at a tower distributor, with the engine that takes it: the one with the fewest pending blocks, when it has free
entries for the whole batch (R160). (DESIGN CHOICE, log 108) -/
def handoffNext (s : State) (t : Nat) : Option (QEnt × List (Nat × QEnt) × Nat) :=
  (takeFirst (fun (e : Nat × QEnt) => e.1 == t) s.dealtTo).bind (fun x =>
    (leastEngine s t (handoffKinds s x.1.2).length).map (fun k => (x.1.2, x.2, k)))

/-- BATCH_HANDOFF: the tower's oldest batch goes to one engine (R160). -/
def execBatchHandoff (tower : Nat) (s : State) : Out :=
  match handoffNext s tower with
  | some (e, rest, k) =>
    let s := { s with dealtTo := rest }
    let s := treeMove s e.launch (nodeTower tower) (nodeCluster k) (entBlocks s e)
    let s := (handoffKinds s e).foldl (fun s x => addEntry s k e.launch x e.prio) s
    .next (if rest.any (fun x => x.1 == tower) then due s [.batchHandoff tower] else s)
  | none => .next s

/-- A saved block has its entry at an engine, alone or with its instance (R163, R181). -/
def isListed (s : State) (id : Nat) : Bool :=
  let names (q : QEnt) : Bool := match q.kind with
    | .saved x => x == id
    | .savedGang l => l.contains id
    | _ => false
  s.engines.any (fun (e : Nat × Engine) => e.2.entries.any names) || s.transit.any (fun e => names e.2.2)

/-- Entries that return to an engine, when it has room for them all (R163). (DESIGN CHOICE, log 108) -/
def addEntries (s : State) (k launch : Nat) (l : List EntKind) : State :=
  if 1024 < (engineOf s k).entries.length + l.length then s
  else l.foldl (fun s x => addEntry s k launch x (launchPrio s launch)) s

/-- The entry of a saved block returns to the engine of the column it left (R181); of gang members one entry for all when none is
left placed, else one each, once none of them is still being saved (R163, R184). -/
def listSaved (s : State) (id : Nat) : State :=
  match blockOf s id with
  | none => s
  | some b =>
    let k := colEngine (b.after.elim 0 (·.1))
    if b.state != .saved || isListed s id then s
    else if isGang s b && b.task.isNone then
      let inst := instanceBlocks s b
      let saved := (inst.filter (fun (x : Nat × Block) => x.2.state == .saved && !isListed s x.1)).map (·.1)
      if inst.any (fun (x : Nat × Block) => x.2.state == .stopping || x.2.state == .saving) then s
      else if inst.all (fun (x : Nat × Block) => x.2.state == .saved || x.2.state == .done) then addEntries s k b.launch [.savedGang saved]
      else addEntries s k b.launch (saved.map .saved)
    else addEntries s k b.launch [.saved id]

/-- Saved blocks without an entry, which waited for their instance or for a free entry, get one. -/
def listAll (s : State) : State :=
  ((s.blocks.filter (fun (b : Nat × Block) => b.2.state == .saved)).map (·.1)).foldl listSaved s

/-- Batches that waited for a free entry go on. -/
def handoffAgain (s : State) : State :=
  [0, 1].foldl (fun s t => if (handoffNext s t).isSome && !s.agenda.contains (.batchHandoff t)
    then due s [.batchHandoff t] else s) s

/-! ### Fit of an entry (R165, R171, R184) -/

/-- Bytes of pipe storage a launch's gang instance takes (R171). -/
def pipeBytes (l : Launch) : Nat := l.pipes.foldl (fun n p => n + p.2.2.2.1 * 256 * popCount p.2.2.1 8) 0

/-- Pipe storage in use in a column: one share of storage for each gang instance there that is placed. -/
def pipesUsed (s : State) (col : Nat) : Nat :=
  let inst := (columnBlocks s col).filter (fun (b : Nat × Block) => isGang s b.2 && b.2.task.isNone && b.2.state != .reserved)
  ((inst.map (fun (b : Nat × Block) => (b.2.launch, b.2.index))).eraseDups).foldl (fun n x =>
    n + (launchOf s x.1).elim 0 pipeBytes) 0

/-- Shapes and classes of a gang entry's members; for a saved instance, of its blocks. -/
def gangShapes (s : State) (e : QEnt) : List (Shape × Nat) :=
  match e.kind with
  | .gang _ => (launchOf s e.launch).elim [] (fun l => l.kernels.map (fun k => (k.shape, k.cls)))
  | .savedGang bs => bs.filterMap (fun b => (blockOf s b).map (fun x => (x.shape, blockCls s x)))
  | _ => []

/-- The state with one more block of a shape reserved on a core, to try what fits beside it. -/
def withBlock (s : State) (core : Nat) (x : Shape) : State :=
  (addBlock s { Block.new 9999 0 0 x [] with state := .reserved, core := some core, slots := freeSlots s core x.groups }).1

/-- Members fit cores of a column together, in some assignment (R171). -/
def membersFit (s : State) (col : Nat) : List (Shape × Nat) → Bool
  | [] => true
  | (x, cls) :: rest =>
    (List.range 4).any (fun i => fits s (4 * col + i) x cls && membersFit (withBlock s (4 * col + i) x) col rest)

/-- The core for a gang's next member: of those that leave a fit for the members after it, the one R166 chooses (R171, R172).
(DEDUCED, log 107) -/
def memberCore (s : State) (col : Nat) : List (Shape × Nat) → Option Nat
  | [] => none
  | (x, cls) :: rest =>
    bestBy (coreBefore s) (((List.range 4).map (4 * col + ·)).filter (fun core =>
      fits s core x cls && membersFit (withBlock s core x) col rest))

/-- Room for the lists of blocks in a column's reference pool (08 R219). -/
def poolRoom (s : State) (col : Nat) (bs : List Nat) : Bool :=
  decide (poolUsed s col + bs.foldl (fun n b => n + (blockOf s b).elim 0 savedRefs) 0 ≤ 4096)

/-- A gang entry fits a column. -/
def gangFits (s : State) (e : QEnt) (col : Nat) : Bool :=
  membersFit s col (gangShapes s e) && decide (pipesUsed s col + (launchOf s e.launch).elim 0 pipeBytes ≤ 65536) &&
  (match e.kind with
    | .savedGang bs => poolRoom s col bs
    | _ => true)

/-- The column R166 chooses for a gang entry among those it fits: the one whose core its first member would take. -/
def gangColumn (s : State) (k : Nat) (e : QEnt) (tried : List Nat) : Option Nat :=
  match gangShapes s e with
  | [] => none
  | (x, cls) :: _ =>
    (chooseCore s ((engineCols s k).filter (fun c => !tried.contains c && gangFits s e c)) x cls).map coreCol

/-- Columns that a saved block may be restored to: those with pool room; for a gang member whose instance is placed, that
instance's (R184). (DEDUCED, log 81) -/
def restoreCols (s : State) (k id : Nat) : List Nat :=
  let cols := (engineCols s k).filter (fun c => poolRoom s c [id])
  match blockOf s id with
  | none => cols
  | some b =>
    if isGang s b && b.task.isNone then
      match (instanceBlocks s b).findSome? (fun (x : Nat × Block) => x.2.core) with
      | some core => cols.filter (· == coreCol core)
      | none => cols
    else cols

/-- The core for an entry's next block. -/
def entCore (s : State) (k : Nat) (e : QEnt) : Option Nat :=
  let ofBlock (b : Nat) (cols : List Nat) : Option Nat := (blockOf s b).bind (fun x => chooseCore s cols x.shape (blockCls s x))
  match e.kind with
  | .batch _ _ => ((launchOf s e.launch).bind (fun l => l.kernels.head?)).bind (fun x => chooseCore s (engineCols s k) x.shape x.cls)
  | .task b | .stolen b => ofBlock b (engineCols s k)
  | .saved b => ofBlock b (restoreCols s k b)
  | _ => none

def EntKind.isGang : EntKind → Bool
  | .gang _ | .savedGang _ => true
  | _ => false

/-- Some column takes the entry's next block, or its whole instance. -/
def entFits (s : State) (k : Nat) (e : QEnt) : Bool :=
  if e.kind.isGang then (gangColumn s k e []).isSome else (entCore s k e).isSome

/-! ### Victims (R180) -/

/-- Blocks that a block may be a victim with: its gang instance's, or itself (R180). -/
def victimUnit (s : State) (id : Nat) (b : Block) : List (Nat × Block) :=
  if isGang s b && b.task.isNone then (instanceBlocks s b).filter (fun (x : Nat × Block) => x.2.state != .done) else [(id, b)]

/-- A block may be stopped for an entry of priority p (R180, R185, 09 R263). -/
def eligible (s : State) (p : Nat) (x : Nat × Block) : Bool :=
  x.2.state == .running && decide (launchPrio s x.2.launch < p) && decide (blockCls s x.2 < p) && blockCls s x.2 != 7 &&
  !s.migs.any (fun (m : Nat × Mig) => m.2.block == x.1) &&
  !s.groups.any (fun (g : Nat × Group) => g.2.block == x.1 && (match g.2.status with | .frozen _ => true | _ => false))

/-- Victim units of a column. -/
def victimUnits (s : State) (col p : Nat) : List (List Nat) :=
  ((columnBlocks s col).map (fun (x : Nat × Block) => victimUnit s x.1 x.2)).filterMap (fun u =>
    if u.all (eligible s p) then some (u.map (·.1)) else none) |>.eraseDups

/-- Unions of units with exactly n blocks. -/
def pickUnits : List (List Nat) → Nat → List (List Nat)
  | [], n => if n = 0 then [[]] else []
  | u :: r, n => (if 0 < u.length && u.length ≤ n then (pickUnits r (n - u.length)).map (u ++ ·) else []) ++ pickUnits r n

/-- The state with blocks off their cores, to try a fit. -/
def without (s : State) (ids : List Nat) : State :=
  { s with
    groups := s.groups.filter (fun (g : Nat × Group) => !(ids.contains g.2.block && keySlot g.1 != 32))
    blocks := s.blocks.map (fun (b : Nat × Block) => (b.1, if ids.contains b.1 then { b.2 with core := none, slots := [] } else b.2)) }

/-- The entry's next block, or its instance, fits a column. -/
def fitsColumn (s : State) (k col : Nat) (e : QEnt) : Bool :=
  if e.kind.isGang then gangFits s e col
  else
    match e.kind with
    | .batch _ _ => ((launchOf s e.launch).bind (fun l => l.kernels.head?)).elim false (fun x => (chooseCore s [col] x.shape x.cls).isSome)
    | .task b | .stolen b => (blockOf s b).elim false (fun x => (chooseCore s [col] x.shape (blockCls s x)).isSome)
    | .saved b => (restoreCols s k b).contains col && (blockOf s b).elim false (fun x => (chooseCore s [col] x.shape (blockCls s x)).isSome)
    | _ => false

/-- A victim set was abandoned for the entry within 16,384 base-die cycles, 9,102 ns (R183). -/
def isBanned (s : State) (k : Nat) (e : QEnt) (ids : List Nat) : Bool :=
  (engineOf s k).banned.any (fun b => b.1 == e.id && b.2.1 == ids && decide (s.dtc.toNat < b.2.2 + 9102))

/-- Among sets of one size: the lower highest-victim priority, then the youngest placement (R180). -/
def victimBefore (s : State) (a b : List Nat) : Bool :=
  let high (l : List Nat) : Nat := (l.map (fun i => (blockOf s i).elim 0 (fun x => launchPrio s x.launch))).foldl max 0
  let young (l : List Nat) : Nat := (l.map (fun i => (blockOf s i).elim 0 (·.placed))).foldl max 0
  decide (high a < high b) || (high a == high b && decide (young b < young a))

/-- The victim set for an entry: the fewest blocks of one column whose removal lets it fit. (DEDUCED, log 79) -/
def chooseVictims (s : State) (k : Nat) (e : QEnt) : Option (List Nat) :=
  let cols := (engineCols s k).map (fun c => (c, victimUnits s c e.prio))
  let most := (cols.map (fun c => (c.2.map List.length).foldl (· + ·) 0)).foldl max 0
  (List.range most).findSome? (fun n =>
    bestBy (victimBefore s) (cols.flatMap (fun c => (pickUnits c.2 (n + 1)).filter (fun ids =>
      !isBanned s k e ids && fitsColumn (without s ids) k c.1 e))))

/-- PREEMPTION_TRIGGER: an entry that fits no column stops a victim set, if no other is being stopped (R180). -/
def preempt (s : State) (k : Nat) (e : QEnt) : State :=
  if !(engineOf s k).victims.isEmpty then s
  else
    match chooseVictims s k e with
    | none => s
    | some ids =>
      let s := updEngine s k (fun x => { x with victims := ids, victimFor := e.id })
      ids.foldl (fun s id => updBlock s id (fun b => { b with state := .stopping })) s

/-! ### Placement (R164-R168) -/

/-- The entry's next block is steal-managed and not yet claimed (08 R233): its index. -/
def needsClaim (s : State) (e : QEnt) : Option Nat :=
  let idx := match e.kind with
    | .batch f _ => some f
    | .gang i => some i
    | _ => none
  match idx, launchOf s e.launch with
  | some i, some l => (match l.bind with
    | some d => if i < d.count && !l.claimed.contains i then some i else none
    | none => none)
  | _, _ => none

/-- An entry that is not tried now: its launch is pre-empted, or being bound, or its task is being reclaimed (03 R84, 08 R225,
R233). -/
def entHeld (s : State) (e : QEnt) : Bool :=
  (launchOf s e.launch).elim true (fun l => l.paused || l.binding) ||
  (match e.kind with
    | .task b | .saved b => s.goats.any (fun (x : Nat × List Nat) => x.2.contains b)
    | _ => false)

/-- Change or remove an entry. -/
def mapEntry (s : State) (k id : Nat) (f : QEnt → Option QEnt) : State :=
  handoffAgain (updEngine s k (fun e => { e with entries := e.entries.filterMap (fun q => if q.id = id then f q else some q) }))

/-- The entry without its first block, or none when it was the last. -/
def restOf (e : QEnt) : Option QEnt :=
  match e.kind with
  | .batch f n => if n ≤ 1 then none else some { e with kind := .batch (f + 1) (n - 1), passed := false, blocking := false }
  | _ => none

/-- Way 15 of a column's L1 is freed when its first pipe storage is allocated (10 R292). -/
def openWay (s : State) (col launch : Nat) : State :=
  if columnPipes s col || (launchOf s launch).elim true (fun l => !l.gang || l.pipes.isEmpty) then s else freeWay s col

/-- Place an entry's next block on a core: its item moves to the column, and it is staged, started or restored. -/
def placeOn (s : State) (k : Nat) (e : QEnt) (core : Nat) : State :=
  let col := coreCol core
  let s := mapEntry s k e.id restOf
  let s := treeMove s e.launch (nodeCluster k) (nodeColumn col) 1
  match e.kind with
  | .batch f _ => (match (launchOf s e.launch).bind (fun l => l.kernels.head?) with
    | none => s
    | some x =>
      let (s, id) := addBlock s (Block.new e.launch f 0 x.shape x.args)
      enterStaging (reserveCore s id core .reserved) id)
  | .task b => startTask s b core
  | .stolen b => enterStaging (reserveCore (countPerf s core 0x45 1) b core .reserved) b
  | .saved b =>
    let s := if (blockOf s b).elim false (·.task.isNone) then openWay s col e.launch else s
    due (reserveCore s b core .restoring) [.restoreComplete b]
  | _ => s

/-- Try entries in order; none is tried past a blocking one (R164). `seen`: priorities whose head has been tried. -/
def tryEntries (s : State) (k : Nat) (seen : List Nat) : List QEnt → State × Bool
  | [] => (s, false)
  | e :: rest =>
    if entHeld s e then tryEntries s k seen rest
    else
      let core := entCore s k e
      let col := if e.kind.isGang then gangColumn s k e [] else none
      if core.isSome || col.isSome then
        match needsClaim s e with
        | some i => (due (updEngine s k (fun x => { x with claim := some (e.launch, i, none) })) [.tileClaim (k / 12) (k % 12)], false)
        | none =>
          match core, col with
          | some c, _ => (placeOn s k e c, true)
          | _, some c => (due (updEngine s k (fun x => { x with placing := some ⟨e.id, c, [], []⟩ })) [.gangMemberReserve (k / 12) (k % 12)], false)
          | _, _ => (s, false)
      else
        let s := mapEntry s k e.id (fun q => some { q with passed := true })
        let s := if e.blocking || !seen.contains e.prio then preempt s k e else s
        if e.blocking then (s, false) else tryEntries s k (e.prio :: seen) rest

/-- BLOCK_PLACE: the engine places the first block that fits, and starts again from the head (R164); entries that waited for room
return first. -/
def execBlockPlace (tower cluster : Nat) (s : State) : Out :=
  let k := 12 * tower + cluster
  let e := engineOf s k
  if e.placing.isSome || e.claim.isSome then .next s
  else
    let s := listAll s
    let (s, placed) := tryEntries s k [] (engineOrder (engineOf s k).entries)
    .next (if placed then due s [.blockPlace tower cluster] else s)

/-- ENTRY_BLOCKING: an entry passed over for 16,384 base-die cycles becomes blocking; an engine has at most one
(R164). -/
def execEntryBlocking (tower cluster entry : Nat) (s : State) : Out :=
  let k := 12 * tower + cluster
  let ents := (engineOf s k).entries
  if ents.any (fun q => q.blocking) || !ents.any (fun q => q.id == entry && q.passed) then .next s
  else .next (due (mapEntry s k entry (fun q => some { q with blocking := true })) [.blockPlace tower cluster])

/-! ### Gangs (R169-R173) -/

/-- The placement goes to the next column, or ends with the instance QUEUED (R172). -/
def nextColumn (s : State) (k : Nat) (p : Placing) (e : QEnt) : State :=
  let s := releasePlacing s k
  let tried := p.tried ++ [p.col]
  match gangColumn s k e tried with
  | some c => due (updEngine s k (fun x => { x with placing := some ⟨p.ent, c, [], tried⟩ })) [.gangMemberReserve (k / 12) (k % 12)]
  | none => due (mapEntry s k p.ent (fun q => some { q with passed := true })) [.blockPlace (k / 12) (k % 12)]

/-- A member's shares of the pipes it consumes (R171, 09 R256). -/
def openPipes (s : State) (id : Nat) : State :=
  updBlock s id (fun b => { b with shares := (launchOf s b.launch).elim [] (fun l =>
    (l.pipes.filter (fun p => Nat.testBit p.2.2.1 b.member)).map (fun p => (p.1, []))) })

/-- Every member is reserved: pipe storage is allocated, and the members enter STAGING, or are restored, together
(R172). -/
def finishPlacing (s : State) (k : Nat) (p : Placing) (e : QEnt) (ids : List Nat) : State :=
  let s := updEngine s k (fun x => { x with placing := none })
  let s := mapEntry s k p.ent (fun _ => none)
  let s := treeMove s e.launch (nodeCluster k) (nodeColumn p.col) ids.length
  let s := openWay s p.col e.launch
  let s := match e.kind with
    | .savedGang _ => ids.foldl (fun s b => due (updBlock s b (fun b => { b with state := .restoring })) [.restoreComplete b]) s
    | _ => ids.foldl enterStaging (ids.foldl openPipes s)
  due s [.blockPlace (k / 12) (k % 12)]

/-- GANG_MEMBER_RESERVE: the next member is reserved in the column; after the last the placement completes (R172). -/
def execGangMemberReserve (tower cluster : Nat) (s : State) : Out :=
  let k := 12 * tower + cluster
  match (engineOf s k).placing with
  | none => .next s
  | some p =>
    match (engineOf s k).entries.find? (fun q => q.id == p.ent) with
    | none => .next (due (releasePlacing s k) [.blockPlace tower cluster])
    | some e =>
      let m := p.reserved.length
      match (gangShapes s e)[m]? with
      | none => .next (finishPlacing s k p e p.reserved)
      | some (x, _) =>
        match memberCore s p.col ((gangShapes s e).drop m) with
        | none => .next (nextColumn s k p e)
        | some core =>
          let (s, id) := match e.kind with
            | .savedGang bs => (s, bs.getD m 0)
            | .gang i => addBlock s (Block.new e.launch i m x (((launchOf s e.launch).bind (fun l => l.kernels[m]?)).elim [] (·.args)))
            | _ => (s, 0)
          let s := reserveCore s id core .reserved
          let ids := p.reserved ++ [id]
          let p := { p with reserved := ids }
          let s := updEngine s k (fun e => { e with placing := some p })
          if ids.length < (gangShapes s e).length then .next (due s [.gangMemberReserve tower cluster])
          else if pipesUsed s p.col + (launchOf s e.launch).elim 0 pipeBytes ≤ 65536 then .next (finishPlacing s k p e ids)
          else .next (nextColumn s k p e)

/-! ### Diffusion (R175, R176) -/

def dscfg (s : State) (t : Nat) : Nat := mreg s (aDist t 0)

/-- Entries that may be pushed: not blocking, no gang while one is being placed, no saved gang (R175), and none under a claim
(DESIGN CHOICE, log 109). -/
def movable (s : State) (k : Nat) (q : QEnt) : Bool :=
  let e := engineOf s k
  !q.blocking &&
  (match q.kind with
    | .savedGang _ => false
    | .batch f _ => e.claim.elim true (fun c => !(c.1 == q.launch && c.2.1 == f))
    | .gang i => e.placing.isNone && e.claim.elim true (fun c => !(c.1 == q.launch && c.2.1 == i))
    | _ => true)

/-- Take up to n blocks from entries, lowest priority and youngest first: what stays and what moves, both in their order
(R175). -/
def takeBlocks (s : State) (k : Nat) : Nat → List QEnt → List QEnt × List QEnt
  | _, [] => ([], [])
  | n, q :: older =>
    let m := entBlocks s q
    if n = 0 || !movable s k q then
      let (keep, go) := takeBlocks s k n older
      (q :: keep, go)
    else if m ≤ n then
      let (keep, go) := takeBlocks s k (n - m) older
      (keep, q :: go)
    else
      match q.kind with
      | .batch f c =>
        let (keep, go) := takeBlocks s k 0 older
        ({ q with kind := .batch f (c - n) } :: keep, { q with kind := .batch (f + (c - n)) n } :: go)
      | _ =>
        let (keep, go) := takeBlocks s k n older
        (q :: keep, go)

/-- Push from an engine to a neighbour when the difference of pending blocks calls for it (R175). -/
def pushTo (s : State) (a b : Nat) : State :=
  let t := a / 12
  let thr := field (dscfg s t) 7 0
  let da := engineBlocks s a
  let db := engineBlocks s b
  if thr = 0 || da < db + thr then s
  else
    let n := min ((da - db) / 2) (field (dscfg s t) 15 8)
    let e := (engineOf s a).entries
    -- lowest priority first, the youngest of each first
    let order := (sortBy (fun (x y : QEnt) => decide (y.prio ≤ x.prio)) e).reverse
    let (keep, go) := takeBlocks s a n order
    if go.isEmpty then s
    else
      let s := updEngine s a (fun x => { x with
        entries := x.entries.filterMap (fun q => keep.find? (fun k => k.id == q.id)) })
      let moved := e.filterMap (fun q => go.find? (fun g => g.id == q.id))
      handoffAgain (due { s with transit := s.transit ++ moved.map (fun q => (a, b, q)) }
        (.blockPlace t (a % 12) :: moved.map (fun _ => .diffusionArrival)))

/-- DIFFUSION_EXCHANGE: the cluster compares its pending blocks with each of its two neighbours', and the one with more pushes
(R175). -/
def execDiffusionExchange (tower cluster : Nat) (s : State) : Out :=
  let k := 12 * tower + cluster % 12
  let exchange (s : State) (j : Nat) : State :=
    if engineBlocks s k < engineBlocks s j then pushTo s j k else pushTo s k j
  .next (exchange (exchange s (12 * tower + (cluster + 1) % 12)) (12 * tower + (cluster + 11) % 12))

/-- The oldest pushed entry whose target has a free entry. -/
def arrivalNext (s : State) : Option ((Nat × Nat × QEnt) × List (Nat × Nat × QEnt)) :=
  takeFirst (fun (e : Nat × Nat × QEnt) => decide ((engineOf s e.2.1).entries.length < 1024)) s.transit

/-- DIFFUSION_ARRIVAL: the oldest pushed entry whose target has a free entry reaches it (R176, R178). -/
def execDiffusionArrival (s : State) : Out :=
  match arrivalNext s with
  | none => .next s
  | some ((a, b, q), rest) =>
    let s := { s with transit := rest }
    let n := entBlocks s q
    let s := bump (treeMove s q.launch (nodeCluster a) (nodeCluster b) n) (aDist (a / 12) 0x90) n
    .next (addEntry s b q.launch q.kind q.prio)

/-! ### Completion trees (R177, R178) -/

/-- A launch whose package count is zero finishes (R177). -/
def launchDone (s : State) (slot : Nat) : State :=
  match launchOf s slot with
  | none => s
  | some l =>
    if l.handler || l.ended.isSome || nget s.tree (slot * 1024) ≠ 0 then s
    else
      let s := releaseAll s
      let s := match cmdOfLaunch s l with
        | some k => finishCmd s k 0
        | none => s
      due (updLaunch s slot (fun l => { l with ended := some 0 })) [.slotFree slot]

/-- COMPLETION_TREE_UPDATE: the oldest count change reaches its node's parent, or for the package the command processor
(R177). -/
def execCompletionTreeUpdate (s : State) : Out :=
  match s.treeMsgs with
  | [] => .next s
  | (k, up) :: rest =>
    let s := { s with treeMsgs := rest }
    let slot := k / 1024
    let node := k % 1024
    if (launchOf s slot).isNone then .next s
    else if node = 0 then .next (if up then s else launchDone s slot)
    else if up then .next (treeAdd s slot (nodeParent node) 1)
    else .next (treeSub s slot (nodeParent node) 1)

/-- ITEM_MOVE_ACK: the oldest move's decrement is applied, once no +1 of the launch is still going up (R178). -/
def execItemMoveAck (s : State) : Out :=
  match takeFirst (fun (m : Nat × Nat) => !s.treeMsgs.any (fun x => x.2 && x.1 / 1024 == m.1 / 1024)) s.moves with
  | none => .next (if s.moves.isEmpty then s else due s [.itemMoveAck])
  | some (m, rest) => .next (treeSub { s with moves := rest } (m.1 / 1024) (m.1 % 1024) m.2)

/-! ### Saves (R181-R183; 09 R253) -/

/-- A STOPPING block can be saved: its groups have stopped and its fetched requests have landed; none is in a thermal halt (01
R25). -/
def saveReady (s : State) (id : Nat) : Bool :=
  match blockOf s id with
  | none => false
  | some b => b.state == .stopping && !s.thermal && (blockRequests s id).isEmpty && !s.migs.any (fun (m : Nat × Mig) => m.2.block == id) &&
    (blockGroups s b id).all (fun g => groupStopped s b.spill g.1 g.2)

/-- SAVE_START: the block enters SAVING; kicks not fetched are recorded, waiting `mma`s are checkpointed, and the column
releases at `.twr` (R181, R182, R299). -/
def execSaveStart (block : Nat) (s : State) : Out :=
  match blockOf s block with
  | none => .next s
  | some b =>
    match b.core with
    | none => .next s
    | some core =>
      if !saveReady s block then .next s
      else
        match saveSlotFor s (coreCol core) with
        | none => .next s
        | some sl =>
          let s := (blockGroups s b block).foldl (fun s g => if g.2.mctx.elim false (fun m => m.state == 1) then checkpointMma s g.1 else s) s
          let mine := (coreOf s core).kicks.filter (fun e => e.2.1 == block)
          let index (k : Nat) : Nat := (groupOf s k).elim 0 (·.index)
          let rec_ := mine.map (fun e => (index e.1, e.2.2))
          let s := dropKicks s core (fun e => e.2.1 == block)
          let s := { s with saves := mset s.saves sl block }
          let s := updBlock s block (fun b => { b with state := .saving, saveSlot := some sl, recKicks := rec_ ++ b.recKicks })
          let s := releaseAction s (coreCol core)
          let s := updBlock s block (fun b => { b with after := some (coreCol core, s.reqNo, gkey core (b.slots.headD 0)) })
          .next (due s [.saveComplete block])

/-- Physical address of a save slot. -/
def saveAddr (s : State) (sl : Nat) : Nat := svBase s (sl / 256) + 2 ^ 21 * (sl % 256)

/-- Saves streaming to a stack. -/
def savesTo (s : State) (stack : Nat) : Bool :=
  s.blocks.any (fun (b : Nat × Block) => b.2.state == .saving && b.2.saveSlot.elim false (fun sl => sl / 256 == stack))

/-- A deferred retraining of a stack starts when no save streams to it (02 R50, R51). -/
def retrainNext (s : State) (stack : Nat) : State :=
  let u := stackUnit s stack
  if (u.rateReq || u.trigger) && !savesTo s stack then due s [.interfaceRetrainStart stack] else s

/-- A saved block's state leaves the core, and its entry returns to its cluster's engine (R181). -/
def leaveSaved (s : State) (id : Nat) (b : Block) (core : Nat) : State :=
  let col := coreCol core
  let k := colEngine col
  let s := (blockGroups s b id).foldl (fun s g => countWait s g.1 g.2) s
  let gs := (blockGroups s b id).map (fun g => (g.2.index, { g.2 with
    walked := none
    status := (match g.2.status with
      | .broken _ => .ready
      | x => x) }))
  let saved := gs.foldl (fun (m : Map Group) (g : Nat × Group) => mset m g.1 g.2) []
  let s := updBlock s id (fun b => { b with saved := saved, state := .saved, spill := false })
  let s := clearVictim (releaseCore s id) id
  let s := treeMove s b.launch (nodeColumn col) (nodeCluster k) 1
  reclaimIf (listSaved s id) id

/-- A save can complete: its stack takes writes, and what the column had accepted is performed (R181, 11 R299); none does in a thermal
halt (01 R25). -/
def saveDone (s : State) (b : Block) : Bool :=
  b.state == .saving && !s.thermal && b.after.elim true (fun x => released s x.1 x.2.1 x.2.2) &&
  b.saveSlot.elim false (fun sl => !retraining s (sl / 256) && stackState s (sl / 256) == 0)

/-- SAVE_COMPLETE: the save area holds the block's state and check value; it becomes SAVED (R181).
(DESIGN CHOICE, log 13) -/
def execSaveComplete (block : Nat) (s : State) : Out :=
  match blockOf s block with
  | none => .next s
  | some b =>
    match b.core, b.saveSlot with
    | some core, some sl =>
      if !saveDone s b then .next s
      else
        let (v, s) := drawFree s
        let s := physWrite s (saveAddr s sl) 8 v.toNat
        let s := updBlock s block (fun b => { b with check := v })
        let tw := colTower (coreCol core)
        let s := bump s (if b.spill then aCore tw 0x20 else aDist tw 0x80) 1
        let s := if b.spill then bump s (aDist tw 0x80) 1 else s
        let s := if evacuated s core then bump (countPerf s core 0x34 1) (aSheep tw 0x30) 1 else s
        .next (retrainNext (leaveSaved s block { b with check := v } core) (sl / 256))
    | _, _ => .next s

/-- A block's recorded kicks and requests are reissued on its core (R183, R184, 07 R206). -/
def reissueCopies (s : State) (id : Nat) : State :=
  match blockOf s id with
  | none => s
  | some b =>
    match b.core with
    | none => s
    | some core =>
      (blockGroups s b id).foldl (fun s g => reissueMma s g.1) (refillKicks s core)

/-- An abandoned save: the slot is freed and the block runs again on its core (R183). (DESIGN CHOICE, log 54) -/
def abandonSave (s : State) (id : Nat) (b : Block) : State :=
  let stack := b.saveSlot.map (· / 256)
  let s := freeSave s id
  -- the set is not chosen again for its entry for a while
  let s := { s with engines := s.engines.map (fun (e : Nat × Engine) => (e.1,
    if e.2.victims.contains id && !e.2.banned.any (fun x => x.1 == e.2.victimFor && x.2.1 == e.2.victims) then
      { e.2 with banned := e.2.banned ++ [(e.2.victimFor, e.2.victims, s.dtc.toNat)] }
    else e.2)) }
  let s := clearVictim s id
  let s := updBlock s id (fun b => { b with state := .running, saveSlot := none, spill := false })
  let s := wakePushes (reissueCopies s id) b.launch b.index
  let s := if isGang s b && b.task.isNone then listAll s else s
  reclaimIf (stack.elim s (retrainNext s)) id

/-- SAVE_DEADLINE: a block not SAVED by its deadline returns to RUNNING (R183). The record's code is left open. -/
def execSaveDeadline (block : Nat) (s : State) : Out :=
  match blockOf s block with
  | none => .next s
  | some b =>
    match b.core with
    | none => .next s
    | some core =>
      -- on an evacuated layer the evacuation limit is the deadline (07 R206)
      if (b.state != .stopping && b.state != .saving) || evacuated s core then .next s
      else
        let s := bump s (aDist (colTower (coreCol core)) 0x88) 1
        let (v, s) := drawFree s
        .next (abandonSave (blackBox s (v.toNat % 65536) 0 core block) block b)

/-- RESTORE_COMPLETE: the check value is verified, the state reloaded, copies reissued, and the groups resume at their
stopping points after an acquire at `.twr` (R184, R299). -/
def execRestoreComplete (block : Nat) (s : State) : Out :=
  match blockOf s block with
  | none => .next s
  | some b =>
    match b.core, b.saveSlot with
    | some core, some sl =>
      if b.state != .restoring || retraining s (sl / 256) then .next s
      else if stackState s (sl / 256) ≠ 0 then .next (failBlock s block 5 0)
      else if physRead s (saveAddr s sl) 8 ≠ b.check.toNat then .next (raiseEvent (failBlock s block 2 0) 2)
      else
        let now := (coreOf s core).cycles
        let s := b.saved.foldl (fun s (g : Nat × Group) => setGroup s (gkey core (b.slots.getD g.1 0)) { g.2 with since := now }) s
        let s := updBlock s block (fun b => { b with
          state := if (launchOf s b.launch).elim false (·.paused) then .stopping else .running
          saved := [], saveSlot := none, after := none })
        let s := acquireAction (freeSave s block) (coreCol core)
        let s := wakePushes (reissueCopies s block) b.launch b.index
        .next (reclaimIf (due s (b.shares.map (fun sh => .pipeDelivery block sh.1))) block)
    | _, _ => .next s

/-- REGSPILL_SAVE: with no group of the core issuing and one broken on allocation, the most recently placed block of such
a group is saved (09 R253). -/
def execRegspillSave (core : Nat) (s : State) : Out :=
  match spillVictim s core with
  | none => .next s
  | some b => .next (updBlock s b.1 (fun b => { b with state := .stopping, spill := true }))

/-- A save that can complete, or a STOPPING block whose save can start. -/
def saveWork (s : State) : Option Instr :=
  match s.blocks.find? (fun (b : Nat × Block) => saveDone s b.2) with
  | some b => some (.saveComplete b.1)
  | none =>
    (s.blocks.find? (fun (b : Nat × Block) => b.2.state == .stopping && saveReady s b.1 &&
      b.2.core.elim false (fun c => (saveSlotFor s (coreCol c)).isSome))).map (fun b => .saveStart b.1)

/-- A pushed entry that can reach its engine. -/
def arrivalWork (s : State) : Option Instr := (arrivalNext s).map (fun _ => .diffusionArrival)

end Sys2Proof.Machine
end

