-- ==== Sys2Proof/Machine/Steal.lean ====
section
/-! DEFINITION. Tile queues: bindings, claims, steals, remote completions, returns and recovery, and the freeing of launch
slots (spec/08_tasks_futures_and_stealing.md R232-R240, spec/06 R179). -/

namespace Sys2Proof.Machine

/-! ### Tile entries (R232) -/

def ownPkg : Nat := Config.packageId % 256
/-- Word 0 of an entry: state, owner, tile. -/
def tileWord (st owner b : Nat) : Nat := st * 2 ^ 62 + owner % 256 * 2 ^ 48 + b % 2 ^ 24
def tileState (w : Nat) : Nat := field w 63 62
def tileOwner (w : Nat) : Nat := field w 55 48
def tileId (w : Nat) : Nat := field w 23 0
/-- Entry b is steal-managed. -/
def tileManaged (w b : Nat) : Bool := tileState w != 3 && tileId w == b

/-! ### Accesses of a queue engine (R236) -/

/-- What an engine's access came to: a value, or nothing for now. -/
inductive EAcc where
  | val (s : State) (v : Nat)
  | wait (s : State)

/-- An 8-byte `cas` at `.sys` of the part's own units. -/
def sysCas (s : State) (l : Leaf) (ia c w : Nat) : State × Nat × Bool :=
  let pa := l.pa52 ia
  if sysFails s l ia then (s, 0, true)
  else
    let r := sysReq s (.cas c w) ia 8 l
    let key := homeKey l (ia / 64) l.ht
    let h := homeGet s l key
    let raw := (isHost pa && !cxlMode s) || isFabric pa
    let o := if raw then (s, false) else l2Open s key r h
    let s := countReq o.1 r pa h.ht
    let v :=
      if raw then serveRaw (if isFabric pa then wbiLine s l (ia / 64) else s) r pa
      else
        let v := serveAtomic (homePut s key h) r key h
        { v with s := settleHome v.s key r o.2 }
    (v.s, lineField (BitVec.ofNat 512 v.val) (ia % 64) 8, v.bad)

/-- What an engine's access at a line waits for: the line is busy, the host is to give it up, or a column drains (02 R37; 11 R315,
R316). -/
def engineBars (s : State) (r : Req) : Option State :=
  if lineBusy s r.leaf r.line || s.held.any (fun x => x.1.col == 1000 && x.1.line == r.line) then some s
  else
    match sysBars s r with
    | some (_, some inv, _) => some (askBi s r.line inv)
    | some (h, none, some c) => some (orderDrain { s with reqNo := s.reqNo + 1 } { r with kind := .prefetch true } h c)
    | _ => none

/-- One access of an engine for a launch: n bytes at a virtual address, 64-bit for a `cas` or a store; a load may be an acquire.
(DEDUCED, log 27) -/
def engineAccess (s : State) (k launch va n : Nat) (kind : ReqKind) (acq : Bool) : EAcc :=
  let e := engineOf s k
  match e.answer with
  | some v => .val (updEngine s k Engine.quiet) v
  | none =>
    if e.waiting.isSome then .wait s
    else
      let atomic := match kind with
        | .cas _ _ => true
        | _ => false
      let write := match kind with
        | .load => false
        | _ => true
      let priv := (launchOf s launch).elim false (·.handler)
      let q : XReq := ⟨.engine k, k / 12, 0, va, launch, 16 * k, 0, 0xFF, write, atomic, false, false, false, priv⟩
      let stop (s : State) (st : Nat) : EAcc := .wait (failRequest s q st 0)
      if va % n ≠ 0 then stop s 1
      else
        match translate s launch va n (if write then .write else .read) q e.walked with
        | .trap s _ _ => stop s 1
        | .dead s => .wait s
        | .walk s => .wait (updEngine s k (fun e => { e with waiting := some 4096 }))
        | .park s sub l r => .wait (parkRequest s r sub l)
        | .peer s ia p r =>
          if atomic && !pathCarries s r true ⟨0, 0, 3⟩ ia none .sys then stop s 1
          else
            let kind := match kind with
              | .store d => .store (BitVec.ofNat 512 (d.toNat * 2 ^ (8 * (ia % 64))))
              | x => x
            let req : Req := ⟨s.reqNo, 1000, none, kind, ia / 64, byteMask (ia % 64) n, .wt, .sys, .noAllocate, false, false,
              .engine k, ⟨0, 0, 3⟩, some p, launch, true⟩
            let tag := nget s.tags (16 * k * 256 + p)
            let s := updEngine s k (fun e => { e with waiting := some (6000 + req.id) })
            let s := { s with peerOut := s.peerOut ++ [(p, 16 * k, tag, req)], reqNo := s.reqNo + 1 }
            .wait (sendFlit s 4 p (16 * k) none (.request (BitVec.ofNat 52 ia) (peerOpOf req)))
        | .ok s ia l r =>
          let s := clearHist s q.who
          if atomic && (isMgmt (l.pa52 ia) || !pathCarries s r false l ia none .sys) then stop s 1
          else
            match refuses s (l.pa52 ia) with
            | some st => stop s st
            | none =>
              match (if isMgmt (l.pa52 ia) then none else engineBars s { sysReq s kind ia n l with acquire := acq }) with
              | some s => .wait (updEngine s k (fun e => { e with waiting := some 5000 }))
              | none =>
                let s := updEngine s k Engine.quiet
                let (s, v, bad) := match kind with
                  | .cas c w => sysCas s l ia c w
                  | .store d => (sysStore s l ia n d.toNat, 0, false)
                  | _ => sysLoad s l ia n
                if bad then .wait (machineCheck s launch) else .val s v

/-- The engine goes on with its next access. -/
def engineAgain (s : State) (k : Nat) : State := due s [.tileClaim (k / 12) (k % 12)]

/-! ### Bindings and recovery (R233, R239) -/

/-- A block that is not pending any more: it has left QUEUED (06 R167). -/
def leftQueued (s : State) (slot b : Nat) : Bool :=
  let has (q : QEnt) : Bool := q.launch == slot && (match q.kind with
    | .batch f n => decide (f ≤ b) && decide (b < f + n)
    | .gang i => i == b
    | _ => false)
  (launchOf s slot).elim false (fun l => decide (b < l.dealt)) && !s.dealtTo.any (fun e => has e.2) &&
  !s.transit.any (fun e => has e.2.2) && !s.engines.any (fun (e : Nat × Engine) => e.2.entries.any has)

def setJob (s : State) (k : Nat) (j : Option BindJob) : State :=
  updEngine s k (fun e => { e with jobs := j.toList ++ e.jobs.drop 1 })

/-- A binding ends: its arrivals go on, and placement. -/
def endBinding (s : State) (k slot : Nat) : State :=
  let s := updLaunch (setJob s k none) slot (fun l => { l with binding := false })
  engineAgain (due (placeAll s) [.barrierArrival]) k

/-- A stolen block comes back to its package: the cluster's count rises before the package's falls (R239). -/
def requeue (s : State) (slot b : Nat) (l : Launch) : State :=
  let n := l.kernels.length
  let kind : EntKind := if l.gang then .gang b else .batch b 1
  let s := updLaunch s slot (fun l => { l with stolen := l.stolen.filter (· != b), claimed := l.claimed.filter (· != b) })
  let t := batchTower s l
  let s := bump s (aTask t 0x50) 1
  match (leastEngine s t 1).or (leastEngine s (1 - t) 1) with
  | some k => addEntry (treeMove s slot 0 (nodeCluster k) n) k slot kind (launchPrio s slot)
  | none =>
    let s := { s with dealtTo := s.dealtTo ++ [(t, ⟨0, slot, .batch b 1, launchPrio s slot, false, false⟩)] }
    due (treeMove s slot 0 (nodeTower t) n) [.batchHandoff t]

/-- The next access of a binding or of a recovery. -/
def runJob (s : State) (k : Nat) (j : BindJob) : State :=
  match j.phase with
  | 0 =>
    (match engineAccess s k j.launch (j.obj + 96) 8 .load false with
      | .wait s => s
      | .val s 0 => endBinding s k j.launch
      | .val s v => engineAgain (setJob s k (some { j with dir := v, phase := 1 })) k)
  | 1 =>
    (match engineAccess s k j.launch (j.dir + 32 * j.member) 16 .load false with
      | .wait s => s
      | .val s v =>
        let j := { j with tiles := v % 2 ^ 64, count := field v 95 64, phase := 2 }
        let s := updLaunch s j.launch (fun l => { l with bind := some ⟨j.obj, j.dir, j.member, j.tiles, j.count⟩ })
        let s := { s with engines := s.engines.map (fun (e : Nat × Engine) => (e.1, { e.2 with
          cursors := e.2.cursors.filter (fun c => c.1 / 16 != j.launch), flagsSeen := e.2.flagsSeen.filter (fun c => c.1 / 16 != j.launch) })) }
        engineAgain (setJob s k (some j)) k)
  | 2 =>
    -- queued entries of blocks that have left QUEUED become running
    (match (List.range (min j.count ((launchOf s j.launch).elim 0 (·.blocks)))).find? (fun b => decide (j.next ≤ b) && leftQueued s j.launch b) with
      | none => endBinding s k j.launch
      | some b =>
        match engineAccess s k j.launch (j.tiles + 16 * b) 8 (.cas (tileWord 0 ownPkg b) (tileWord 1 ownPkg b)) false with
        | .wait s => s
        | .val s _ => engineAgain (setJob s k (some { j with next := b + 1 })) k)
  | 4 =>
    -- a tile that a failed thief had stolen goes back, and its package is told
    (match engineAccess s k j.launch (j.tiles + 16 * j.next) 8 (.cas (tileWord 1 ownPkg j.next) (tileWord 0 j.dir j.next)) false with
      | .wait s => s
      | .val s v =>
        let s := setJob s k none
        engineAgain (if v = tileWord 1 ownPkg j.next then sendFlit s 4 j.dir (16 * k) none (.stealReturn (w32 j.obj) j.next) else s) k)
  | 5 =>
    (match engineAccess s k j.launch (j.tiles + 16 * j.next) 8 (.cas (tileWord 0 j.dir j.next) (tileWord 1 ownPkg j.next)) false with
      | .wait s => s
      | .val s v => engineAgain (setJob s k (if v = tileWord 0 j.dir j.next then some { j with phase := 4 } else none)) k)
  | _ =>
    -- entries that a lost package owns come back
    if j.count ≤ j.next then engineAgain (setJob s k none) k
    else
      match engineAccess s k j.launch (j.tiles + 16 * j.next) 8 (.cas (tileWord 1 j.dir j.next) (tileWord 0 ownPkg j.next)) false with
      | .wait s => s
      | .val s v =>
        let s := setJob s k (some { j with next := j.next + 1 })
        engineAgain (match launchOf s j.launch with
          | some l => if v = tileWord 1 j.dir j.next && l.stolen.contains j.next then requeue s j.launch j.next l else s
          | none => s) k

/-- The stolen block whose done store is at an address. -/
def storedBlock (s : State) (launch va : Nat) : Option (Nat × Block × Stolen) :=
  s.blocks.findSome? (fun (b : Nat × Block) =>
    match b.2.stolen with
    | some x => if b.2.launch = launch && x.phase = 2 && x.tiles + 16 * b.2.index = va then some (b.1, b.2, x) else none
    | none => none)

/-- Send the remote completion of a stolen block (R237). -/
def sendCompletion (s : State) (id : Nat) (b : Block) (x : Stolen) : State :=
  let s := updBlock s id (fun b => { b with stolen := some { x with phase := 3 } })
  sendFlit s 4 x.pkg (16 * x.engine) none (.remoteCompletion x.cmd b.index)

/-- A done store (R233, R237). -/
def runStore (s : State) (k launch va v : Nat) : State :=
  match engineAccess s k launch va 8 (.store (BitVec.ofNat 512 v)) false with
  | .wait s => s
  | .val s _ =>
    let s := updEngine s k (fun e => { e with stores := e.stores.drop 1 })
    engineAgain (match storedBlock s launch va with
      | some (id, b, x) => sendCompletion s id b x
      | none => s) k

/-- TILE_CLAIM: an engine's next access: of a binding, a done store, or the `cas` that claims a block (R233). -/
def execTileClaim (tower cluster : Nat) (s : State) : Out :=
  let k := 12 * tower + cluster
  let e := engineOf s k
  if e.steal.isSome then .next s
  else
    match e.jobs, e.stores, e.claim with
    | j :: _, _, _ => .next (runJob s k j)
    | [], (l, va, v) :: _, _ => .next (runStore s k l va v)
    | [], [], some (l, i, none) =>
      (match (launchOf s l).bind (·.bind) with
        | none => .next (due (updEngine s k (fun e => { e with claim := none })) [.blockPlace tower cluster])
        | some d =>
          match engineAccess s k l (d.tiles + 16 * i) 8 (.cas (tileWord 0 ownPkg i) (tileWord 1 ownPkg i)) false with
          | .wait s => .next s
          | .val s v => .next (due (updEngine s k (fun e => { e with claim := some (l, i, some v) })) [.tileClaimResult tower cluster]))
    | _, _, _ => .next s

/-- The entry at an engine that holds a block, or instance, of a launch. -/
def entryWith (s : State) (k slot b : Nat) : Option QEnt :=
  (engineOf s k).entries.find? (fun q => q.launch == slot && (match q.kind with
    | .batch f n => decide (f ≤ b) && decide (b < f + n)
    | .gang i => i == b
    | _ => false))

/-- A block can be taken out of an engine's entry: one from the middle of a batch needs a second entry (06 R163). -/
def canDrop (s : State) (k b : Nat) (q : QEnt) : Bool :=
  match q.kind with
  | .batch f n => b == f || b + 1 == f + n || decide ((engineOf s k).entries.length < 1024)
  | _ => true

/-- Take a block out of an engine's entry; one from the middle of a batch leaves two. -/
def dropPending (s : State) (k b : Nat) (q : QEnt) : State :=
  match q.kind with
  | .batch f n =>
    let lo : List QEnt := if b = f then [] else [{ q with kind := .batch f (b - f) }]
    let hi : List QEnt := if b + 1 = f + n then [] else
      [{ q with kind := .batch (b + 1) (f + n - b - 1), id := if b = f then q.id else s.entNo, blocking := q.blocking && b == f }]
    let s := updEngine { s with entNo := s.entNo + 1 } k (fun e => { e with
      entries := e.entries.flatMap (fun x => if x.id = q.id then lo ++ hi else [x]) })
    handoffAgain s
  | _ => mapEntry s k q.id (fun _ => none)

/-- A block that another package has: its item leaves the cluster for the package, or is gone when the remote completion
came first (R234, R237). -/
def skipBlock (s : State) (k slot b : Nat) (l : Launch) : State :=
  let s := (entryWith s k slot b).elim s (fun q => dropPending s k b q)
  let s := bump s (aTask (k / 12) 0x48) 1
  if l.remote.contains b then treeSub s slot (nodeCluster k) l.kernels.length
  else treeMove (updLaunch s slot (fun l => { l with stolen := l.stolen ++ [b] })) slot (nodeCluster k) 0 l.kernels.length

/-- TILE_CLAIM_RESULT: a claim that fails on another owner skips the block; otherwise the block may be reserved
(R232-R234). -/
def execTileClaimResult (tower cluster : Nat) (s : State) : Out :=
  let k := 12 * tower + cluster
  match (engineOf s k).claim with
  | some (slot, i, some w) =>
    let s := updEngine s k (fun e => { e with claim := none })
    (match launchOf s slot with
      | none => .next s
      | some l =>
        let s := if tileManaged w i && tileOwner w ≠ ownPkg then skipBlock s k slot i l
          else updLaunch s slot (fun l => { l with claimed := l.claimed ++ [i] })
        .next (due s [.blockPlace tower cluster]))
  | _ => .next s

/-! ### Steals (R235) -/

def tkcfg (s : State) (t : Nat) : Nat := mreg s (aTask t 0)

/-- A launch an engine may steal for: bound, the lowest slot from one on (DESIGN CHOICE, log 41). -/
def stealFor (s : State) (slot : Nat) : Option (Nat × Launch × Bind) :=
  s.launches.findSome? (fun (e : Nat × Launch) =>
    match e.2.bind with
    | some d => if e.1 < slot || e.2.binding || e.2.ended.isSome || e.2.paused then none else some (e.1, e.2, d)
    | none => none)

/-- An attempt for a launch as it begins. -/
def Steal.start (slot : Nat) : Steal := ⟨slot, 0, 0, 0, 0, 0, 0, 0, 0, 0, 0, 0⟩

/-- The engine is idle, and the interval since its last attempt has passed: SPOLL · 1,024 cycles of 1.8 GHz (R235). -/
def stealReady (s : State) (k : Nat) : Bool :=
  let e := engineOf s k
  (tkcfg s (k / 12)).testBit 0 && engineBlocks s k == 0 && e.placing.isNone && e.claim.isNone && e.jobs.isEmpty && e.stores.isEmpty &&
  e.waiting.isNone && e.lastSteal.elim true (fun t => decide (9 * t + 5120 * field (tkcfg s (k / 12)) 15 8 ≤ 9 * s.dtc.toNat))

def setSteal (s : State) (k : Nat) (x : Option Steal) : State := updEngine s k (fun e => { e with steal := x })

/-- The attempt ends; accesses that waited for it go on. -/
def endSteal (s : State) (k : Nat) : State := engineAgain (setSteal s k none) k

/-- The next flagged member from m on, but for the launch's own. -/
def nextFlagged (flags m own : Nat) : Option Nat := (List.range 16).find? (fun i => decide (m ≤ i) && flags.testBit i && i != own)

/-- One access of an attempt (R235). -/
def runSteal (s : State) (k : Nat) (x : Steal) (d : Bind) : State :=
  let again (s : State) (x : Steal) : State := due (setSteal s k (some x)) [.stealAttempt (k / 12) (k % 12)]
  let member (s : State) (x : Steal) (m : Nat) : State :=
    match nextFlagged x.flags m d.member with
    | some m => again s { x with member := m, phase := 1 }
    | none =>
      -- no flagged member on another package: the next bound launch's object is read
      match stealFor s (x.launch + 1) with
      | some (slot, _, _) => again s (Steal.start slot)
      | none => endSteal s k
  match x.phase with
  | 0 =>
    (match engineAccess s k x.launch d.obj 8 .load true with
      | .wait s => s
      | .val s v =>
        let flags := field v 47 32 % 2 ^ (v % 256 % 32)
        member (noteFlags s k x.launch flags) { x with flags := flags } 0)
  | 1 =>
    (match engineAccess s k x.launch (d.dir + 32 * x.member) 32 .load false with
      | .wait s => s
      | .val s v =>
        let pkg := field v 103 96
        let count := field v 95 64
        if pkg = ownPkg then member s x (x.member + 1)
        else if count = 0 then endSteal s k
        else
          let cur := mgetD (engineOf s k).cursors (16 * x.launch + x.member) (count - 1)
          again s { x with
            pkg := pkg, tiles := v % 2 ^ 64, count := count, cmd := w32 (v / 2 ^ 128), entry := if cur < count then cur else count - 1
            left := min 64 count, phase := 3 })
  | 3 =>
    (match engineAccess s k x.launch (x.tiles + 16 * x.entry) 16 .load false with
      | .wait s => s
      | .val s v =>
        let w := v % 2 ^ 64
        let down := if x.entry = 0 then x.count - 1 else x.entry - 1
        let s := updEngine s k (fun e => { e with cursors := mset e.cursors (16 * x.launch + x.member) down })
        if tileManaged w x.entry && tileState w = 0 && tileOwner w = x.pkg then
          again (treeAdd s x.launch (nodeCluster k) 1) { x with arg := w64 (v / 2 ^ 64), phase := 6 }
        else if x.left ≤ 1 then endSteal s k
        else again s { x with entry := down, left := x.left - 1 })
  | 6 =>
    (match engineAccess s k x.launch (x.tiles + 16 * x.entry) 8 (.cas (tileWord 0 x.pkg x.entry) (tileWord 1 ownPkg x.entry)) false with
      | .wait s => s
      | .val s v => due (setSteal s k (some { x with old := v, phase := 7 })) [.stealCasResult (k / 12) (k % 12)])
  | _ => s

/-- STEAL_ATTEMPT: an idle engine begins an attempt when its interval has passed, or goes on with one (R235). -/
def execStealAttempt (tower cluster : Nat) (s : State) : Out :=
  let k := 12 * tower + cluster
  match (engineOf s k).steal with
  | some x =>
    (match (launchOf s x.launch).bind (·.bind) with
      | some d => .next (runSteal s k x d)
      | none => .next (endSteal s k))
  | none =>
    let (t, s) := readDtc s
    match stealFor s 0 with
    | none => .next s
    | some (slot, _, d) =>
      if !stealReady s k then .next s
      else
        let x := Steal.start slot
        .next (runSteal (updEngine s k (fun e => { e with steal := some x, lastSteal := some t.toNat })) k x d)

/-- STEAL_CAS_RESULT: the block enters the engine, or its item is removed (R235). -/
def execStealCasResult (tower cluster : Nat) (s : State) : Out :=
  let k := 12 * tower + cluster
  match (engineOf s k).steal with
  | none => .next s
  | some x =>
    if x.phase ≠ 7 then .next s
    else
      match (launchOf s x.launch).bind (fun l => l.kernels.head?) with
      | none => .next (endSteal s k)
      | some kn =>
        let s := endSteal s k
        if x.old = tileWord 0 x.pkg x.entry then
          let s := bump s (aTask tower 0x38) 1
          let args := (List.range 16).map (fun i => (kn.args[i]?).getD 0)
          let b := Block.new x.launch x.entry 0 kn.shape (args ++ [x.arg, w64 x.pkg])
          let (s, id) := addBlock s { b with stolen := some ⟨x.pkg, x.arg, x.tiles, x.cmd, k, 0, 0⟩ }
          .next (addEntry s k x.launch (.stolen id) (launchPrio s x.launch))
        else .next (treeSub (bump s (aTask tower 0x40) 1) x.launch (nodeCluster k) 1)

/-! ### The end of a stolen block (R237) -/

/-- A stolen block's own writes are performed: no write or push of its column is on its way, here or to a peer. -/
def stolenReleased (s : State) (col : Nat) : Bool :=
  !pushesPending s && !writesBefore s col s.reqNo && s.peerOut.all (fun p => p.2.2.2.col != col)

/-- STOLEN_BLOCK_DONE: the release at `.sys`; when it is performed, the store of state done, after which the remote
completion is sent (R237). -/
def execStolenBlockDone (block : Nat) (s : State) : Out :=
  match blockOf s block with
  | none => .next s
  | some b =>
    match b.stolen with
    | none => .next s
    | some x =>
      if b.state != .done then .next s
      else
        match x.phase with
        | 0 => .next (updBlock (releaseAction s x.col) block (fun b => { b with stolen := some { x with phase := 1 } }))
        | 1 =>
          if !stolenReleased s x.col then .next s
          else
            let s := updBlock s block (fun b => { b with stolen := some { x with phase := 2 } })
            let s := updEngine s x.engine (fun e => { e with stores := e.stores ++ [(b.launch, x.tiles + 16 * b.index, tileWord 2 ownPkg b.index)] })
            .next (engineAgain s x.engine)
        | _ => .next s

/-- A stolen block whose release is performed goes on. -/
def stolenWork (s : State) : Option Instr :=
  (s.blocks.find? (fun (b : Nat × Block) => b.2.state == .done &&
    b.2.stolen.elim false (fun x => x.phase == 1 && stolenReleased s x.col))).map (fun b => .stolenBlockDone b.1)

/-- The launch a remote message names, while it is tracked (R237). -/
def launchNamed (s : State) (cmd : Word) : Option (Nat × Launch) :=
  s.launches.find? (fun (e : Nat × Launch) => !e.2.handler && e.2.cmd == cmd && e.2.ended.isNone)

/-- REMOTE_COMPLETION: the stolen item leaves the package node, or a block still pending is dropped (R237). -/
def execRemoteCompletion (launch : Word) (block : Nat) (s : State) : Out :=
  match launchNamed s launch with
  | none => .next s
  | some (slot, l) =>
    let n := l.kernels.length
    if l.stolen.contains block then
      .next (treeSub (updLaunch s slot (fun l => { l with stolen := l.stolen.filter (· != block) })) slot 0 n)
    else
      match (List.range 24).findSome? (fun k => (entryWith s k slot block).map (fun q => (k, q))) with
      | some (k, q) =>
        let e := engineOf s k
        if !canDrop s k block q then .next (updLaunch s slot (fun l => { l with remote := l.remote ++ [block] }))
        else
        let claims := e.claim.elim false (fun c => c.1 == slot && c.2.1 == block)
        let s := if claims then
            updEngine s k (fun e => { (if e.steal.isNone && e.jobs.isEmpty && e.stores.isEmpty then e.quiet else e) with claim := none })
          else s
        let s := bump (dropPending s k block q) (aTask (k / 12) 0x48) 1
        .next (due (treeSub s slot (nodeCluster k) n) [.blockPlace (k / 12) (k % 12)])
      | none => .next (updLaunch s slot (fun l => { l with remote := l.remote ++ [block] }))

/-- REMOTE_COMPLETION_ACK: the block's item leaves its own tree (R237). -/
def execRemoteCompletionAck (launch : Word) (block : Nat) (s : State) : Out :=
  match s.blocks.find? (fun (b : Nat × Block) => b.2.index == block && b.2.stolen.elim false (fun x => x.cmd == launch && x.phase == 3)) with
  | none => .next s
  | some (id, b) => .next (dropBlock (treeSub s b.launch (nodeColumn (b.stolen.elim 0 (·.col))) 1) id)

/-- STEAL_RETURN: a failed thief's block is queued again at its own package (R239). -/
def execStealReturn (launch : Word) (block : Nat) (s : State) : Out :=
  match launchNamed s launch with
  | none => .next s
  | some (slot, l) => .next (if l.stolen.contains block then requeue s slot block l else s)

/-! ### Launch slots (06 R157, R179) -/

/-- BTE requests of a launch that are outstanding: at work, or with a transaction on its way (06 R179). -/
def launchRequests (s : State) (slot : Nat) : Bool :=
  s.bte.any (fun (e : Nat × List BteReq) => e.2.any (fun r => (blockOf s r.block).elim false (fun b => b.launch == slot))) ||
  bteOut s (fun _ l => l == slot)

/-- A launch is over: it has finished, or is a fault handler's that is not current and has no block (04 R127). -/
def launchPast (s : State) (slot : Nat) (l : Launch) : Bool :=
  if l.handler then !l.current && s.blocks.all (fun (b : Nat × Block) => b.2.launch != slot) else l.ended.isSome

/-- A launch's slot is still in use: by a block on a core, a BTE request, or the return of a tile (06 R179, 08 R239).
(DEDUCED, log 110) -/
def slotInUse (s : State) (slot : Nat) : Bool :=
  s.blocks.any (fun (b : Nat × Block) => b.2.launch == slot && b.2.core.isSome) || launchRequests s slot ||
  s.engines.any (fun (e : Nat × Engine) => e.2.jobs.any (fun j => j.launch == slot))

/-- A slot that can be freed. -/
def slotWork (s : State) : Option Instr :=
  (s.launches.find? (fun (e : Nat × Launch) => launchPast s e.1 e.2 && !slotInUse s e.1)).map (fun e => .slotFree e.1)

/-- SLOT_FREE: with no block on a core and no BTE request outstanding, the launch's slot and counters are freed; its
command has finished (06 R179, 04 R105, R127). -/
def execSlotFree (slot : Nat) (s : State) : Out :=
  match launchOf s slot with
  | none => .next s
  | some l =>
    if !launchPast s slot l then .next s
    else
      let s := match cmdOfLaunch s l, l.ended with
        | some k, some st => finishCmd s k st
        | _, _ => s
      if slotInUse s slot then .next s
      else
        let s := { s with
          launches := mdel s.launches slot
          blocks := s.blocks.filter (fun (b : Nat × Block) => b.2.launch != slot)
          tree := s.tree.filter (fun (e : Nat × Nat) => e.1 / 1024 != slot)
          treeMsgs := s.treeMsgs.filter (fun e => e.1 / 1024 != slot)
          moves := s.moves.filter (fun e => e.1 / 1024 != slot) }
        let s := physWrite s (ctxBlock s slot + 260) 1 0
        .next (handoffAgain s)

/-- Every bound launch takes back the entries a lost package owns (R239). -/
def recoverFrom (s : State) (pkg : Nat) : State :=
  s.launches.foldl (fun s (e : Nat × Launch) =>
    match e.2.bind with
    | none => s
    | some d =>
      if e.2.ended.isSome then s
      else
        let k := (leastEngine s (e.2.home.getD 0) 0).getD 0
        engineAgain (updEngine s k (fun x => { x with jobs := x.jobs ++ [⟨e.1, d.obj, d.member, pkg, d.tiles, d.count, 3, 0⟩] })) k) s

end Sys2Proof.Machine
end

