-- ==== Sys2Proof/Machine/Sheepdog.lean ====
section
/-! DEFINITION. The Sheepdogs: activity windows, allotment periods, migrations between the layers of a column, and layer
evacuation (spec/07_thermal_governor_and_migration.md R186-R207). -/

namespace Sys2Proof.Machine

/-! ### Activity windows (R187, R190) -/

/-- SDWT of a tower, the nibble of class 6 zero (R208). -/
def sdwt (s : State) (t : Nat) : Nat := mreg s (aSheep t 8)

/-- ACTIVITY_WINDOW_END: CHARGE loses VALUE; a written VALUE and new weights come into force (R187-R190). -/
def execActivityWindowEnd (core : Nat) (s : State) : Out :=
  let c := coreOf s core
  let v := budgetValue s core
  let tw := colTower (coreCol core)
  let occupied := s.groups.any (fun (g : Nat × Group) => keyCore g.1 == core)
  let s := if decide (v ≤ c.charge) && occupied then bump (countPerf s core 0x30 1) (aSheep tw 0x40) 1 else s
  let s := updCore s core (fun c => { c with
    charge := c.charge - min c.charge v, value := c.pendValue.getD c.value, pendValue := none, wtab := w32 (sdwt s tw)
    owed := 0 })
  let s := if c.owed = 0 then s else tick s core c.owed
  .next { s with blocks := s.blocks.map (fun (b : Nat × Block) =>
    (b.1, if b.2.core == some core then { b.2 with refWins := b.2.refWins + bit b.2.refNow, refNow := false } else b.2)) }

/-! ### Choosing a migration (R195, R199) -/

/-- Free entries of a column's redirect table. -/
def redirFree (s : State) (col : Nat) : Nat := 8 - (mgetD s.redirs col []).length

/-- A block's requests at work that hold no redirect entry of the column. -/
def unredirected (s : State) (id col : Nat) : List (Nat × BteReq) :=
  (blockRequests s id).filter (fun r => !(mgetD s.redirs col []).contains (r.1, r.2.id))

/-- A block has a kick whose descriptor has not been fetched (R199). -/
def unfetched (s : State) (id core : Nat) : Bool :=
  (coreOf s core).kicks.any (fun e => e.2.1 == id) || (blockOf s id).elim false (fun b => !b.recKicks.isEmpty)

/-- The deferral conditions (R199). -/
def migConditions (s : State) (id core : Nat) : Bool :=
  unfetched s id core || decide (redirFree s (coreCol core) < (blockRequests s id).length)

/-- A group of the block has its lane access parked, or is FROZEN. -/
def cannotLeave (s : State) (id : Nat) (b : Block) : Bool :=
  (blockGroups s b id).any (fun g => match g.2.status with
    | .broken (.parked _) | .frozen _ => true
    | _ => false)

/-- HYST of a tower in nanoseconds. -/
def hyst (s : State) (t : Nat) : Nat := 1000 * field (sdcfg s t) 23 16

/-- A move may be started for a block (R195); a block of an evacuated layer leaves by R206. -/
def mayMove (s : State) (id : Nat) (b : Block) : Bool :=
  b.state == .running && !cannotLeave s id b &&
  b.core.elim false (fun c => (mget s.migs (coreCol c)).isNone && !evacuated s c &&
    b.moved.elim true (fun t => decide (t + hyst s (colTower (coreCol c)) ≤ s.dtc.toNat)))

/-- The other cores of a core's column that a block fits. -/
def fitTargets (s : State) (core : Nat) (b : Block) : List Nat :=
  ([0, 1, 2, 3].map (4 * coreCol core + ·)).filter (fun k => k != core && fits s k b.shape (blockCls s b))

/-- Start a migration: the target is reserved; it stops its block, or is deferred (R195, R198). -/
def startMove (s : State) (id : Nat) (b : Block) (source target : Nat) (evac : Bool) : State :=
  let conds := !evac && migConditions s id source
  let (t, s) := readDtc s
  let m : Mig := ⟨id, source, target, if conds then .defer else .stop, freeSlots s target b.shape.groups, evac, conds, t.toNat⟩
  let s := { s with migs := mset s.migs (coreCol source) m }
  if conds then bump s (aSheep (colTower (coreCol source)) 0x18) 1 else s

/-- Cooler first, then the lower layer (R196). -/
def coolerCore (s : State) (a b : Nat) : Bool := decide (coreHeat s a < coreHeat s b) || (coreHeat s a == coreHeat s b && decide (a < b))

/-- Both sensors of a core are below their ADV (R196). -/
def belowAdv (s : State) (core : Nat) : Bool :=
  [2 * core, 2 * core + 1].all (fun i => let x := sensorOf s .core i; decide (x.value < 4 * (x.advPt : Int)))

/-- Blocks of a core, the largest by a measure first, ties to the lower first group slot. -/
def largestBlock (s : State) (core : Nat) (f : Block → Nat) : Option (Nat × Block) :=
  bestBy (fun (a b : Nat × Block) => decide (f b.2 < f a.2) || (f a.2 == f b.2 && decide (a.2.slots.headD 0 < b.2.slots.headD 0)))
    (resident s core)

/-- ADVISE_MOVE: the core's block of largest share goes to the coolest fitting core; when no move is possible, with EN 0 among the
rest, the core's cap is 96 until its advise clears (R193, R194, R196). -/
def execAdviseMove (core : Nat) (s : State) : Out :=
  let col := coreCol core
  let cfg := sdcfg s (colTower col)
  let advised := (sensorOf s .core (2 * core)).adv || (sensorOf s .core (2 * core + 1)).adv
  let capped (s : State) : State := allotStatic (updCore s core (fun c => { c with advCap := true })) col
  if !advised then .next s
  else if !cfg.testBit 0 then .next (capped s)
  else if !cfg.testBit 1 then .next s
  else
    let target := (largestBlock s core (·.share)).bind (fun b =>
      if mayMove s b.1 b.2 then
        (bestBy (coolerCore s) ((fitTargets s core b.2).filter (fun k => !(coreOf s k).clamp && belowAdv s k))).map (fun k => (b, k))
      else none)
    match target with
    | some (b, k) => .next (startMove s b.1 b.2 core k false)
    | none => .next (capped s)

/-! ### Allotment periods (R192, R193, R197) -/

/-- A block's demand over a period of c core cycles, c / 32 windows (R192). (DEDUCED, log 48) -/
def demandOf (b : Block) (c : Nat) : Nat :=
  let d := ceilDiv (b.units * 32) c + (if c / 32 ≤ 8 * (b.refWins + bit b.refNow) then 16 else 0)
  min 192 (max 8 d)

/-- Sum of the demands of a core's blocks. -/
def demandSum (s : State) (core : Nat) : Nat := (resident s core).foldl (fun n (b : Nat × Block) => n + b.2.demand) 0

/-- A core whose blocks demand more than its cap moves its block of highest demand (R197). -/
def contentionMove (s : State) (core : Nat) : State :=
  if demandSum s core ≤ coreCap s core then s
  else
    match largestBlock s core (·.demand) with
    | none => s
    | some (id, b) =>
      if !mayMove s id b then s
      else
        match bestBy (fun a c => decide (demandSum s a < demandSum s c) || (demandSum s a == demandSum s c && decide (a < c)))
            ((fitTargets s core b).filter (fun k => decide (demandSum s k + b.demand ≤ coreCap s k))) with
        | some k => startMove s id b core k false
        | none => s

/-- ALLOTMENT_PERIOD_END: demands, shares, then contention moves (R192-R194, R197). -/
def execAllotmentPeriodEnd (col : Nat) (s : State) : Out :=
  let s := { s with blocks := s.blocks.map (fun (b : Nat × Block) =>
    match b.2.core with
    | some c =>
      if coreCol c = col then
        (b.1, { b.2 with
          demand := if b.2.full then demandOf b.2 ((coreOf s c).cycles - (coreOf s c).period) else 96, units := 0, refWins := 0, refNow := false, full := true })
      else b
    | none => b) }
  let s := foldUpto (fun s k => updCore s (4 * col + k) (fun c => { c with period := c.cycles })) s 4
  let s := allotColumn s col
  let cfg := sdcfg s (colTower col)
  .next (if cfg.testBit 0 && cfg.testBit 2 then foldUpto (fun s k => contentionMove s (4 * col + k)) s 4 else s)

/-! ### Migrations (R198-R205) -/

/-- A group has stopped for a migration: its `mma` is checkpointed, or stands at a k-block boundary where it can be; else it completes
(R200, R206). -/
def migGroupStopped (s : State) (evac : Bool) (k : Nat) (g : Group) : Bool :=
  groupStopped s false k { g with mctx := none } && g.mctx.elim true (fun m => m.state == 3 || cutsMma evac m)

/-- Every group of the block has stopped. -/
def migStopped (s : State) (m : Mig) : Bool :=
  (blockOf s m.block).elim false (fun b => (blockGroups s b m.block).all (fun g => migGroupStopped s m.evac g.1 g.2))

def updMig (s : State) (col : Nat) (f : Mig → Mig) : State := { s with migs := mupd s.migs col f }

/-- The target of an evacuated block: no clamp first, then the lower larger VALUE, then the lower layer (R206). -/
def evacTarget (s : State) (core : Nat) (b : Block) : Option Nat :=
  bestBy (fun x y => if (coreOf s x).clamp != (coreOf s y).clamp then (coreOf s y).clamp else coolerCore s x y) (fitTargets s core b)

/-- A block on an evacuated layer that can begin to leave it now: by migration, or by a save (R206). -/
def evacuee (s : State) (col : Nat) : Option (Nat × Block × Nat) :=
  (columnBlocks s col).findSome? (fun (x : Nat × Block) =>
    match x.2.core with
    | none => none
    | some core =>
      if evacuated s core && x.2.state != .done && !cannotLeave s x.1 x.2 &&
          ((evacTarget s core x.2).isSome || (x.2.state == .running && (saveSlotFor s col).isSome)) then some (x.1, x.2, core)
      else none)

/-- A save in progress is abandoned, its block in STOPPING (06 R185). -/
def dropSave (s : State) (id : Nat) : State :=
  updBlock (clearVictim (freeSave s id) id) id (fun b =>
    { b with state := .stopping, saveSlot := none, after := none, spill := false })

/-- Begin the evacuation of a column's next block (R206). (DESIGN CHOICE, log 50) -/
def evacNext (s : State) (col : Nat) : State :=
  match evacuee s col with
  | none => s
  | some (id, b, core) =>
    match evacTarget s core b with
    | some k =>
      startMove (updBlock (clearVictim s id) id (fun b => { b with spill := false })) id b core k true
    | none => updBlock s id (fun b => { b with state := .stopping })

/-- MIGRATION_STOP: the conditions have cleared, and the block's groups stop at their next run boundaries; on an evacuated
layer the next block is stopped (R198, R206). -/
def execMigrationStop (col : Nat) (s : State) : Out :=
  match mget s.migs col with
  | none => .next (evacNext s col)
  | some m =>
    if m.state == .defer && !migConditions s m.block m.source then .next (updMig (leaveDefer s m) col (fun m => { m with state := .stop }))
    else .next s

/-- MIGRATION_DRAIN: 16 µs have passed with the conditions holding (R198). -/
def execMigrationDrain (col : Nat) (s : State) : Out :=
  match mget s.migs col with
  | none => .next s
  | some m =>
    if (m.state == .defer || m.state == .hold) && migConditions s m.block m.source then
      .next (bump (updMig s col (fun m => { m with state := .drain })) (aSheep (colTower col) 0x20) 1)
    else .next s

/-- Bytes that cross the Mule bus, in whole beats (R201). -/
def xferBytes (s : State) (id : Nat) (b : Block) : Nat :=
  let groups := (blockGroups s b id).foldl (fun n g =>
    n + g.2.vregs.length * g.2.width * 4 + 1024 + 4096 + g.2.queues.foldl (fun n q => n + q.entries.length * g.2.width * 4) 0) 0
  let chunks := [Buf.wbuf, .abuf, .cbuf, .gbuf].foldl (fun n f => n + declared b f) 0
  let unlanded := (blockRequests s id).foldl (fun n r => if r.2.desc.op = 0 then n + r.2.chunks.length else n) 0
  ceilDiv (groups + 64 * ceilDiv chunks 512 + 512 * (chunks - unlanded)) 256 * 256

/-- A request replayed by another core's BTE: what it had under way is issued again (R206). (DEDUCED, log 51) -/
def restartReq (r : BteReq) : BteReq :=
  { r with
    again := if r.desc.op = 2 then r.again else r.again ++ (if r.stall.isSome then [r.cur] else []) ++ r.parks.map (·.1)
    stall := none, parks := [], walked := none }

/-- Requests of a block go from one core's BTE to another's, to be replayed there (R206). -/
def moveReqs (s : State) (blk a b : Nat) (p : BteReq → Bool) : State :=
  let mine := (btesOf s a).filter (fun r => r.block == blk && p r)
  if mine.isEmpty then s
  else
    let s := setBtes s a ((btesOf s a).filter (fun r => !(r.block == blk && p r)))
    mine.foldl (fun s r =>
      due (setBtes s b (btesOf s b ++ [{ restartReq r with gate := (coreOf s b).kicks.length, turn := nextTurn s b }]))
        [.bteTransactionIssue b]) s

/-- The migration may cross now: conditions clear, or all requests landed after DRAIN, or an evacuation (R198, R206). -/
def migClear (s : State) (m : Mig) : Bool :=
  m.evac || (match m.state with
    | .drain => (blockRequests s m.block).isEmpty && !unfetched s m.block m.source
    | _ => !migConditions s m.block m.source)

/-- The state crosses: redirect entries, checkpoints; in an evacuation, unfetched kicks and requests without an entry go to
the target's BTE (R200-R202, R206). -/
def beginXfer (s : State) (col : Nat) (m : Mig) (b : Block) : State :=
  let s := (blockGroups s b m.block).foldl (fun s g => if g.2.mctx.isSome then checkpointMma s g.1 else s) s
  let un := unredirected s m.block col
  let entries := mgetD s.redirs col [] ++ (un.take (redirFree s col)).map (fun r => (r.1, r.2.id))
  let s := { s with redirs := if entries.isEmpty then mdel s.redirs col else mset s.redirs col entries }
  let s := moveReqs s m.block m.source m.target (fun r => !entries.contains (m.source, r.id))
  let mine := ((coreOf s m.source).kicks.filter (fun e => e.2.1 == m.block)).map (fun e => ((groupOf s e.1).elim 0 (·.index), e.2.2))
  let s := dropKicks s m.source (fun e => e.2.1 == m.block)
  let s := updBlock s m.block (fun b => { b with recKicks := mine ++ b.recKicks })
  let s := bump s (aSheep (colTower col) 0x48) (xferBytes s m.block b)
  due (updMig s col (fun m => { m with state := .xfer })) [.migrationResume col]

/-- MIGRATION_XFER: with its groups stopped the block crosses, or holds while the conditions hold (R198, R201). -/
def execMigrationXfer (col : Nat) (s : State) : Out :=
  let s := meetStrikes s (· == .mule col)
  match mget s.migs col with
  | none => .next s
  | some m =>
    match blockOf s m.block with
    | none => .next s
    | some b =>
      if m.state == .defer || m.state == .xfer || !migStopped s m then .next s
      else if migClear s m then .next (beginXfer (leaveDefer s m) col m b)
      else if m.state == .stop then
        let s := if m.deferred then s else bump s (aSheep (colTower col) 0x18) 1
        let (t, s) := readDtc s
        .next (updMig s col (fun m => { m with state := .hold, deferred := true, since := t.toNat }))
      else .next s

/-- MIGRATION_RESUME: the block's groups go on at the target, its footprint there (R203, R204). -/
def execMigrationResume (col : Nat) (s : State) : Out :=
  match mget s.migs col with
  | none => .next s
  | some m =>
    match blockOf s m.block with
    | none => .next (cancelMig s m.block)
    | some b =>
      if m.state != .xfer then .next s
      else
        let (t, s) := readDtc s
        let now := (coreOf s m.target).cycles
        let gs := (b.slots.zip m.slots).filterMap (fun p => (groupOf s (gkey m.source p.1)).map (fun g => (p, g)))
        let s := gs.foldl (fun s x => countWait s (gkey m.source x.1.1) x.2) s
        let s := gs.foldl (fun s x => dropGroup s (gkey m.source x.1.1)) s
        let s := gs.foldl (fun s x => setGroup s (gkey m.target x.1.2) { x.2 with since := now, walked := none }) s
        let paused := (launchOf s b.launch).elim false (·.paused)
        let s := { s with migs := mdel s.migs col }
        let s := updBlock s m.block (fun b => { b with
          core := some m.target, slots := m.slots, moved := some t.toNat
          state := if b.state == .stopping && !paused then .running else b.state })
        let tw := colTower col
        let s := bump (countPerf (countPerf s m.target 0x33 1) m.source 0x34 1) (aSheep tw 0x10) 1
        let s := if m.evac then bump s (aSheep tw 0x30) 1 else s
        let s := reissueCopies s m.block
        let s := wakePushes (allotColumn s col) b.launch b.index
        let s := reclaimIf (placeAgain s m.source) m.block
        .next (due s (b.shares.map (fun sh => .pipeDelivery m.block sh.1)))

/-- What the Sheepdogs can do now: nothing in a thermal halt (01 R25; DESIGN CHOICE, log 3). -/
def migWork (s : State) : Option Instr :=
  if s.thermal then none
  else match s.migs.findSome? (fun (e : Nat × Mig) =>
      match e.2.state with
      | .defer => if migConditions s e.2.block e.2.source then none else some (Instr.migrationStop e.1)
      | .stop => if migStopped s e.2 then some (Instr.migrationXfer e.1) else none
      | .hold | .drain => if migStopped s e.2 && migClear s e.2 then some (Instr.migrationXfer e.1) else none
      | .xfer => none) with
  | some i => some i
  | none =>
    if s.evac.isEmpty then none
    else
      (((s.blocks.filterMap (fun (b : Nat × Block) => b.2.core.map coreCol)).eraseDups).find? (fun col =>
        (mget s.migs col).isNone && (evacuee s col).isSome)).map (fun col => .migrationStop col)

/-! ### Evacuation (R206, R207) -/

/-- A migration whose target's layer is evacuated goes to another core, or is cancelled where none fits; what its block's groups wait
for, and its recorded copies, go on at the source (R205, R206; DEDUCED, log 42). -/
def retarget (s : State) (col : Nat) (m : Mig) : State :=
  match blockOf s m.block with
  | none => s
  | some b =>
    let s := { s with migs := mdel s.migs col }
    match evacTarget s m.source b with
    | some k =>
      let s := if m.state == .xfer then moveReqs s m.block m.target k (fun _ => true) else s
      { s with migs := mset s.migs col { m with target := k, slots := freeSlots s k b.shape.groups } }
    | none =>
      let s := leaveDefer s m
      if m.state != .xfer then reclaimIf s m.block
      else
        -- the block stays: its requests land locally
        let s := moveReqs s m.block m.target m.source (fun _ => true)
        let mine := (blockRequests s m.block).map (fun r => (r.1, r.2.id))
        let l := (mgetD s.redirs col []).filter (fun x => !(mine.contains x && x.1 == m.source))
        let s := { s with redirs := if l.isEmpty then mdel s.redirs col else mset s.redirs col l }
        reclaimIf (wakePushes (reissueCopies s m.block) b.launch b.index) m.block

/-- A layer begins evacuation (R206): a migration from it goes on under R206, one to it is sent elsewhere, and the saves there are
abandoned (06 R185). -/
def beginEvac (s : State) (tower layer : Nat) : State :=
  if s.evac.contains (4 * tower + layer) then s
  else
    let s := { s with evac := s.evac ++ [4 * tower + layer] }
    let s := (s.blocks.filter (fun (b : Nat × Block) => b.2.state == .saving &&
      b.2.core.elim false (fun c => colTower (coreCol c) == tower && coreLayer c == layer))).foldl (fun s (b : Nat × Block) => dropSave s b.1) s
    s.migs.foldl (fun s (e : Nat × Mig) =>
      let m := e.2
      if colTower e.1 ≠ tower then s
      else if coreLayer m.target = layer then retarget s e.1 m
      else if coreLayer m.source = layer && !m.evac then
        updMig (leaveDefer s m) e.1 (fun m => { m with evac := true, state := if m.state == .xfer then .xfer else .stop })
      else s) s

/-- EVACUATION_LIMIT: what is left on the layer is killed with cause 0x1C, and its launches finish with status 6 (R207). -/
def execEvacuationLimit (tower layer : Nat) (s : State) : Out :=
  if !s.evac.contains (4 * tower + layer) then .next s
  else
    let lost := s.blocks.filter (fun (b : Nat × Block) => b.2.core.elim false (fun c => colTower (coreCol c) == tower && coreLayer c == layer))
    .next (lost.foldl (fun s (b : Nat × Block) =>
      let s := blackBox s 0x50 0 (b.2.core.getD 0) b.2.index
      failBlock (bump s (aSheep tower 0x38) 1) b.1 6 0) s)

end Sys2Proof.Machine
end

