-- ==== Sys2Proof/Machine/Manage.lean ====
section
/-! DEFINITION. Management space as it is written, the time-triggered table, firmware, attestation and keys
(spec/00 R7-R9, R530; spec/03 R59-R60, R83-R97; the register maps of every chapter). -/

namespace Sys2Proof.Machine

/-! ### One register's write (R7, R8, R530) -/

/-- The bits of a mask come from new, the others from old. (DEDUCED, log 45) -/
def mergeBits (m new old : Nat) : Nat := (old ^^^ (old &&& m)) ||| (new &&& m)

/-- A write to fields of Access RW and W1C: `rw` and `w1` are their bits; m the bits of the bytes written. -/
def writeFields (s : State) (a v m rw w1 : Nat) : State :=
  let old := mreg s a
  setMreg s a (mergeBits (m &&& rw) v old ^^^ (old &&& w1 &&& m &&& v))

/-- A physical address in the HBM4E window (04 R99). -/
def inHbm (pa : Nat) : Bool := decide (pa < 2 ^ 39)

/-- What a written register of a command queue would hold, and whether the write is discarded (03 R60, 00 R530). -/
def writeCqAddr (s : State) (q a v align : Nat) : State :=
  if cqEn s q || v % align ≠ 0 then cqBad s q else setMreg s a v

/-- FQCONS: records up to it are consumed (04 R125, R132). (DEDUCED, log 98) -/
def writeFqcons (s : State) (t v : Nat) : State :=
  let prod := mreg s (aFault t 0x14)
  if 2 ^ 31 ≤ seqSub prod v then fqBad s t
  else
    let s := setMreg s (aFault t 0x18) v
    let done (n : Nat × Nat × Option Nat) : Bool := n.1 == t && n.2.2.elim false (fun i => decide (seqSub v ((i + 1) % 2 ^ 32) < 2 ^ 31))
    let s := { s with noparks := s.noparks.filter (fun n => !done n) }
    if s.frecs.any (fun r => r.tower == t) then due s [.faultRecordPost t] else s

/-- A pool's base is 2 MiB aligned and lies in its stack (06 R162, R182). -/
def poolFits (stack base : Nat) : Bool := base % 2 ^ 21 == 0 && inHbm base && stackOf base == stack

/-- Some slot of a stack's pool holds a save. -/
def poolBusy (s : State) (stack : Nat) : Bool := s.saves.any (fun (e : Nat × Nat) => e.1 / 256 == stack)

/-- Every column of a tower is allotted again. -/
def allotTower (s : State) (t : Nat) : State := foldUpto (fun s c => allotColumn s (192 * t + c)) s 192

/-- With EN of SDCFG at 0 no move is possible for a core whose advise holds (07 R193, R194). -/
def capAdvised (s : State) (t : Nat) : State :=
  foldUpto (fun s i =>
    let core := 768 * t + i
    if (sensorOf s .core (2 * core)).adv || (sensorOf s .core (2 * core + 1)).adv then updCore s core (fun c => { c with advCap := true })
    else s) s 768

/-- A register with its own row of the opcode table: the event a write becomes. `w` is what the register would hold, with
only the bits written of a W1C field, and `n` what is written alone. -/
def ownRow (a w n : Nat) : Option (List Instr) :=
  let v := w32 w
  if a = 0x10 then some [.devrst (w32 n)]
  else if a = 0x80000 then some [.fwgo (w32 n)]
  else if a = 0x79100 then some [.ctrclr (w32 n)]
  else if 0x10000 ≤ a && a < 0x11000 && a % 64 = 0x18 then some [.cqcfgWrite (a % 65536 / 64) v]
  else if 0x10000 ≤ a && a < 0x11000 && a % 64 = 0x1C then some [.cqtailWrite (a % 65536 / 64) v]
  else if 0x10000 ≤ a && a < 0x11000 && a % 64 = 0x2C then some [.cqpoke (a % 65536 / 64) (w32 n)]
  else if 0x40000 ≤ a && a < 0x40600 then some [.colbgtWrite ((a - 0x40000) / 4) v]
  else if a = 0x90010 || a = 0x90110 then some [.fqcfgWrite ((a - 0x90000) / 256) v]
  else if a = 0x90020 || a = 0x90120 then
    let t := (a - 0x90000) / 256
    (match field n 31 30 with
      | 0 => some [.frelReplay t (BitVec.ofNat 10 n)]
      | 1 => some [.frelFail t (BitVec.ofNat 10 n)]
      | _ => none)
  else if 0xA0000 ≤ a && a < 0xA0800 && a % 256 = 0x0C then
    let k := (a - 0xA0000) / 256
    (match field n 31 30 with
      | 1 => some [.drcmdMarkDead k (BitVec.ofNat 20 n)]
      | 2 => some [.drcmdMarkLive k (BitVec.ofNat 20 n)]
      | _ => none)
  else
    match sensorReg a with
    | some (c, i, true) => if i < clsCount c then some [.ttripWrite c i v] else some []
    | some (_, _, false) => some []
    | none => none

/-- What a register that has its own row holds for merging: sensors hold their trip points. -/
def heldValue (s : State) (a : Nat) : Nat :=
  match sensorReg a with
  | some (c, i, true) => ttrip (sensorOf s c i)
  | _ => mreg s a

/-- A write of a queue's or a command processor's register (03 R59, R60, R83, R88, R93; 04 R105).
(DEDUCED, log 47) -/
def writeHost (s : State) (a v m : Nat) : State :=
  let w := mergeBits m v (mreg s a)
  if a < 0x100 then
    -- CTXBASE: fault handlers that waited for a context area start
    if a = 0x40 && s.launches.isEmpty && w % 65536 = 0 && inHbm w then
      (if mreg s a = 0 && w ≠ 0 then startHandlers (setMreg s a w) else setMreg s a w)
    else s
  else if 0x10000 ≤ a && a < 0x11000 then
    let q := a % 65536 / 64
    (match a % 64 with
      | 0 => writeCqAddr s q a w 64
      | 8 | 0x10 => writeCqAddr s q a w 128
      | 0x28 => writeFields s a v m 0 (2 ^ 31)
      | _ => s)
  else if a = 0x20000 then
    if 1000 ≤ w && w ≤ 65000000 then { setMreg s a w with ttSlot := 0 } else setBits s 0x20010 (2 ^ 31)
  else if a = 0x20008 then { setMreg s a w with ttSlot := 0 }
  else if a = 0x20010 then writeFields s a v m 1 (2 ^ 31)
  else if 0x21000 ≤ a && a < 0x22000 then
    if a % 16 = 0 then (if inHbm (w / 64 * 64) then setMreg s a (w / 64 * 64) else s)
    else writeFields s a v m 0xFF80FFFFFFFF0000 0xFFFF
  else if 0x30000 ≤ a && a < 0x30024 then setMreg s a (w % 64)
  else if a = 0x30100 then writeFields s a v m 0 0x1FF
  else if a = 0x60000 then setMreg s a (w % 2)
  else if a = 0x60008 then setMreg s a w
  else if a = 0x6000C then writeFields s a v m 0 0xFFFFFFFF
  else s

/-- A write of a register of a fault unit or a stack (04 R107, R124, R125; 05 R138, R146). -/
def writeUnit (s : State) (a v m : Nat) : State :=
  let w := mergeBits m v (mreg s a)
  if a = 0x90200 then
    if w % 65536 = 0 && inHbm w then setMreg s a w else fqBad s 0
  else if 0x90000 ≤ a && a < 0x90200 then
    let t := (a - 0x90000) / 256
    let en := (fqcfg s t).testBit 31
    (match a % 256 with
      | 0 => if en || w % 64 ≠ 0 || !inHbm w then fqBad s t else setMreg s a w
      | 8 => if en then fqBad s t else setMreg s a w
      | 0x18 => writeFqcons s t w
      | 0x1C => writeFields s a v m 0 (3 * 2 ^ 30)
      | 0x20 => fqBad s t
      | _ => s)
  else if 0xA0000 ≤ a && a < 0xA0800 then
    let n := (a - 0xA0000) / 256
    let bad := setBits s (aStack n 0x10) (2 ^ 31)
    (match a % 256 with
      | 0x0C => bad
      | 0x10 => writeFields s a v m 0 (2 ^ 31)
      | 0x18 => if w = 0 || (w % 65536 = 0 && inHbm w && stackOf w = n ^^^ 1) then setMreg s a w else bad
      | 0x20 => if w ≤ 1024 then setMreg s a w else bad
      | _ => s)
  else s

/-- A write of a register of a tower's distributor, Sheepdog, task engine, supervisor or L2 (06 R161, R162; 07 R208;
08 R240; 09 R266; 10 R295). -/
def writeTower (s : State) (a v m : Nat) : State :=
  let w := mergeBits m v (mreg s a)
  let t := a % 0x800 / 0x400
  let o := a % 0x400
  match a / 65536 with
  | 11 =>
    let bad := setBits s (aDist t 4) (2 ^ 31)
    if a ≥ 0xB0800 then s
    else if o = 0 then
      (if field w 7 0 = 1 || field w 15 8 = 0 then bad else setMreg s a (w % 65536))
    else if o = 4 then writeFields s a v m 0 (2 ^ 31)
    else if o = 0x10 || o = 0x18 || o = 0x20 || o = 0x28 then
      let n := (o - 0x10) / 8
      if poolBusy s (4 * t + n) || !poolFits (4 * t + n) w then bad else setMreg s a w
    else if o = 0x30 || o = 0x34 || o = 0x38 || o = 0x3C then
      let n := (o - 0x30) / 4
      let base := mreg s (aDist t (0x10 + 8 * n))
      if poolBusy s (4 * t + n) || 2 ^ 36 < base % 2 ^ 36 + w % 256 * 2 ^ 21 then bad else setMreg s a (w % 256)
    else s
  | 12 =>
    if a ≥ 0xC0800 then s
    else if o = 0 then
      if field w 23 16 = 0 then setBits s (aSheep t 4) (2 ^ 31)
      else
        let old := mreg s a
        let s := setMreg s a (w &&& 0xFF0007)
        if old.testBit 0 && !w.testBit 0 then allotTower (capAdvised s t) t else s
    else if o = 4 then writeFields s a v m 0 (2 ^ 31)
    else if o = 8 then setMreg s a (w &&& 0xF0FFFFFF)
    else s
  | 13 =>
    if a ≥ 0xD0800 then s
    else if o = 0 then (if field w 15 8 = 0 then setBits s (aTask t 4) (2 ^ 31) else setMreg s a (w &&& 0xFF01))
    else if o = 4 then writeFields s a v m 0 (2 ^ 31)
    else s
  | 14 =>
    if o = 0 && a < 0xE0800 && w % 4 = 0 then
      let s := setMreg s a w
      due s ((s.cores.filter (fun (c : Nat × Core) => colTower (coreCol c.1) == t && !c.2.frozen.isEmpty)).map (fun c => .supervisorStart c.1))
    else s
  | 15 =>
    if o = 0 && a < 0xF0800 then
      if (List.range 4).any (fun i => decide (16 < field w (5 * i + 4) (5 * i))) then setBits s a (2 ^ 31)
      else writeFields s a v m 0xFFFFF (2 ^ 31)
    else s
  | _ => s

/-- A write of one register: the value in its place and the bits that its bytes cover. -/
def writeReg (s : State) (a v m : Nat) : State :=
  let old := heldValue s a
  -- BADWR of COLBGT and TTRIP is W1C: only a written 1 counts
  let w1 : Nat := if (0x40000 ≤ a && a < 0x40600) || (sensorReg a).isSome then 2 ^ 31 else 0
  match ownRow a (mergeBits m v (old ^^^ (old &&& w1))) (v &&& m) with
  | some es => due s es
  | none =>
    if 0x51000 ≤ a && a < 0x51100 then writeFields s a v m 0 (2 ^ 29)
    else if a < 0x80000 then writeHost s a v m
    else if a < 0xB0000 then writeUnit s a v m
    else writeTower s a v m

/-- Base address of the register a byte belongs to. -/
def regBase (a : Nat) : Nat := if isWide (a / 8 * 8) then a / 8 * 8 else a / 4 * 4

/-- Bytes of the firmware window (R89). (DEDUCED, log 46) -/
def writeImage (s : State) (a n v : Nat) : State :=
  { s with image := foldUpto (fun m i =>
      if a + i < 0x14000000 then memSet m (a + i - 0x10000000) (BitVec.ofNat 8 (v / 2 ^ (8 * i))) else m) s.image n }

/-- The registers that a write of n bytes covers: base, value and bit mask of each. -/
def regParts (a n v : Nat) : List (Nat × Nat × Nat) :=
  ((List.range n).map (fun i => regBase (a + i))).eraseDups.map (fun b =>
    let mine := (List.range n).filter (fun i => regBase (a + i) == b)
    (b, mine.foldl (fun x i => x + v / 2 ^ (8 * i) % 256 * 2 ^ (8 * (a + i - b))) 0,
      mine.foldl (fun x i => x + 255 * 2 ^ (8 * (a + i - b))) 0))

/-- REGISTER_WRITE: each register the bytes cover acts by the Access code of its fields; before the firmware runs only the
image, FWGO and DEVRST are answered (R7, R8, R89, R530). (PRESUMED, log 8) -/
def execRegisterWrite (addr : BitVec 32) (size : Nat) (v : Word64) (s : State) : Out :=
  let a := addr.toNat
  let n := min size 8
  if 0x10000000 ≤ a then .next (writeImage s a n v.toNat)
  else
    .next ((regParts a n v.toNat).foldl (fun s p =>
      if fwRunning s || p.1 = 0x80000 || p.1 = 0x10 then writeReg s p.1 p.2.1 p.2.2 else s) s)

/-- A counter that CTRCLR clears: traffic and event counters (R96, R97; 06 R161; 07 R208; 08 R240; 09 R266; 10 R295;
11 R329). -/
def isCounter (a : Nat) : Bool :=
  let o := a % 0x400
  match a / 65536 with
  | 7 => a < 0x79020
  | 11 => decide (0x80 ≤ o)
  | 12 => a < 0xC0800 && decide (0x10 ≤ o)
  | 13 => a < 0xD0800 && decide (8 ≤ o)
  | 14 | 15 => decide (8 ≤ o)
  | 16 => true
  | _ => false

/-- CTRCLR: a write of 1 clears every traffic and event counter, and the cores' PERF counters (R97, 18 R516). -/
def execCtrclr (v : Word) (s : State) : Out :=
  if !fwRunning s || v ≠ 1 then .next s
  else .next { s with
    mgmt := s.mgmt.filter (fun (e : Nat × Nat) => !isCounter e.1)
    cores := s.cores.map (fun (e : Nat × Core) => (e.1, { e.2 with perf := [] })) }

/-! ### Firmware and the journals (R78, R89) -/

/-- A queue's commands after a device reset, acting on their journal states: what had started and is not performed again
finishes with the status the reset gave it (R78, R25). -/
def recoverJournals (s : State) : State :=
  s.cmds.foldl (fun s (e : Nat × Cmd) =>
    match e.2.state with
    | .started =>
      if e.2.type = 1 || e.2.type = 2 then faultCmd s e.1 e.2.status
      else updCmd s e.1 (fun c => { c with state := .accepted })
    | _ => s) s

/-- FWGO: a write of 1 starts the check (R89). -/
def execFwgo (v : Word) (s : State) : Out :=
  let st := field (mreg s 0x80004) 31 30
  if v = 1 && (st = 0 || st = 3) then .next (setMreg s 0x80004 (2 ^ 30)) else .next s

/-- In CXL mode firmware programs the HDM decoder's window; which one is open (02 R37). (DESIGN CHOICE, log 119) -/
def programHdm (s : State) : State :=
  if !cxlMode s then s
  else
    let (a, s) := drawFree s
    let (b, s) := drawFree s
    { s with hdm := [(a.toNat, b.toNat)] }

/-- FIRMWARE_CHECK_DONE: FWSTAT and a record hold the result (R89, R88). -/
def execFirmwareCheckDone (r : FwResult) (s : State) : Out :=
  if field (mreg s 0x80004) 31 30 ≠ 1 then .next s
  else
    let v := match r with
      | .running svn => 2 * 2 ^ 30 + svn.toNat
      | .mismatch => 3 * 2 ^ 30 + 1 * 2 ^ 16
      | .svnBelow => 3 * 2 ^ 30 + 2 * 2 ^ 16
      | .malformed => 3 * 2 ^ 30 + 3 * 2 ^ 16
    let s := raiseEvent (blackBox (setMreg s 0x80004 v) 0x40 6 0 v) 7
    .next (if field v 31 30 = 2 then recoverJournals (programHdm s) else s)

/-! ### Attestation (R90) -/

/-- The responder's answer. -/
def spdmSay (s : State) (r : SpdmRsp) : State := { s with out := s.out ++ [.spdm r] }

/-- The responder takes a request: none before the firmware runs (R89). -/
def spdmOn (s : State) (f : State → State) : Out := if fwRunning s then .next (f s) else .next s

/-- An answer that needs the connection's stage; out of order it is an error. (PRESUMED, log 14) -/
def spdmAt (s : State) (stage : Nat) (f : State → State) : Out :=
  spdmOn s (fun s => if stage ≤ s.spdm.stage then f s else spdmSay s .unexpected)

/-- 512 open bits of a signature: fresh at each use. -/
def drawBytes (s : State) : Line × State :=
  (Config.spdmBytes (16 + s.freeCount), { s with freeCount := s.freeCount + 1 })

/-- GET_VERSION opens a connection anew. -/
def execGetVersion (s : State) : Out := spdmOn s (fun s => spdmSay { s with spdm := ⟨1, false, false⟩ } .version)

/-- GET_CAPABILITIES. -/
def execGetCapabilities (s : State) : Out :=
  spdmAt s 1 (fun s => spdmSay { s with spdm := { s.spdm with stage := max 2 s.spdm.stage } } .capabilities)

/-- NEGOTIATE_ALGORITHMS: SM2_P256, SM3_256, SM4_GCM. -/
def execNegotiateAlgorithms (s : State) : Out :=
  spdmAt s 2 (fun s => spdmSay { s with spdm := { s.spdm with stage := 3 } } (.algorithms [.sm2P256, .sm3Hash256, .sm4Gcm]))

/-- GET_DIGESTS: of the one certificate slot. -/
def execGetDigests (s : State) : Out := spdmAt s 3 (fun s => spdmSay s (.digests (Config.spdmBytes 0)))

/-- GET_CERTIFICATE. -/
def execGetCertificate (s : State) : Out := spdmAt s 3 (fun s => spdmSay s (.certificate (Config.spdmBytes 1)))

/-- CHALLENGE: signed with the device's identity key. -/
def execChallenge (s : State) : Out :=
  spdmAt s 3 (fun s => let (b, s) := drawBytes s; spdmSay s (.challengeAuth b))

/-- Occupancy of the key slots (R90, R91). -/
def keyOccupancy (s : State) : BitVec 128 := BitVec.ofNat 128 (packNat 1 (fun i => bit (keyGen s i != 0)) 128)

/-- GET_MEASUREMENTS: boot ROM, firmware image digest, fuses, key slots. -/
def execGetMeasurements (s : State) : Out :=
  spdmAt s 3 (fun s =>
    spdmSay s (.measurements (Config.spdmBytes 2) (Config.imageDigest s.image) (Config.spdmBytes 3) (keyOccupancy s)))

/-- KEY_EXCHANGE. -/
def execKeyExchange (s : State) : Out :=
  spdmAt s 3 (fun s => let (b, s) := drawBytes s
    spdmSay { s with spdm := { s.spdm with exchanging := true } } (.keyExchange b))

/-- FINISH: the secured session is open. -/
def execFinish (s : State) : Out :=
  spdmOn s (fun s =>
    if s.spdm.exchanging then spdmSay { s with spdm := { s.spdm with exchanging := false, session := true } } .finished
    else spdmSay s .unexpected)

/-- END_SESSION. -/
def execEndSession (s : State) : Out :=
  spdmOn s (fun s =>
    if s.spdm.session then spdmSay { s with spdm := { s.spdm with session := false } } .ended else spdmSay s .unexpected)

/-! ### Keys (R91, R92) -/

/-- Write back and invalidate every cached line of a key slot (R92); lines pinned for an absent stack stay. -/
def wbiKey (s : State) (slot : Nat) : State :=
  let inHome := (s.home.filter (fun (h : Nat × HomeLine) => h.2.cached && isHbm h.2.pa && h.2.key == slot && !h.2.pinned)).map
    (fun h => h.1 % 2 ^ 46)
  let s := inHome.eraseDups.foldl (fun s l => wbiLine s (lineLeaf s l) l) s
  let inL1 := s.l1.filter (fun (e : Nat × L1Line) => isHbm (e.2.leaf.pa52 (64 * (e.1 % 2 ^ 46))) && e.2.leaf.key == slot)
  inL1.foldl (fun s (e : Nat × L1Line) => if (mget s.l1 e.1).isSome then wbiLine s e.2.leaf (e.1 % 2 ^ 46) else s) s

/-- Key material that a slot holds: 1 + its two keys. -/
def keyMaterial (l : KeyLoad) : Nat := 1 + l.key1.toNat * 2 ^ 128 + l.key2.toNat

/-- SET_KEY inside a secured session, with two keys: accesses under the slot wait until the key is in place (R91, R92). -/
def execSetKey (l : KeyLoad) (s : State) : Out :=
  spdmOn s (fun s =>
    if !s.spdm.session || l.slot = 0 then spdmSay s .unexpected
    else if s.keyLoads.any (·.1 == l.slot.toNat) then s
    else
      let s := if keyGen s l.slot.toNat ≠ 0 then wbiKey s l.slot.toNat else s
      due { s with keyLoads := s.keyLoads ++ [(l.slot.toNat, keyMaterial l)] } [.setKeyComplete l.slot])

/-- What waited for a line that could not be accessed goes on. -/
def wakeHeld (s : State) (p : Req × HoldWhy → Bool) : State :=
  let s := wakeEngines (unhold s p)
  let s := if s.bankCmds.any (fun b => !b.queued) then due s [.bankCommandHome] else s
  if s.arrivals.isEmpty then s else due s [.barrierArrival]

/-- SET_KEY_COMPLETE: the new key is in place (R92, R94, R88). -/
def execSetKeyComplete (slot : BitVec 7) (s : State) : Out :=
  let k := slot.toNat
  match s.keyLoads.find? (·.1 == k) with
  | none => .next s
  | some (_, m) =>
    let s := { s with keys := mset s.keys k m, keyLoads := s.keyLoads.filter (·.1 != k) }
    let s := raiseEvent (blackBox s 0x41 6 k 0) 7
    .next (wakeHeld (spdmSay s (.keySet k)) (fun x => x.2 == .key k || x.2 == .busy))

/-! ### The time-triggered table (R83-R87) -/

/-- EVERY of an entry; 0 acts as 1 (R83). -/
def ttEvery (s : State) (i : Nat) : Nat := max 1 (field (ttHigh s i) 47 32)
def ttPhase (s : State) (i : Nat) : Nat := field (ttHigh s i) 31 16

/-- The entry fires in slot n (R83). -/
def ttFires (s : State) (i n : Nat) : Bool :=
  ttEn s i && (((n : Int) - (ttPhase s i : Int)) % (ttEvery s i : Int) == 0)

/-- OVR of an entry goes up by one, saturating (R83). -/
def ttOver (s : State) (i : Nat) : State :=
  let h := ttHigh s i
  setMreg s (0x21008 + 16 * i) (if h % 65536 = 65535 then h else h + 1)

/-- A slot counts as missed (R86). -/
def ttMiss (s : State) (i : Nat) : State := raiseEvent (blackBox (ttOver s i) 0x21 5 i 1) 4

/-- The queue can take the copy (R86). -/
def ttRoom (s : State) (q : Nat) : Bool :=
  cqEn s q && seqSub (cqTail s q) (cqAcc s q) != cqSize s q && decide (seqSub (cqTail s q) (cqDone s q) < cqSize s q)

/-- Insert a copy of the template (R84, R86); one in host memory is written over the host link (R96). -/
def ttInsert (s : State) (i t : Nat) (after : Option Nat) : State :=
  let q := ttQueue s i
  let seq := cqTail s q
  let k := cmdKey q seq
  let w := physLine s (ttLow s i / 64 * 64)
  let pa := cqBase s q + 64 * (seq % cqSize s q)
  let s := if cqLoc s q then bump (dramWrite s pa 0 (BitVec.allOnes 64) w 0) 0x79010 64 else physWrite s pa 64 w.toNat
  let s := setMreg s (aCq q 0x1C) ((seq + 1) % 2 ^ 32)
  { s with ttPrev := mset s.ttPrev i k, ttIns := s.ttIns ++ [(k, i, t, after)] }

/-- The entry's previous instance, when it has not finished. -/
def ttUnfinished (s : State) (i : Nat) : Option Nat :=
  match mget s.ttPrev i with
  | none => none
  | some k =>
    if s.ttIns.any (fun e => e.1 == k) then some k
    else (cmdOf s k).bind (fun c => if c.state == .finished || c.state == .retired then none else some k)

/-- Pre-empt a launch: its blocks stop at their run boundaries, and its migrations end, one that crosses at the target (R84, 06
R180, 07 R205). -/
def ttPreempt (s : State) (slot : Nat) : State :=
  let s := updLaunch s slot (fun l => { l with paused := true })
  let mine := s.blocks.filter (fun (b : Nat × Block) => b.2.launch == slot)
  mine.foldl (fun s (b : Nat × Block) =>
    let crosses := s.migs.any (fun (m : Nat × Mig) => m.2.block == b.1 && m.2.state == .xfer)
    updBlock (if crosses then s else cancelMig s b.1) b.1 (fun b => { b with state := if b.state == .running then .stopping else b.state })) s

/-- One entry fires (R84-R86). -/
def ttFire (s : State) (i t : Nat) : State :=
  if !ttRoom s (ttQueue s i) then ttMiss s i
  else
    match ttUnfinished s i with
    | none => ttInsert s i t none
    | some prev =>
      let s := raiseEvent (blackBox (ttOver s i) 0x20 5 i 1) 4
      match field (ttHigh s i) 62 61 with
      | 1 =>
        if (mget s.ttPre i).isSome then s
        else
          (match launchOfCmd s prev with
            | some (slot, _) => ttInsert { ttPreempt s slot with ttPre := mset s.ttPre i prev } i t (some prev)
            | none => ttInsert s i t (some prev))
      | 2 => ttInsert s i t (some prev)
      | _ => s

/-- DTC at which slot n begins (R83). -/
def ttTime (s : State) (n : Nat) : Nat := (mreg s 0x20008 + n * mreg s 0x20000) % 2 ^ 64

/-- Time has reached at least t. -/
def dtcAtLeast (s : State) (t : Nat) : State := { s with dtc := w64 (max s.dtc.toNat t) }

/-- The table can fire. -/
def ttOn (s : State) : Bool := fwRunning s && (mreg s 0x20010).testBit 0 && !s.thermal && !s.halted

/-- TT_SLOT_FIRE: the enabled entries of slot n fire, in entry order (R83-R86). -/
def execTtSlotFire (n : Nat) (s : State) : Out :=
  if !ttOn s || n < s.ttSlot then .next s
  else
    let s := { dtcAtLeast s (ttTime s n) with ttSlot := n + 1 }
    .next (foldUpto (fun s i => if ttFires s i n then ttFire s i (ttTime s n) else s) s 256)

end Sys2Proof.Machine
end

