-- ==== Sys2Proof/Machine/Sensors.lean ====
section
/-! DEFINITION. Sensors and their trips, column budgets, refresh, scrubbing, and the shutdown of a stack
(spec/01_package_and_thermal.md R17-R31; spec/05_hbm_stacks.md R151-R156). -/

namespace Sys2Proof.Machine

/-! ### Budgets and trip points (01 R17, R18, R22) -/

/-- Sum of LIMIT over all columns. -/
def limitSum (s : State) : Nat := foldUpto (fun n c => n + colLimit s c) 0 384

/-- COLBGT: a LIMIT outside 200-900, or one that takes the sum over 216,400, is discarded and sets BADWR (R18). -/
def execColbgtWrite (col : Nat) (v : Word) (s : State) : Out :=
  if !fwRunning s || 384 ≤ col then .next s
  else
    let old := colbgt s col
    let lim := v.toNat % 1024
    if lim < 200 || 900 < lim || 216400 < limitSum s - colLimit s col + lim then .next (setBits s (aColbgt col) (2 ^ 31))
    else
      let bad := bit (old.testBit 31 && !v.toNat.testBit 31) * 2 ^ 31
      .next (allotStatic (setMreg s (aColbgt col) (bad + bit (old.testBit 26) * 2 ^ 26 + lim)) col)

/-- TTRIP: the three points take effect only if ADV < THR < SHD ≤ 125 (R22). -/
def execTtripWrite (c : SensorClass) (i : Nat) (v : Word) (s : State) : Out :=
  if !fwRunning s || clsCount c ≤ i then .next s
  else
    let x := sensorOf s c i
    let h := field v.toNat 23 16
    let t := field v.toNat 15 8
    let a := field v.toNat 7 0
    if a < t && t < h && h ≤ 125 then
      .next (setSensor s c i { x with shdPt := h, thrPt := t, advPt := a, badwr := x.badwr && !v.toNat.testBit 31 })
    else .next (setSensor s c i { x with badwr := true })

/-! ### Stack shutdown (05 R153-R155, 03 R77) -/

/-- A queue's command finishes with status 0x0002: both journal copies are lost (03 R77). -/
def loseCommand (s : State) (k : Nat) : State :=
  match cmdOf s k with
  | none => s
  | some c =>
    match c.state with
    | .finished | .retired => updCmd (blackBox s 0x30 4 (cmdQueue k) 2) k (fun c => { c with status := 2 })
    | _ =>
      match launchOfCmd s k with
      | some (slot, _) => killLaunch s slot 2
      | none =>
        let s := { s with copyQueue := s.copyQueue.filter (· != k) }
        match s.copy with
        | some x => if x.cmd = k then endCopy s x 2 else faultCmd s k 2
        | none => faultCmd s k 2

/-- A stack fault that leaves a queue one journal copy writes a record; one that takes the second ends its commands
(03 R77). -/
def degradeJournal (s : State) (q n : Nat) : State :=
  let mine := (s.cmds.filter (fun (e : Nat × Cmd) => cmdQueue e.1 == q)).map (·.1)
  if !(cqEn s q || !mine.isEmpty) || !(stackOf (cqJBase s q) == n || stackOf (cqJMir s q) == n) then s
  else
    let s := blackBox s 0x31 4 q n
    if journalCopies s q ≠ 0 then s else mine.foldl loseCommand s

/-- A bank's shutdown trip takes its stack down: it drains, and refuses every new request (R153). -/
def tripStack (s : State) (n : Nat) : State :=
  if stackState s n ≠ 0 then s
  else
    let s := setMreg s (aStack n 0) (2 ^ 30)
    let s := foldUpto (fun s q => degradeJournal s q n) s 64
    wakeHeld s (fun x => x.2 == .retrain n)

/-- A line lives in a stack. -/
def inStack (n pa : Nat) : Bool := isHbm pa && stackOf pa == n

/-- The homes of a line: both copies of a replicated one (R321). -/
def homesOf (leaf : Leaf) (line : Nat) : List Nat := if leaf.repl then [line, line + 2 ^ 46] else [line]

/-- Column L1s and pushes on their way give the dirty bytes they hold of some lines to the home slices: U copies push theirs,
the others give theirs up. -/
def drainLines (s : State) (reaches : Leaf → Nat → Bool) : State :=
  let mine (s : State) (p : L1Line → Bool) : List (Nat × L1Line) :=
    s.l1.filter (fun (e : Nat × L1Line) => e.2.dirty != 0 && p e.2 && reaches e.2.leaf (e.1 % 2 ^ 46))
  let s := (mine s (fun x => x.st == .u)).foldl (fun s (e : Nat × L1Line) =>
    let col := e.1 / 2 ^ 46
    l1Put (pushLine s col (e.1 % 2 ^ 46) e.2.leaf e.2.dirty e.2) col (e.1 % 2 ^ 46) { e.2 with dirty := 0 }) s
  let isPush (r : Req) : Bool := r.isPush && reaches r.leaf r.line
  let ps := (s.held.filter (fun x => isPush x.1)).map (·.1) ++ s.reqs.filter isPush
  let s := { s with reqs := s.reqs.filter (fun r => !isPush r), held := s.held.filter (fun x => !isPush x.1) }
  let s := ps.foldl (fun s r =>
    let key := homeKey r.leaf r.line (colTower r.col)
    serve s r key (homePa r.leaf key)) s
  (mine s (fun _ => true)).foldl (fun s (e : Nat × L1Line) =>
    let (col, line) := (e.1 / 2 ^ 46, e.1 % 2 ^ 46)
    let s := countTraffic s col (trafficClass (homeGet s e.2.leaf line) col) true (laneCount e.2.dirty)
    let s := (homesOf e.2.leaf line).foldl (fun s k => homePut s k (pull (homeGet s e.2.leaf k) e.2)) s
    l1Put s col line { e.2 with dirty := 0 }) s

/-- Column L1s give up the dirty bytes they hold at some addresses (R154, 02 R39). -/
def drainColumns (s : State) (at_ : Nat → Bool) : State :=
  drainLines s (fun leaf line => (homesOf leaf line).any (fun k => at_ (homePa leaf k)))

/-- Dirty home lines of a stack in ascending address order: key and record. -/
def dirtyOf (s : State) (n : Nat) : List (Nat × HomeLine) :=
  sortBy (fun a b => decide (a.2.pa ≤ b.2.pa)) (s.home.filter (fun (h : Nat × HomeLine) => h.2.dirty && inStack n h.2.pa))

/-- L2 slice of a home record, 0-383. -/
def sliceOf (h : Nat × HomeLine) : Nat := 192 * h.2.ht + Config.l2Slice (h.1 % 2 ^ 46) % 192

/-- Each slice keeps its first 2,048 lines; the rest, in order, go beyond (R154). (DESIGN CHOICE, log 83) -/
def splitPins : List (Nat × HomeLine) → Map Nat → List (Nat × HomeLine) × List (Nat × HomeLine)
  | [], _ => ([], [])
  | h :: r, m =>
    let n := nget m (sliceOf h)
    if n < 2048 then
      let x := splitPins r (nset m (sliceOf h) (n + 1))
      (h :: x.1, x.2)
    else
      let x := splitPins r m
      (x.1, h :: x.2)

/-- Records a stack's refuge region has room for (R155). A region that runs past the end of the partner stack is cut there, and
RFGBASE 0, its reset value, is the address PA 0: with a size, a region in stack 0. (DESIGN CHOICE, log 114) -/
def refugeSize (s : State) (n : Nat) : Nat :=
  let base := mreg s (aStack n 0x18)
  let size := min (mreg s (aStack n 0x20) * 2 ^ 20) (2 ^ 36 - base % 2 ^ 36)
  if size = 0 || stackOf base ≠ n ^^^ 1 then 0 else (size - 64) / 80

/-- Records that can be written to a stack's refuge region: none when the partner stack is not ONLINE (R155). -/
def refugeRoom (s : State) (n : Nat) : Nat := if stackState s (n ^^^ 1) ≠ 0 then 0 else refugeSize s n

/-- Fields of the refuge region, which are to last. -/
def keepFields (s : State) (pa : Nat) (fs : List (Nat × Nat × Nat)) : State :=
  fs.foldl (fun s f => keepBytes s (pa + f.1) f.2.1 f.2.2) s

/-- Write refuge record i (R155). It carries the line's bytes, not the poison of its words. (DESIGN CHOICE, log 115) -/
def writeRecord (s : State) (n i kind : Nat) (h : Nat × HomeLine) : State :=
  keepFields s (mreg s (aStack n 0x18) + 64 + 80 * i)
    ((0, 8, h.2.pa) :: (8, 8, kind + (if kind = 0 then sliceOf h else 0) * 65536) ::
      (List.range 8).map (fun j => (16 + 8 * j, 8, if kind = 0 then 0 else lineField h.2.data (8 * j) 8)))

/-- A dropped line is poisoned, its copies are invalidated, and a record says so (R155). -/
def dropDirty (s : State) (n : Nat) (h : Nat × HomeLine) : State :=
  let s := { s with home := mdel s.home h.1, l1 := s.l1.filter (fun (e : Nat × L1Line) => e.1 % 2 ^ 46 != h.1 % 2 ^ 46) }
  blackBox (setPoison s h.2.pa (BitVec.allOnes 16)) 0x04 2 n h.2.pa

/-- The header of a refuge region (R155). -/
def writeHeader (s : State) (n pinned refuged dropped : Nat) : State :=
  let a := mreg s (aStack n 0x18)
  keepFields s a ((0, 8, pinned) :: (8, 8, refuged) :: (16, 8, dropped) :: (List.range 5).map (fun i => (24 + 8 * i, 8, 0)))

/-- What each of a stack's dirty lines comes to when its window ends: pinned, refuged or dropped (R154, R155). -/
def settleDirty (s : State) (n : Nat) : State :=
  let (pins, rest) := splitPins (dirtyOf s n) []
  let room := refugeRoom s n
  let usable := room ≠ 0
  let kept := if usable then pins.take room else pins
  let lost := if usable then pins.drop room else []
  let out := rest.take (room - kept.length)
  let gone := lost ++ rest.drop (room - kept.length)
  let s := kept.foldl (fun s h => homePut s h.1 { h.2 with pinned := true }) s
  let s := if usable then
      let s := kept.zipIdx.foldl (fun s x => writeRecord s n x.2 0 x.1) s
      let s := out.zipIdx.foldl (fun s x => writeRecord s n (kept.length + x.2) 1 x.1) s
      writeHeader s n kept.length out.length gone.length
    else s
  let s := out.foldl (fun s h => { s with home := mdel s.home h.1, l1 := s.l1.filter (fun (e : Nat × L1Line) => e.1 % 2 ^ 46 != h.1 % 2 ^ 46) }) s
  gone.foldl (fun s h => dropDirty s n h) s

/-- DRAIN_WINDOW_END: what was not written back in time is pinned, refuged or dropped, and the stack is OFFLINE; which lines
the window sufficed for is open (R154, R155). -/
def execDrainWindowEnd (stack : Nat) (s : State) : Out :=
  if stackState s stack ≠ 1 then .next s
  else
    let s := drainColumns s (inStack stack)
    let s := (dirtyOf s stack).foldl (fun s h =>
      let (b, s) := drawChoice s
      if b then writeBack s h.1 else s) s
    .next (setMreg (settleDirty s stack) (aStack stack 0) (2 ^ 31))

/-! ### Samples (01 R19, R23, R26-R28; 05 R151) -/

/-- The two neighbours of a sensor (R19). -/
def neighbours : SensorClass → Nat → Nat × Nat
  | .core, i => (i ^^^ 1, if i / 2 % 4 = 3 then i - 2 else i + 2)
  | .base, i => (i / 48 * 48 + (i % 48 + 47) % 48, i / 48 * 48 + (i % 48 + 1) % 48)
  | .bank, i => (i / 32 * 32 + (i % 32 + 31) % 32, i / 32 * 32 + (i % 32 + 1) % 32)

/-- Sum of eight activities. -/
def activitySum (l : List (Int × Nat)) : Nat := l.foldl (fun n x => n + x.2) 0

/-- Stuck: 64 samples of one value while the activity changed by more than 20 % (R26). -/
def stuck (h : List (Int × Nat)) : Bool :=
  let a := activitySum (h.take 8)
  let b := activitySum (h.drop 56)
  h.length == 64 && h.all (fun x => x.1 == (h.headD (0, 0)).1) && decide (max a b < 5 * (max a b - min a b))

/-- The count from which a sensor's activity is taken: the base-die traffic of its four columns, or its bank's commands (R26;
03 R96). -/
def activityCount (s : State) (c : SensorClass) (i : Nat) : Nat :=
  match c with
  | .core => 0
  | .base => (List.range 4).foldl (fun n k =>
      foldUpto (fun n j => n + mreg s (0x70000 + 64 * (192 * (i / 48) + 4 * (i % 48) + k) + 8 * j)) n 6) 0
  | .bank => nget (stackUnit s (i / 4096)).cmds (i % 4096)

/-- A sensor's activity at a sample: ACTWIN of the core, or what its count has gained since the last sample (R26). -/
def activityOf (s : State) (c : SensorClass) (i : Nat) : Nat :=
  match c with
  | .core => (coreOf s (i / 2)).charge % 65536
  | _ => activityCount s c i - (sensorOf s c i).total

/-- A reading of a sensor that exists. -/
def Reading.ok (r : Reading) : Bool := decide (r.idx < clsCount r.cls)

/-- The raw reading becomes the value of a working sensor, which fails when stuck or out of range (R26). Where several checks hold
at one sample, the reason recorded is the first of stuck, out of range and disagreement. (DESIGN CHOICE, log 112) -/
def takeReading (s : State) (r : Reading) : State :=
  let x := sensorOf s r.cls r.idx
  if x.failed then s
  else
    let h := x.hist ++ [(r.raw, activityOf s r.cls r.idx)]
    let h := h.drop (h.length - 64)
    let why := if stuck h then 1 else if r.raw < -160 || 600 < r.raw then 2 else 0
    setSensor s r.cls r.idx { x with value := r.raw, hist := h, total := activityCount s r.cls r.idx, reason := why, failed := why != 0 }

/-- A reading more than 25 degrees from each of two working neighbours (R26). (DEDUCED, log 86) -/
def disagrees (s : State) (r : Reading) : Bool :=
  let x := sensorOf s r.cls r.idx
  let (i, j) := neighbours r.cls r.idx
  let a := sensorOf s r.cls i
  let b := sensorOf s r.cls j
  !x.failed && !a.failed && !b.failed && decide (100 < (r.raw - a.value).natAbs) && decide (100 < (r.raw - b.value).natAbs)

/-- The columns a sensor covers (R28). -/
def coveredColumns : SensorClass → Nat → List Nat
  | .core, i => [i / 8]
  | .base, i => (List.range 4).map (fun k => 192 * (i / 48) + 4 * (i % 48) + k)
  | .bank, _ => []

/-- A sensor has failed: its columns are clamped, and the host is told (R28). -/
def failSensor (s : State) (c : SensorClass) (i : Nat) : State :=
  let s := (coveredColumns c i).foldl (fun s k => allotStatic (setBits s (aColbgt k) (2 ^ 26)) k) s
  raiseEvent (blackBox s 0x02 (clsCode c) i (sensorOf s c i).reason) 1

/-- A failed sensor's VALUE: the larger working neighbour plus 10 degrees, or its own THR (R27). -/
def substitute (s : State) (c : SensorClass) (i : Nat) : Int :=
  let (a, b) := neighbours c i
  match ([sensorOf s c a, sensorOf s c b].filter (fun x => !x.failed)).map (·.value) with
  | [] => 4 * ((sensorOf s c i).thrPt : Int)
  | v :: r => r.foldl max v + 40

/-- Refresh rate of a bank: steps at 85 and 95 degrees, down at 3 degrees below (05 R151). -/
def rateOf (old : Nat) (v : Int) : Nat :=
  if 380 ≤ v || (old = 2 && 368 < v) then 2
  else if 340 ≤ v || (1 ≤ old && 328 < v) then 1
  else 0

/-- A trip's state after a sample: set at its point, cleared 3 degrees below (R23). -/
def tripState (old : Bool) (pt : Nat) (v : Int) : Bool := if 4 * (pt : Int) ≤ v then true else if v ≤ 4 * (pt : Int) - 12 then false else old

/-- The throttle clamp of a core follows its sensors and its base-die sensor (R23); when it clears, BUDGET returns to its prior
value (R24). -/
def clampCore (s : State) (core : Nat) : State :=
  let col := coreCol core
  let on := (sensorOf s .core (2 * core)).thr || (sensorOf s .core (2 * core + 1)).thr ||
    (sensorOf s .base (48 * colTower col + col % 192 / 4)).thr
  if (coreOf s core).clamp == on then s
  else
    allotStatic (updCore s core (fun c =>
      if on then { c with clamp := true, prior := some (c.allot, c.pendValue.getD c.value) }
      else
        let (a, v) := c.prior.getD (c.allot, c.value)
        { c with clamp := false, prior := none, allot := a, value := v, pendValue := none })) col

/-- The cores under a sensor. -/
def coveredCores : SensorClass → Nat → List Nat
  | .core, i => [i / 2]
  | c, i => (coveredColumns c i).flatMap (fun k => (List.range 4).map (4 * k + ·))

/-- An advise that clears lifts the cap of a core that could not move (07 R196). (DEDUCED, log 49) -/
def liftCap (s : State) (core : Nat) : State :=
  if (coreOf s core).advCap && !(sensorOf s .core (2 * core)).adv && !(sensorOf s .core (2 * core + 1)).adv then
    allotStatic (updCore s core (fun c => { c with advCap := false })) (coreCol core)
  else s

/-- The trips of a sample, all of which act (R23). -/
def applyTrips (s : State) (c : SensorClass) (i : Nat) : State :=
  let x := sensorOf s c i
  let y : Sensor := { x with
    adv := tripState x.adv x.advPt x.value, thr := tripState x.thr x.thrPt x.value
    shd := x.shd || decide (4 * (x.shdPt : Int) ≤ x.value), rate := if c == .bank then rateOf x.rate x.value else 0 }
  let s := setSensor s c i y
  let s := if y.adv && !x.adv then
      let s := raiseEvent s 0
      if c == .core then due s [.adviseMove (i / 2)] else s
    else if c == .core then liftCap s (i / 2) else s
  let s := (coveredCores c i).foldl clampCore s
  if y.shd && !x.shd then
    let s := blackBox s 0x01 (clsCode c) i (unsignedOf 12 x.value)
    match c with
    | .core => beginEvac s (colTower (i / 8)) (i / 2 % 4)
    | .base => { s with thermal := true }
    | .bank => tripStack s (i / 4096)
  else s

/-- SENSOR_SAMPLE: readings, plausibility, substitutes, then trips (R19, R23, R26-R28). -/
def execSensorSample (rs : List Reading) (s : State) : Out :=
  let rs := rs.filter Reading.ok
  let before := s
  let s := rs.foldl takeReading s
  let bad := rs.filter (disagrees s)
  let s := bad.foldl (fun s r => setSensor s r.cls r.idx { sensorOf s r.cls r.idx with reason := 3, failed := true }) s
  let s := rs.foldl (fun s r =>
    if (sensorOf s r.cls r.idx).failed then setSensor s r.cls r.idx { sensorOf s r.cls r.idx with value := substitute s r.cls r.idx, subst := true }
    else s) s
  let s := rs.foldl (fun s r =>
    if (sensorOf s r.cls r.idx).failed && !(sensorOf before r.cls r.idx).failed then failSensor s r.cls r.idx else s) s
  .next (rs.foldl (fun s r => applyTrips s r.cls r.idx) s)

/-! ### Refresh and scrubbing (05 R151, R152; 01 R30) -/

/-- Row r of a bank of a stack, as a row number of the part: address / 1,024 (05 R137). -/
def bankRow (stack bank r : Nat) : Nat := stack * 2 ^ 26 + r * 2 ^ 12 + bank % 32 * 2 ^ 7 + bank / 32

/-- REFRESH_COMMAND: the bank's next 8 rows, skipped when all are dead (R151). -/
def execRefreshCommand (stack bank : Nat) (s : State) : Out :=
  let u := stackUnit s stack
  let g := nget u.refPtr bank
  let live := (List.range 8).any (fun i => (mget s.dead (bankRow stack bank (8 * g + i))).isNone)
  .next (updStack s stack (fun u => { u with refreshed := u.refreshed + bit live, refPtr := nset u.refPtr bank ((g + 1) % 2048) }))

/-- Banks of a stack at a refresh rate. -/
def banksAt (s : State) (stack rate : Nat) : Nat :=
  (s.sensors.filter (fun (x : Nat × Sensor) => x.1 / 2 ^ 20 == 2 && x.1 % 2 ^ 20 / 4096 == stack && x.2.rate == rate)).length

/-- REFLOSS_WINDOW: 120 ns of each command over the bank time of 1 ms, in units of 2^-16; and the banks at raised rates
(R152). -/
def execReflossWindow (stack : Nat) (s : State) : Out :=
  let loss := min 65535 ((stackUnit s stack).refreshed * 120 * 65536 / (4096 * 1000000))
  let s := setMreg s (aStack stack 4) loss
  let s := setMreg s (aStack stack 8) (banksAt s stack 2 * 65536 + banksAt s stack 1)
  .next (updStack s stack (fun u => { u with refreshed := 0 }))

/-- SCRUB_LINE: a live line read through ECC; a corrected error is logged, an uncorrectable one poisons the line in the
stack only (01 R29, R30). -/
def execScrubLine (pa : Addr) (r : ScrubResult) (s : State) : Out :=
  let a := pa.toNat / 64 * 64
  if !inHbm a || rowDead s a || stackState s (stackOf a) ≠ 0 then .next s
  else
    match r with
    | .clean => .next s
    | .corrected => .next (blackBox s 0x03 2 (stackOf a) a)
    | .uncorrectable => .next (raiseEvent (blackBox (setPoison s a (BitVec.allOnes 16)) 0x04 2 (stackOf a) a) 2)

end Sys2Proof.Machine
end

