-- ==== Sys2Proof/Machine/Links.lean ====
section
/-! DEFINITION. The host link, host snoops and accesses, capacity extents, Glatravo links, quarantine and sweep,
retraining, and device time (spec/02_links.md). -/

namespace Sys2Proof.Machine

/-! ### The host link (R33) -/

/-- What the port trains to: in PCIe mode 128, 64 or 32 GT/s at ×16, ×8, ×4 or ×1, in CXL mode 64 GT/s at ×16; rate 0 is a link
that is down (R32, R33). -/
def linkTrains (s : State) (rate : Byte) (width : BitVec 4) : Bool :=
  rate == 0 ||
    (if cxlMode s then rate == 64 && width == 4
     else (rate == 128 || rate == 64 || rate == 32) && (width == 0 || width == 2 || width == 3 || width == 4))

/-- The IDE streams of the host link and whether each has keys: the host sets them up, one in CXL mode and up to five in PCIe
mode, and how many is open (R32, R33). (DESIGN CHOICE, log 118) -/
def drawStreams (s : State) : State :=
  let (v, s) := drawFree s
  let n := v.toNat % (if cxlMode s then 2 else 6)
  foldUpto (fun s _ =>
    let (b, s) := drawChoice s
    { s with ide := s.ide ++ [b] }) { s with ide := [] } n

/-- HOST_LINK_TRAINED: HLSTAT shows the trained width and rate (R33). -/
def execHostLinkTrained (rate : Byte) (width : BitVec 4) (s : State) : Out :=
  if !linkTrains s rate width then .next s
  else
    let v := mreg s 0x50000
    let s := if rate = 0 then { s with ide := [] } else drawStreams s
    .next (setMreg s 0x50000 (setField (setField v 15 8 rate.toNat) 19 16 width.toNat))

/-! ### Agents (R47) -/

/-- Agents change state with a record and an event (03 R88, R94). -/
def setAgent (s : State) (a st : Nat) : State :=
  raiseEvent (blackBox (setMreg s (aAgst a) (setField (mreg s (aAgst a)) 1 0 st)) 0x12 6 a st) 6

/-- A request of an agent: served from an ACTIVE one, discarded of a LOST one, refused of a QUARANTINED one (R47). -/
def fromAgent (s : State) (a : Nat) (f : State → Out) : Out :=
  if agentState s a = 0 then f s
  else if agentState s a = 2 then .next { s with out := s.out ++ [.joinRefused a] }
  else .next s

/-! ### Host snoops (R35, R36) -/

/-- The leaf through which the part knows a line: its home record's, a column copy's, or the page table's. -/
def leafOf (s : State) (ia : Nat) : Option Leaf :=
  if (mget s.home (ia / 64)).isSome then some (lineLeaf s (ia / 64))
  else
    match holders s (ia / 64) with
    | e :: _ => some e.2.leaf
    | [] =>
      match walkAll s ia (mreg s PTROOT) 0 5 with
      | .leaf l => some l
      | _ => none

/-- The leaf of a line in the host window. -/
def hostLeaf (s : State) (ia : Nat) : Option Leaf := (leafOf s ia).filter (fun l => isHost (l.pa52 ia))

/-- Every column copy gives home its dirty bytes. -/
def pullAll (s : State) (leaf : Leaf) (line : Nat) : HomeLine :=
  (holders s line).foldl (fun h (e : Nat × L1Line) => pull h e.2) (homeGet s leaf line)

/-- Write a host line to the host's memory. -/
def toHost (s : State) (pa : Nat) (d : Line) (p : BitVec 16) : State := setPoison (dramWrite s pa 0 (BitVec.allOnes 64) d p) pa p

/-- SNP_INV: dirty bytes of every copy are gathered, every copy is invalidated, and the snoop is answered; the host's own
new bytes follow (R36). (DEDUCED, log 85) (DEDUCED, log 92) -/
def execSnpInv (ia : Addr) (newData : Option Line) (s : State) : Out := fromAgent s 384 (fun s =>
  let line := ia.toNat / 64
  match hostLeaf s ia.toNat with
  | none => .next { s with out := s.out ++ [.snoop ia.toNat none] }
  | some leaf =>
    let h := pullAll s leaf line
    let pa := homePa leaf line
    let s := { s with l1 := s.l1.filter (fun (e : Nat × L1Line) => e.1 % 2 ^ 46 != line) }
    let s := if h.dirty then toHost s pa h.data h.poison else s
    let s := if h.lazy.isSome then homePut s line { h with dirty := false, hst := 0, st0 := .i, st1 := .i } else homeDrop s line
    let s := { s with out := s.out ++ [.snoop ia.toNat (if h.dirty then some h.data else none)] }
    match newData with
    | none => .next s
    | some d =>
      let s := toHost s pa d 0
      .next (match mget s.home line with
        | some h => homePut s line { h with data := d, poison := 0 }
        | none => s))

/-- A tower that shares a line, or has none of it. -/
def Moesi.shared : Moesi → Moesi
  | .i => .i
  | _ => .s

/-- SNP_DATA: U bytes are pushed, P holders merged, E and M copies become T, dirty bytes are written back, and the line is S at
the host (R36). -/
def execSnpData (ia : Addr) (s : State) : Out := fromAgent s 384 (fun s =>
  let line := ia.toNat / 64
  match hostLeaf s ia.toNat with
  | none => .next { s with out := s.out ++ [.snoop ia.toNat none] }
  | some leaf =>
    let known (s : State) : Bool := (mget s.home line).isSome || !(holders s line).isEmpty
    let s := drainLines s (fun _ l => l == line)
    let (s, h) := merge s line line (homeGet s leaf line)
    let (s, h) := recallWhere s line h (fun _ => true) .downgrade
    let s := if h.dirty then toHost s (homePa leaf line) h.data h.poison else s
    let s := { s with out := s.out ++ [.snoop ia.toNat (if h.dirty then some h.data else none)] }
    .next (if known s then homePut s line { h with dirty := false, hst := 1, st0 := h.st0.shared, st1 := h.st1.shared } else s))

/-- SNP_CUR: the line's current bytes go to the host; every copy and the host-side state stay (R36). -/
def execSnpCur (ia : Addr) (s : State) : Out := fromAgent s 384 (fun s =>
  match hostLeaf s ia.toNat with
  | none => .next { s with out := s.out ++ [.snoop ia.toNat none] }
  | some leaf => .next { s with out := s.out ++ [.snoop ia.toNat (some (pullAll s leaf (ia.toNat / 64)).data)] })

/-! ### Host accesses to device memory (R37) -/

/-- BI_RSP: the host has given the line up, or after BISnpData shares it; what waited for it goes on (R37). -/
def execBiRsp (ia : Addr) (s : State) : Out := fromAgent s 384 (fun s =>
  let line := ia.toNat / 64
  match takeFirst (fun (b : Nat × Bool) => b.1 == line) s.bi with
  | none => .next s
  | some ((_, inv), rest) =>
    let s := { s with bi := rest, home := mupd s.home line (fun h => { h with hostBit := !inv && h.hostBit, hostShared := !inv }) }
    .next (wakeHeld s (fun x => x.1.line == line && (x.2 == .bi || x.2 == .busy))))

/-- An address of device memory lies in a window of the HDM decoder (R37). (DESIGN CHOICE, log 119) -/
def inHdm (s : State) (pa : Nat) : Bool := isHbm pa && s.hdm.any (fun w => decide (w.1 ≤ pa) && decide (pa < w.1 + w.2))

/-- The host takes a line it has read alone: every column gives its tracked copy up. -/
def hostTakes (s : State) (leaf : Leaf) (line : Nat) : State :=
  let (s, h) := merge s line line (homeGet s leaf line)
  let (s, h) := recallWhere s line h (fun _ => true) .invalidate
  homePut s line { h with st0 := .i, st1 := .i }

/-- HOST_HDM_ACCESS: the host reads a line of device memory and may keep it, shared or alone, which is open; or it writes bytes
of it (R37). A line that cannot be accessed for now, or that a column is first to drain, is asked for again. -/
def execHostHdmAccess (ia : Addr) (op : HdmOp) (s : State) : Out := fromAgent s 384 (fun s =>
  let a := ia.toNat / 64 * 64
  let line := a / 64
  match (leafOf s a).filter (fun l => inHdm s (l.pa52 a)) with
  | none => .next s
  | some leaf =>
    if !cxlMode s || (refuses s (leaf.pa52 a)).isSome || lineBusy s leaf line then .next s
    else
      match op with
      | .read =>
        let (s, v, _) := sysLoad s leaf a 64
        let (alone, s) := drawChoice s
        let s := if alone then hostTakes s leaf line else s
        let s := homePut s line { homeGet s leaf line with hostBit := true, hostShared := !alone }
        .next { bump s 0x79010 64 with out := s.out ++ [.hdm a (BitVec.ofNat 512 v)] }
      | .write m d =>
        let r := { sysReq s (.store d) a 64 leaf with mask := m }
        match (mget s.home (homeKey leaf line leaf.ht)).bind (fun h => (drainFirst r h).map (fun c => (h, c))) with
        | some (h, c) => .next (orderDrain { s with reqNo := s.reqNo + 1 } { r with kind := .prefetch true } h c)
        | none =>
          let s := serve s r (homeKey leaf line leaf.ht) (homePa leaf (homeKey leaf line leaf.ht))
          .next { bump s 0x79018 64 with out := s.out ++ [.hdmDone a] })

/-! ### Capacity extents (R38-R40) -/

def aDcxst (i : Nat) : Nat := 0x51000 + 4 * i

/-- EXTENT_GRANT (R38). -/
def execExtentGrant (i : Nat) (base len : Word64) (s : State) : Out :=
  if !cxlMode s || 64 ≤ i || (mreg s (aDcxst i)).testBit 31 then .next s
  else .next (setMreg (setMreg (setBits s (aDcxst i) (2 ^ 31)) (0x52000 + 16 * i) base.toNat) (0x52008 + 16 * i) len.toNat)

/-- Keys of the dirty home lines of an extent. -/
def extentLines (s : State) (i : Nat) : List (Nat × HomeLine) :=
  s.home.filter (fun (h : Nat × HomeLine) => h.2.dirty && inExtent s i h.2.pa)

/-- EXTENT_RELEASE: RELEASING is set, columns drain the extent's lines into L2, and L2 begins to write them back; how far it
comes at once is open (R39). -/
def execExtentRelease (i : Nat) (s : State) : Out :=
  let v := mreg s (aDcxst i)
  if 64 ≤ i || !v.testBit 31 || v.testBit 30 then .next s
  else
    let s := setBits s (aDcxst i) (2 ^ 30)
    let s := drainColumns s (inExtent s i)
    let s := (extentLines s i).foldl (fun s h =>
      let (b, s) := drawChoice s
      if b then writeBack s h.1 else s) s
    .next (due s [.extentReleaseAck i])

/-- The release ends: VALID and RELEASING clear, and the device acknowledges it (R39, R88). -/
def endExtent (s : State) (i : Nat) (forced : Bool) : State :=
  let s := setMreg s (aDcxst i) (bit forced * 2 ^ 29)
  raiseEvent { s with out := s.out ++ [.extentAck i] } 5

/-- EXTENT_RELEASE_ACK: the last dirty lines are written back and the release is acknowledged (R39). -/
def execExtentReleaseAck (i : Nat) (s : State) : Out :=
  if 64 ≤ i || !(mreg s (aDcxst i)).testBit 30 then .next s
  else
    let s := drainColumns s (inExtent s i)
    let s := (extentLines s i).foldl (fun s h => writeBack s h.1) s
    .next (endExtent s i false)

/-- A launch's range registers cover an intermediate address (R40). -/
def covers (s : State) (slot : Nat) (l : Launch) (ia : Nat) : Bool :=
  (l.ranges.getD (readRanges s slot)).any (fun r => r.v && r.peer.isNone && decide (r.offset.toNat ≤ ia) &&
    decide (ia < r.offset.toNat + (r.limit.toNat - r.base.toNat)))

/-- EXTENT_RELEASE_FORCED: 10 ms after the request, lines still dirty are dropped: their copies go, each is recorded, and
every launch whose ranges cover one receives a machine-check (R40). Its words in the fabric memory are poisoned too.
(DESIGN CHOICE, log 117) -/
def execExtentReleaseForced (i : Nat) (s : State) : Out :=
  if 64 ≤ i || !(mreg s (aDcxst i)).testBit 30 || extentDirty s i = 0 then .next s
  else
    let s := drainColumns s (inExtent s i)
    let lost := extentLines s i
    let s := lost.foldl (fun s h =>
      let s := { s with home := mdel s.home h.1, l1 := s.l1.filter (fun (e : Nat × L1Line) => e.1 % 2 ^ 46 != h.1 % 2 ^ 46) }
      blackBox (setPoison s h.2.pa (BitVec.allOnes 16)) 0x11 3 i h.2.pa) s
    let hit := s.launches.filter (fun (e : Nat × Launch) => lost.any (fun h => covers s e.1 e.2 (64 * (h.1 % 2 ^ 46))))
    let s := hit.foldl (fun s (e : Nat × Launch) => machineCheck s e.1) s
    .next (endExtent s i true)

/-! ### Quarantine and sweep (R47-R49) -/

/-- A line that a lost agent owned dirty is poisoned, and counted for the agent (R47, R49). -/
def poisonOwned (s : State) (a line : Nat) (leaf : Leaf) : State :=
  let s := homePut s line { homeGet s leaf line with poison := BitVec.allOnes 16, dirty := true }
  let v := mreg s (aAgst a)
  setMreg s (aAgst a) (setField v 23 8 (min 65535 (field v 23 8 + 1)))

/-- The lines a lost column owned dirty are poisoned and counted; its copies are gone (R47, R49).
(DEDUCED, log 68) -/
def sweepColumn (s : State) (c : Nat) : State :=
  let mine := columnLines s c
  let s := mine.foldl (fun s (e : Nat × L1Line) =>
    if e.2.st == .u || e.2.dirty == 0 then s else poisonOwned s c e.1 e.2.leaf) s
  { s with
    l1 := s.l1.filter (fun (e : Nat × L1Line) => e.1 / 2 ^ 46 != c)
    home := s.home.map (fun (h : Nat × HomeLine) => (h.1, if h.2.lazy.elim false (fun z => z.1 == c) then { h.2 with lazy := none } else h.2)) }

/-- What the host held of device memory is gone; whether a line it had alone was dirty there, and so is poisoned, is open (R47).
(DEDUCED, log 68) -/
def sweepHost (s : State) : State :=
  let mine := s.home.filter (fun (h : Nat × HomeLine) => h.2.hostBit)
  let s := mine.foldl (fun s (h : Nat × HomeLine) =>
    if h.2.hostShared then s
    else
      let (b, s) := drawChoice s
      if b then poisonOwned s 384 h.1 (lineLeaf s h.1) else s) s
  { s with bi := [], home := s.home.map (fun (h : Nat × HomeLine) => (h.1, { h.2 with hostBit := false, hostShared := false })) }

/-- Every peer package that is ACTIVE has reported its sweep for a package that rejoins (R47, R49). -/
def sweepsDone (s : State) (a : Nat) : Bool :=
  a < 385 || s.peers.all (fun p => 385 + p == a || agentState s (385 + p) != 0 || s.sweeps.contains (a, p))

/-- Joins that wait for nothing more. -/
def joinsDone (s : State) : State := due s ((s.joining.filter (sweepsDone s)).map .joinComplete)

/-- A request came from a package. -/
def fromPkg (p : Nat) (w : Who) : Bool := match w with
  | .peer f => f.src.toNat == p
  | _ => false

/-- A request is answered to a package. -/
def toPkg (p : Nat) (d : Dest) : Bool := match d with
  | .peer f => f.src.toNat == p
  | _ => false

/-- A lost package's transactions here are void (R47). -/
def voidPeer (s : State) (p : Nat) : State :=
  { s with
    reqs := s.reqs.filter (fun r => !toPkg p r.dest)
    held := s.held.filter (fun x => !toPkg p x.1.dest)
    arrivals := s.arrivals.filter (fun a => !fromPkg p a.who)
    barWaits := s.barWaits.filter (fun w => w.1.src.toNat != p)
    walks := s.walks.filter (fun w => !fromPkg p w.req.who)
    parkWait := s.parkWait.filter (fun x => !fromPkg p x.1.who)
    parks := s.parks.map (fun (e : Nat × Park) => (e.1, { e.2 with members := e.2.members.filter (fun r => !fromPkg p r.who) })) }

/-- Requests to a package end with a machine-check to their launches (R44). -/
def failPeer (s : State) (p : Nat) : State :=
  let mine := s.peerOut.filter (fun x => x.1 == p)
  let s := { s with peerOut := s.peerOut.filter (fun x => x.1 != p), flits := s.flits.filter (fun x => !(x.1 == 12 && x.2.dst.toNat == p)) }
  let s := (mine.map (fun x => x.2.2.2.launch)).eraseDups.foldl machineCheck s
  unhold s (fun x => x.2 == .peers)

/-- AGENT_LOST: a column, the host in CXL mode, or a peer package (R47; 03 R79; 08 R239). -/
def execAgentLost (a : Nat) (s : State) : Out :=
  if agentState s a = 1 then .next s
  else if a < 384 then
    let slots := ((columnBlocks s a).map (fun (b : Nat × Block) => b.2.launch)).eraseDups
    let s := slots.foldl (fun s l => killLaunch s l 5) s
    let s := { s with reqs := s.reqs.filter (fun r => r.col != a), held := s.held.filter (fun x => x.1.col != a) }
    .next (setAgent (sweepColumn s a) a 1)
  else if a = 384 then
    if !cxlMode s then .next s
    else .next (setAgent (wakeHeld (sweepHost s) (fun x => x.2 == .bi || x.2 == .busy)) a 1)
  else if a < 641 then
    .next (joinsDone (setAgent (recoverFrom (failPeer (voidPeer s (a - 385)) (a - 385)) (a - 385)) a 1))
  else .next s

/-- Tell every other peer package that this package's directories have swept their entries of one that rejoins (R49). -/
def reportSweep (s : State) (a : Nat) : State :=
  if a < 385 then s
  else (s.peers.filter (fun p => 385 + p != a && agentState s (385 + p) == 0)).foldl (fun s p =>
    sendFlit s 5 p 0 none (.sweepDone a)) s

/-- JOIN_REQUEST: refused without invalidated caches; else the agent is QUARANTINED while the directories sweep (R47,
R48). -/
def execJoinRequest (a : Nat) (invalidated : Bool) (s : State) : Out :=
  if 641 ≤ a || agentState s a ≠ 1 then .next s
  else if !invalidated then .next { s with out := s.out ++ [.joinRefused a] }
  else .next (joinsDone (reportSweep { setAgent s a 2 with joining := s.joining ++ [a] } a))

/-- JOIN_COMPLETE: every directory has swept; the agent is ACTIVE, its count of poisoned lines 0 (R47, R49). -/
def execJoinComplete (a : Nat) (s : State) : Out :=
  if agentState s a ≠ 2 || !sweepsDone s a then .next s
  else
    let s := setMreg { s with joining := s.joining.filter (· != a), sweeps := s.sweeps.filter (·.1 != a) } (aAgst a) 2
    .next (placeAll (setAgent s a 0))

/-! ### Glatravo (R41-R44) -/

/-- A link fails: a record, an event, and its streams' unacknowledged flits, with those of the last 128 that no answer awaits, go
on the next live link in their order (R42, R44). -/
def failLink (s : State) (l : Nat) : State :=
  let x := linkOf s l
  let s := raiseEvent (blackBox (setLink s l { x with failed := true, sent := [] }) 0x10 3 l 0) 3
  let open_ (f : Flit) : Bool := openFlit s f || (match f.body with
    | .request _ _ | .barrier _ _ _ => false
    | _ => true)
  (x.sent.filter (fun e => open_ e.1)).foldl (fun s e => sendFlit s e.1.cls.toNat e.1.dst.toNat e.1.stream.toNat (some e.1.tag.toNat) e.1.body) s

/-- REPLAY_REQUEST: flits from a sequence number on are sent again; the sixteenth replay of one fails the link (R42). -/
def execReplayRequest (link : Nat) (seq : BitVec 16) (s : State) : Out :=
  let x := linkOf s link
  if 12 ≤ link || x.failed then .next s
  else
    let again (f : Flit) : Bool := (f.seq - seq).toNat < 128 && ((BitVec.ofNat 16 x.out) - f.seq).toNat ≤ 128
    let sent := x.sent.map (fun e => if again e.1 then (e.1, e.2 + 1) else e)
    if sent.any (fun e => 16 ≤ e.2) then .next (failLink (setLink s link { x with sent := sent }) link)
    else
      let s := setLink s link { x with sent := sent }
      .next { s with flits := s.flits ++ (sent.filter (fun e => again e.1)).map (fun e => (link, e.1)) }

/-- LINK_RETRAIN: the two ends bring a failed link up again; flits that had no live link go out (R42). -/
def execLinkRetrain (link : Nat) (s : State) : Out :=
  if 12 ≤ link || !(linkOf s link).failed then .next s
  else
    let s := setLink s link Link.reset
    let wait := s.flits.filter (fun x => x.1 == 12)
    .next (wait.foldl (fun s x => putFlit s link x.2) { s with flits := s.flits.filter (fun x => x.1 != 12) })

/-- PEER_UNREACHABLE_TIMEOUT (R44). -/
def execPeerUnreachableTimeout (pkg : Byte) (s : State) : Out :=
  .next (if (liveLinks s).isEmpty then failPeer s pkg.toNat else s)

/-- A peer's value, or its acknowledgement, reaches what asked (04 R106, 08 R230). -/
def peerValue (s : State) (r : Req) (v : Nat) : State :=
  match r.dest, r.group with
  | .peerLane, some k =>
    if ((groupOf s k).bind (·.peerWait)).elim false (fun w => w.id == r.id) then
      wakeGroup (updGroup s k (fun g => { g with peerWait := g.peerWait.map (fun w => { w with ans := some (.inl v) }) })) k
    else s
  | .none, some k =>
    updGroup s k (fun g => { g with waitRec := match g.waitRec with
      | some (.barx o ia l p pe _) => some (.barx o ia l p pe true)
      | w => w })
  | .none, none => s
  | _, _ => due { s with rets := s.rets ++ [⟨r.id, r.group, r.dest, some v, false, r.scope, r.col, r.launch⟩] } [.loadReturn]

/-- A translation fault that finishes the launch: a parking one that cannot park, or a capacity-tier page in PCIe mode (04 R119,
R125, R130). -/
def fatalFault (cause sub : Nat) : Bool := cause == 0x10 && (sub == 5 || sub == 6 || sub == 7 || sub == 9 || sub == 0x0E)

/-- A fault at the peer is reported as a local one is: at the lane, at the fetch, to the BTE request or to the engine (04
R106, R120, R121; 08 R236). -/
def peerFault (s : State) (r : Req) (cause sub : Nat) : State :=
  let fatal := fatalFault cause sub
  match r.dest, r.group with
  | .peerLane, some k =>
    if fatal then (groupOf s k).elim s (fun g => failBlock s g.block 1 0)
    else if ((groupOf s k).bind (·.peerWait)).elim false (fun w => w.id == r.id) then
      wakeGroup (updGroup s k (fun g => { g with peerWait := g.peerWait.map (fun w => { w with ans := some (.inr (cause, sub)) }) })) k
    else s
  | .parcel _, some k =>
    if fatal then (groupOf s k).elim s (fun g => failBlock s g.block 1 0)
    else wakeGroup (updGroup s k (fun g => { g with fetchFail := some (cause, sub) })) k
  | .none, some k =>
    (match groupOf s k with
      | some g =>
        let m := (g.run.elim 0 (·.active))
        if fatal then failBlock s g.block 1 0
        else trapWaiting (updGroup s k (fun g => { g with waitRec := none })) k ⟨cause, sub, firstLane m, m, if cause = 1 then 0 else
          (match g.waitRec with
            | some (.barx o _ _ _ _ _) => o.toNat
            | _ => 0)⟩
      | none => s)
  | .bte c i, _ => ((btesOf s c).find? (fun b => b.id == i)).elim s (fun b => requestError s b.block)
  | .engine k, _ =>
    if (engineOf s k).waiting = some (6000 + r.id) then
      failRequest s ⟨.engine k, k / 12, 0, 0, r.launch, 0, 0, 0xFF, false, false, false, false, false, false⟩ 1 sub
    else s
  | _, _ => s

/-- A peer's response reaches its request; one that matches nothing is discarded (R43, R44). -/
def takeResponse (s : State) (f : Flit) (r : PeerReply) : State :=
  match takeFirst (fun (p : Nat × Nat × Nat × Req) => p.1 == f.src.toNat && p.2.1 == f.stream.toNat && p.2.2.1 == f.tag.toNat) s.peerOut with
  | none => s
  | some ((_, _, _, q), rest) =>
    let s := { s with peerOut := rest }
    let s := match r with
      | .data v => peerValue s q v.toNat
      | .done => peerValue s q 0
      | .fault c sub => peerFault s q c.toNat sub.toNat
      | .machineCheck => machineCheck s q.launch
    unhold s (fun x => x.2 == .peers)

/-- A peer's request is translated here; which tower's unit does so is open (04 R106). -/
def takeRequest (s : State) (f : Flit) (ia : Nat) (write atomic : Bool) : State :=
  let (b, s) := drawChoice s
  let q : XReq := ⟨.peer f, bit b, ia, 0, 9999, 0, 0, 0xFF, write, atomic, false, false, false, false⟩
  match findLeaf s none false q.tower ia with
  | some o => deliverWalk s q o false
  | none => startWalk s q

/-- A delivered flit acts (R41, R47). -/
def deliverFlit (s : State) (f : Flit) : State :=
  match f.body with
  | .request ia op =>
    let (w, a) := match op with
      | .load _ => (false, false)
      | .store _ _ => (true, false)
      | _ => (true, true)
    takeRequest s f ia.toNat w a
  | .barrier ia _ _ => takeRequest s f ia.toNat true false
  | .response r => takeResponse s f r
  | .remoteCompletion l b =>
    sendFlit (due s [.remoteCompletion l b]) 4 f.src.toNat f.stream.toNat none (.remoteCompletionAck l b)
  | .remoteCompletionAck l b => due s [.remoteCompletionAck l b]
  | .stealReturn l b => due s [.stealReturn l b]
  | .linkControl => s
  | .sweepDone a => joinsDone { s with sweeps := (s.sweeps.filter (· != (a, f.src.toNat))) ++ [(a, f.src.toNat)] }

/-- A package whose flits arrive is on the fabric. -/
def notePeer (s : State) (f : Flit) : State :=
  if s.peers.contains f.src.toNat then s else { s with peers := s.peers ++ [f.src.toNat] }

/-- The flits delivered from a stream of a package, by which one already delivered is known: the last 32,768, half of the tags
(R44). (DESIGN CHOICE, log 70) -/
def noteSeen (s : State) (f : Flit) : State :=
  let mine := s.seen.filter (fun x => x.1 == f.src.toNat && x.2.1 == f.stream.toNat)
  let rest := if mine.length < 32768 then s.seen
    else match takeFirst (fun x => x.1 == f.src.toNat && x.2.1 == f.stream.toNat) s.seen with
      | some (_, r) => r
      | none => s.seen
  { s with seen := rest ++ [(f.src.toNat, f.stream.toNat, f.tag.toNat)] }

/-- FLIT_RECEIVE: a flit with a CRC error, a reserved class or a later sequence number is discarded and a replay asked for;
one delivered before is discarded; a LOST agent's is discarded and a QUARANTINED one's refused (R42-R44, R47). -/
def execFlitReceive (link : Nat) (f : Flit) (s : State) : Out :=
  let x := linkOf s link
  let ahead := (f.seq - BitVec.ofNat 16 x.expect).toNat
  if 12 ≤ link || x.failed then .next s
  else if !f.crcOk || 6 ≤ f.cls.toNat then .next { s with out := s.out ++ [.replay link f.seq.toNat] }
  else if ahead ≠ 0 then .next (if ahead < 2 ^ 15 then { s with out := s.out ++ [.replay link x.expect] } else s)
  else
    let s := bump (setLink s link { x with expect := (x.expect + 1) % 65536 }) 0x79008 236
    let a := 385 + f.src.toNat
    let ordered := f.cls.toNat ≠ 1 && f.cls.toNat ≠ 5
    if agentState s a = 1 then .next s
    else if agentState s a = 2 then .next (if ordered then { s with out := s.out ++ [.joinRefused a] } else s)
    else if ordered && s.seen.contains (f.src.toNat, f.stream.toNat, f.tag.toNat) then .next s
    else
      let s := notePeer s f
      .next (deliverFlit (if ordered then noteSeen s f else s) f)

/-! ### Retraining of a stack's interface (R50-R52) -/

/-- DATA_RATE_CHANGE_REQUEST: deferred while a save streams to the stack (R50). -/
def execDataRateChangeRequest (stack : Nat) (s : State) : Out :=
  .next (retrainNext (updStack s stack (fun x => { x with rateReq := true })) stack)

/-- RETRAIN_TRIGGER (R51). -/
def execRetrainTrigger (stack : Nat) (s : State) : Out :=
  .next (retrainNext (updStack s stack (fun x => { x with trigger := true })) stack)

/-- A save that streams to a retraining stack restarts in the partner's pool; when that has no free slot the block is STOPPING
again and takes the next slot that a save may take, of either stack (R52). (DESIGN CHOICE, log 116) -/
def moveSave (s : State) (stack id : Nat) : State :=
  let s := freeSave s id
  match freeSaveSlot s (partner stack) with
  | some i =>
    let sl := partner stack * 256 + i
    due (updBlock { s with saves := mset s.saves sl id } id (fun b => { b with saveSlot := some sl })) [.saveComplete id]
  | none => updBlock s id (fun b => { b with state := .stopping, saveSlot := none })

/-- INTERFACE_RETRAIN_START: when no save streams to the stack, or 50 µs after a trigger (R50-R52). -/
def execInterfaceRetrainStart (stack : Nat) (s : State) : Out :=
  let u := stackUnit s stack
  if u.retraining || !(u.rateReq || u.trigger) || (!u.trigger && savesTo s stack) then .next s
  else
    let s := updStack s stack (fun x => { x with rateReq := false, trigger := false, retraining := true })
    let mine := s.blocks.filter (fun (b : Nat × Block) => b.2.state == .saving && b.2.saveSlot.elim false (fun sl => sl / 256 == stack))
    .next (due (mine.foldl (fun s (b : Nat × Block) => moveSave s stack b.1) s) [.retrainDone stack])

/-- RETRAIN_DONE: data move again, and what waited goes on (R50). -/
def execRetrainDone (stack : Nat) (s : State) : Out :=
  if !(stackUnit s stack).retraining then .next s
  else
    let s := updStack s stack (fun x => { x with retraining := false })
    let banks := ((s.bankCmds.filter (fun b => b.queued && stackOf b.pa == stack)).map (fun b => bankOf b.pa % 4096))
    let s := due s (banks.map (fun b => .bankCommandExecute stack b))
    let slot (b : Nat × Block) (st : BlockState) : Bool := b.2.state == st && b.2.saveSlot.elim false (fun sl => sl / 256 == stack)
    let s := due s ((s.blocks.filter (fun b => slot b .saving)).map (fun b => .saveComplete b.1))
    let s := due s ((s.blocks.filter (fun b => slot b .restoring)).map (fun b => .restoreComplete b.1))
    .next (retrainNext (wakeHeld s (fun x => x.2 == .retrain stack || x.2 == .busy)) stack)

/-! ### Device time (R53-R55) -/

/-- An offset as DTCSTAT shows it: 16 bits, saturating at ±32,767. -/
def offset16 (o : Int) : Nat := unsignedOf 16 (max (-32767) (min 32767 o))

/-- DTC has stepped over slots from a former value: each enabled entry fires for the latest boundary passed, the others are
recorded as missed in one record (03 R87). (DEDUCED, log 57) -/
def ttStepped (s : State) (old : Nat) : State :=
  let slot := mreg s 0x20000
  if !ttOn s || slot = 0 || s.dtc.toNat < mreg s 0x20008 then s
  else
    let last := (s.dtc.toNat - mreg s 0x20008) / slot
    let first := max s.ttSlot (if old < mreg s 0x20008 then 0 else (old - mreg s 0x20008) / slot + 1)
    if last < first then s
    else
      foldUpto (fun s i =>
        if !ttEn s i then s
        else
          let n : Int := (last : Int) - ((last : Int) - (ttPhase s i : Int)) % (ttEvery s i : Int)
          if n < (first : Int) then s
          else
            let missed := (n.toNat - first) / ttEvery s i
            let s := ttFire s i (ttTime s n.toNat)
            if missed = 0 then s
            else
              let h := ttHigh s i
              let s := setMreg s (0x21008 + 16 * i) (h / 65536 * 65536 + min 65535 (h % 65536 + missed))
              raiseEvent (blackBox s 0x21 5 i missed) 4) { s with ttSlot := last + 1 } 256

/-- A measured offset: shown in DTCSTAT; stepped when it is 1 ms or more forward, else slewed (R54).
(DEDUCED, log 58) -/
def discipline (s : State) (src : Nat) (o : Int) : State :=
  let v := mreg s 0x54000
  let step := decide (1000000 ≤ o)
  let steps := (field v 23 16 + bit step) % 256
  let s := setMreg s 0x54000 (src * 2 ^ 30 + steps * 65536 + offset16 o)
  if step then ttStepped { s with dtc := dtcAfter s o.toNat } s.dtc.toNat else s

/-- PTP_MESSAGE (R54, R55). -/
def execPtpMessage (offset : Int) (s : State) : Out := .next (discipline s 1 offset)

/-- Distance to the nearest second boundary, in nanoseconds. -/
def toSecond (t : Nat) : Int :=
  let r := t % 1000000000
  if r < 500000000 then -(r : Int) else (1000000000 - r : Int)

/-- PPS_EDGE: DTC is latched into PPSLAT; without a master the edge disciplines DTC (R55). -/
def execPpsEdge (s : State) : Out :=
  let (t, s) := readDtc s
  let s := setMreg s 0x54010 t.toNat
  .next (if 2 ≤ field (mreg s 0x54000) 31 30 then discipline s 2 (toSecond t.toNat) else s)

/-- PTP_MASTER_TIMEOUT: 1PPS disciplines DTC (R55). -/
def execPtpMasterTimeout (s : State) : Out := .next (setMreg s 0x54000 (setField (mreg s 0x54000) 31 30 2))

/-- PPS_TIMEOUT: with neither source DTC is in holdover (R55). -/
def execPpsTimeout (s : State) : Out :=
  .next (if field (mreg s 0x54000) 31 30 = 2 then setMreg s 0x54000 (setField (mreg s 0x54000) 31 30 3) else s)

end Sys2Proof.Machine
end

