-- ==== Sys2Proof/Machine/Resets.lean ====
section
/-! DEFINITION. Cold reset, device reset, and the loss of the standby supply (spec/03 R57, R58, R78, R91, R93; spec/05 R145,
R156; spec/00 R9). -/

namespace Sys2Proof.Machine

/-! ### Stacks across a device reset (05 R156) -/

/-- Every bank sensor of a stack reads below its ADV. -/
def stackCool (s : State) (n : Nat) : Bool :=
  s.sensors.all (fun (x : Nat × Sensor) => x.1 / 2 ^ 20 != 2 || x.1 % 2 ^ 20 / 4096 != n || decide (x.2.value < 4 * (x.2.advPt : Int)))

/-- Lines pinned for a stack, in ascending address order. -/
def pinnedOf (s : State) (n : Nat) : List (Nat × HomeLine) :=
  sortBy (fun a b => decide (a.2.pa ≤ b.2.pa)) (s.home.filter (fun (h : Nat × HomeLine) => h.2.pinned && inStack n h.2.pa))

/-- Addresses of the lines that a stack's refuge records of kind 1 name (R155). -/
def refugedLines (s : State) (n : Nat) : List Nat :=
  let a := mreg s (aStack n 0x18)
  let count := min (refugeSize s n) (physRead s a 8 + physRead s (a + 8) 8)
  ((List.range count).filter (fun i => physRead s (a + 64 + 80 * i + 8) 1 == 1)).map (fun i => physRead s (a + 64 + 80 * i) 8)

/-- A stack that returns holds its journal copies again (03 R77). -/
def restoreJournals (s : State) (n : Nat) : State :=
  s.cmds.foldl (fun s (e : Nat × Cmd) =>
    [cqJBase s (cmdQueue e.1), cqJMir s (cmdQueue e.1)].foldl (fun s base =>
      if stackOf base = n then journalAt s e.1 e.2 base else s) s) s

/-- A stack returns: pinned lines are written back, and the lines its records of kind 1 name are poisoned (R156). -/
def stackReturns (s : State) (n : Nat) : State :=
  let s := (pinnedOf s n).foldl (fun s h => setPoison (dramWrite s h.2.pa h.2.key (BitVec.allOnes 64) h.2.data h.2.poison) h.2.pa h.2.poison) s
  let s := (refugedLines s n).foldl (fun s pa => if inStack n pa then setPoison s pa (BitVec.allOnes 16) else s) s
  restoreJournals (setMreg s (aStack n 0) 0) n

/-- A stack cannot return: its pinned lines move to records of the refuge region, or are dropped (R156). -/
def stackStays (s : State) (n : Nat) : State :=
  let pins := pinnedOf s n
  let room := refugeRoom s n
  let a := mreg s (aStack n 0x18)
  let s := (pins.take room).zipIdx.foldl (fun s x => writeRecord s n x.2 1 x.1) s
  let s := (pins.drop room).foldl (fun s h => dropDirty s n h) s
  if room = 0 then s
  else
    writeHeader s n 0 (physRead s (a + 8) 8 + min room pins.length) (physRead s (a + 16) 8 + (pins.drop room).length)

/-- A stack's window ends with the reset, when it is open. -/
def closeWindow (s : State) (n : Nat) : State :=
  if stackState s n ≠ 1 then s
  else
    match execDrainWindowEnd n s with
    | .next s => s
    | _ => s

/-- Each stack that is not ONLINE settles before the reset completes: the cool ones return, then the others' pinned lines go
where a partner stack has room (R156). -/
def settleStacks (s : State) : State :=
  let s := foldUpto closeWindow s 8
  let s := foldUpto (fun s n => if stackState s n = 2 && stackCool s n then stackReturns s n else s) s 8
  foldUpto (fun s n => if stackState s n = 2 then stackStays s n else s) s 8

/-- A soft error in a place that keeps what it holds across a reset. -/
def lastingStrike (x : Strike) : Bool := match x.place with
  | .hbm _ | .blackBox _ => true
  | _ => false

/-! ### Device reset (R57, R58) -/

/-- Registers retained across a device reset (R58; 02 R32), and the state of a stack that is OFFLINE (05 R156). -/
def retained (a : Nat) : Bool :=
  a == 0x40 || (decide (0x10000 ≤ a) && decide (a < 0x11000)) || (decide (0x20000 ≤ a) && decide (a < 0x22000)) ||
  (decide (0x60000 ≤ a) && decide (a < 0x60010)) ||
  (decide (0xA0000 ≤ a) && decide (a < 0xA0800) && (a % 256 == 0 || a % 256 == 0x18 || a % 256 == 0x20))

/-- What a register holds after a device reset: a retained one its value, HLSTAT its MODE, STKST its STATE. -/
def keepReg (e : Nat × Nat) : Option (Nat × Nat) :=
  if e.1 = 0x50000 then (if e.2.testBit 31 then some (e.1, 2 ^ 31) else none)
  else if retained e.1 then some e
  else none

/-- The journal holds what a command that had started finishes with: 0x0003, or 0x0006 after a thermal halt (R78, R25). -/
def stampLost (thermal : Bool) (c : Cmd) : Cmd :=
  if c.state == .started && (c.type == 1 || c.type == 2) then { c with status := if thermal then 6 else 3 } else c

/-- A device reset (R57, R58, R78, R9). Caches are lost; what HBM4E holds stays; a future entry in use is freed, with a new
tag (08 R216). (DEDUCED, log 87) -/
def resetDevice (s : State) : State :=
  let s := settleStacks s
  { State.reset with
    mem := s.mem, poison := s.poison, keyTags := s.keyTags, dead := s.dead, bbox := s.bbox
    keys := s.keys.filter (fun (k : Nat × Nat) => k.1 == 0)
    mgmt := s.mgmt.filterMap keepReg
    cmds := s.cmds.map (fun (e : Nat × Cmd) => (e.1, stampLost s.thermal e.2))
    pendDec := s.pendDec, relWait := s.relWait
    ttIns := s.ttIns, ttPrev := s.ttPrev, ttSlot := s.ttSlot
    futures := s.futures.map (fun (e : Nat × Future) =>
      (e.1, Future.freeAt (if e.2.state == .free then e.2.tag else (e.2.tag + 1) % 64)))
    hostErrors := s.hostErrors, peers := s.peers, strikes := s.strikes.filter lastingStrike
    dtc := s.dtc, freeCount := s.freeCount }

/-- DEVICE_RESET: a PCIe hot reset or a function-level reset (R57). -/
def execDeviceReset (s : State) : Out := .next (resetDevice s)

/-- DEVRST: a write of 1 (R57). -/
def execDevrst (v : Word) (s : State) : Out := if v = 1 then .next (resetDevice s) else .next s

/-! ### Cold reset and the black box's supply (R57, R58, R93) -/

/-- COLD_RESET: HMODE is sampled, slot 0's key drawn anew; HBM4E's contents are open, since what was written before reads
under another key; the black-box ring stands (R57, R58, R91; 02 R32; 05 R145). -/
def execColdReset (hmode : Bool) (s : State) : Out :=
  .next { State.reset with
    mem := s.mem, keyTags := s.keyTags, bbox := s.bbox
    poison := s.poison.filter (fun (e : Nat × Nat) => !isHbm (4 * e.1))
    keys := [(0, s.freeCount + 2)]
    hostErrors := s.hostErrors, peers := s.peers, strikes := s.strikes.filter lastingStrike
    mgmt := if hmode then [(0x50000, 2 ^ 31)] else []
    freeCount := s.freeCount + 1 }

/-- An open record. (DESIGN CHOICE, log 88) -/
def freeRecord (s : State) : BBRec × State :=
  let (a, s) := drawFree s
  let (b, s) := drawFree s
  let (c, s) := drawFree s
  let (d, s) := drawFree s
  (⟨a, b.toNat % 65536, b.toNat / 2 ^ 16 % 256, b.toNat / 2 ^ 24 % 256, b.toNat / 2 ^ 32, c.toNat + d.toNat * 2 ^ 64⟩, s)

/-- STANDBY_SUPPLY_LOSS: the ring is no longer retained; what its records hold is open (R58). -/
def execStandbySupplyLoss (s : State) : Out :=
  let (l, s) := s.bbox.foldl (fun (a : Map BBRec × State) (e : Nat × BBRec) =>
    let (r, s) := freeRecord a.2
    (a.1 ++ [(e.1, r)], s)) ([], s)
  .next { s with bbox := l }

end Sys2Proof.Machine
end

