-- ==== Sys2Proof/Machine/Dispatch.lean ====
section
/-! DEFINITION. The dispatch: one arm per instruction of the opcode table. -/

namespace Sys2Proof.Machine

def exec (i : Instr) (s : State) : Host.Outcome State Fault Refusal :=
  match i with
  -- reset (03 R57)
  | .coldReset hmode => Sys2Proof.Machine.execColdReset hmode s
  | .devrst v => Sys2Proof.Machine.execDevrst v s
  -- sensors, refresh, budgets (01, 05)
  | .sensorSample rs => Sys2Proof.Machine.execSensorSample rs s
  | .evacuationLimit tower layer => Sys2Proof.Machine.execEvacuationLimit tower layer s
  | .drainWindowEnd stack => Sys2Proof.Machine.execDrainWindowEnd stack s
  | .refreshCommand stack bank => Sys2Proof.Machine.execRefreshCommand stack bank s
  | .reflossWindow stack => Sys2Proof.Machine.execReflossWindow stack s
  | .scrubLine pa r => Sys2Proof.Machine.execScrubLine pa r s
  | .colbgtWrite col v => Sys2Proof.Machine.execColbgtWrite col v s
  | .ttripWrite cls idx v => Sys2Proof.Machine.execTtripWrite cls idx v s
  -- links (02)
  | .flitReceive link f => Sys2Proof.Machine.execFlitReceive link f s
  | .replayRequest link seq => Sys2Proof.Machine.execReplayRequest link seq s
  | .linkRetrain link => Sys2Proof.Machine.execLinkRetrain link s
  | .peerUnreachableTimeout pkg => Sys2Proof.Machine.execPeerUnreachableTimeout pkg s
  | .snpInv ia newData => Sys2Proof.Machine.execSnpInv ia newData s
  | .snpData ia => Sys2Proof.Machine.execSnpData ia s
  | .snpCur ia => Sys2Proof.Machine.execSnpCur ia s
  | .biRsp ia => Sys2Proof.Machine.execBiRsp ia s
  | .hostHdmAccess ia op => Sys2Proof.Machine.execHostHdmAccess ia op s
  | .extentGrant ext base len => Sys2Proof.Machine.execExtentGrant ext base len s
  | .extentRelease ext => Sys2Proof.Machine.execExtentRelease ext s
  | .extentReleaseAck ext => Sys2Proof.Machine.execExtentReleaseAck ext s
  | .extentReleaseForced ext => Sys2Proof.Machine.execExtentReleaseForced ext s
  | .agentLost a => Sys2Proof.Machine.execAgentLost a s
  | .joinRequest a invalidated => Sys2Proof.Machine.execJoinRequest a invalidated s
  | .joinComplete a => Sys2Proof.Machine.execJoinComplete a s
  | .dataRateChangeRequest stack => Sys2Proof.Machine.execDataRateChangeRequest stack s
  | .retrainTrigger stack => Sys2Proof.Machine.execRetrainTrigger stack s
  | .interfaceRetrainStart stack => Sys2Proof.Machine.execInterfaceRetrainStart stack s
  | .retrainDone stack => Sys2Proof.Machine.execRetrainDone stack s
  | .ptpMessage offset => Sys2Proof.Machine.execPtpMessage offset s
  -- command queues (03)
  | .cqtailWrite q v => Sys2Proof.Machine.execCqtailWrite q v s
  | .cqcfgWrite q v => Sys2Proof.Machine.execCqcfgWrite q v s
  | .cqpoke q v => Sys2Proof.Machine.execCqpoke q v s
  | .commandAccept q => Sys2Proof.Machine.execCommandAccept q s
  | .launchCommand q => Sys2Proof.Machine.execLaunchCommand q s
  | .bulkCopy q => Sys2Proof.Machine.execBulkCopy q s
  | .signal q => Sys2Proof.Machine.execSignal q s
  | .wait q => Sys2Proof.Machine.execWait q s
  | .waitPollReturn q seq => Sys2Proof.Machine.execWaitPollReturn q seq s
  | .waitTimeout q seq => Sys2Proof.Machine.execWaitTimeout q seq s
  | .successorReleaseRetry q => Sys2Proof.Machine.execSuccessorReleaseRetry q s
  | .commandRetire q => Sys2Proof.Machine.execCommandRetire q s
  | .ttSlotFire slot => Sys2Proof.Machine.execTtSlotFire slot s
  | .fwgo v => Sys2Proof.Machine.execFwgo v s
  | .firmwareCheckDone r => Sys2Proof.Machine.execFirmwareCheckDone r s
  | .setKey load => Sys2Proof.Machine.execSetKey load s
  | .setKeyComplete slot => Sys2Proof.Machine.execSetKeyComplete slot s
  | .ctrclr v => Sys2Proof.Machine.execCtrclr v s
  | .registerWrite addr size v => Sys2Proof.Machine.execRegisterWrite addr size v s
  -- walks and faults (04)
  | .parkTableEntryFree tower => Sys2Proof.Machine.execParkTableEntryFree tower s
  | .faultRecordPost tower => Sys2Proof.Machine.execFaultRecordPost tower s
  | .fqcfgWrite tower v => Sys2Proof.Machine.execFqcfgWrite tower v s
  | .frelReplay tower park => Sys2Proof.Machine.execFrelReplay tower park s
  | .frelFail tower park => Sys2Proof.Machine.execFrelFail tower park s
  -- stacks (05)
  | .drcmdMarkDead stack region => Sys2Proof.Machine.execDrcmdMarkDead stack region s
  | .drcmdMarkLive stack region => Sys2Proof.Machine.execDrcmdMarkLive stack region s
  | .drcmdDone stack => Sys2Proof.Machine.execDrcmdDone stack s
  | .bankCommandExecute stack bank => Sys2Proof.Machine.execBankCommandExecute stack bank s
  -- distribution (06)
  | .batchDeal slot => Sys2Proof.Machine.execBatchDeal slot s
  | .batchHandoff tower => Sys2Proof.Machine.execBatchHandoff tower s
  | .blockPlace tower cluster => Sys2Proof.Machine.execBlockPlace tower cluster s
  | .entryBlocking tower cluster entry => Sys2Proof.Machine.execEntryBlocking tower cluster entry s
  | .gangMemberReserve tower cluster => Sys2Proof.Machine.execGangMemberReserve tower cluster s
  | .diffusionExchange tower cluster => Sys2Proof.Machine.execDiffusionExchange tower cluster s
  | .slotFree slot => Sys2Proof.Machine.execSlotFree slot s
  | .saveStart block => Sys2Proof.Machine.execSaveStart block s
  | .saveComplete block => Sys2Proof.Machine.execSaveComplete block s
  | .saveDeadline block => Sys2Proof.Machine.execSaveDeadline block s
  | .restoreComplete block => Sys2Proof.Machine.execRestoreComplete block s
  | .regspillSave core => Sys2Proof.Machine.execRegspillSave core s
  -- Sheepdog (07)
  | .activityWindowEnd core => Sys2Proof.Machine.execActivityWindowEnd core s
  | .allotmentPeriodEnd col => Sys2Proof.Machine.execAllotmentPeriodEnd col s
  | .adviseMove core => Sys2Proof.Machine.execAdviseMove core s
  | .migrationStop col => Sys2Proof.Machine.execMigrationStop col s
  | .migrationDrain col => Sys2Proof.Machine.execMigrationDrain col s
  | .migrationXfer col => Sys2Proof.Machine.execMigrationXfer col s
  | .migrationResume col => Sys2Proof.Machine.execMigrationResume col s
  -- tasks, barriers, steals (08)
  | .goatReclaim col => Sys2Proof.Machine.execGoatReclaim col s
  | .tileClaim tower cluster => Sys2Proof.Machine.execTileClaim tower cluster s
  | .tileClaimResult tower cluster => Sys2Proof.Machine.execTileClaimResult tower cluster s
  | .stealAttempt tower cluster => Sys2Proof.Machine.execStealAttempt tower cluster s
  | .stealCasResult tower cluster => Sys2Proof.Machine.execStealCasResult tower cluster s
  | .stolenBlockDone block => Sys2Proof.Machine.execStolenBlockDone block s
  | .remoteCompletion launch block => Sys2Proof.Machine.execRemoteCompletion launch block s
  | .remoteCompletionAck launch block => Sys2Proof.Machine.execRemoteCompletionAck launch block s
  | .stealReturn launch block => Sys2Proof.Machine.execStealReturn launch block s
  -- issue (06, 09)
  | .issueGrant core => Sys2Proof.Machine.execIssueGrant core s
  | .runResume core slot => Sys2Proof.Machine.execRunResume core slot s
  | .supervisorStart core => Sys2Proof.Machine.execSupervisorStart core s
  | .pushAccept core slot => Sys2Proof.Machine.execPushAccept core slot s
  | .pipeDelivery block pipe => Sys2Proof.Machine.execPipeDelivery block pipe s
  -- coherence (11)
  -- BTE (10)
  | .kickFetch core => Sys2Proof.Machine.execKickFetch core s
  | .bteTransactionIssue core => Sys2Proof.Machine.execBteTransactionIssue core s
  | .chunkLanding core req chunk => Sys2Proof.Machine.execChunkLanding core req chunk s
  | .scatterBumpReturn core req => Sys2Proof.Machine.execScatterBumpReturn core req s
  | .yieldTimeout core slot => Sys2Proof.Machine.execYieldTimeout core slot s
  | .sleepExpire core slot => Sys2Proof.Machine.execSleepExpire core slot s
  -- prefix
  | .pfx p => Sys2Proof.Machine.execPfx p s
  -- control (14)
  | .nop c => Sys2Proof.Machine.execNop c s
  | .nopShort ty pred e => Sys2Proof.Machine.execNopShort ty pred e s
  | .bra c k => Sys2Proof.Machine.execBra c k s
  | .brc c cond k => Sys2Proof.Machine.execBrc c cond k s
  | .jmp c t => Sys2Proof.Machine.execJmp c t s
  | .call c d k => Sys2Proof.Machine.execCall c d k s
  | .ret c t => Sys2Proof.Machine.execRet c t s
  | .meet c clr k => Sys2Proof.Machine.execMeet c clr k s
  | .exit c => Sys2Proof.Machine.execExit c s
  | .yield c => Sys2Proof.Machine.execYield c s
  | .sleep c k => Sys2Proof.Machine.execSleep c k s
  -- integer (14)
  | .iadd c sat o => Sys2Proof.Machine.execIadd c sat o s
  | .iaddShort o => Sys2Proof.Machine.execIaddShort o s
  | .isub c sat o => Sys2Proof.Machine.execIsub c sat o s
  | .isubShort o => Sys2Proof.Machine.execIsubShort o s
  | .imul c o => Sys2Proof.Machine.execImul c o s
  | .imulShort o => Sys2Proof.Machine.execImulShort o s
  | .imad c sat o => Sys2Proof.Machine.execImad c sat o s
  | .imulh c o => Sys2Proof.Machine.execImulh c o s
  | .imulhShort o => Sys2Proof.Machine.execImulhShort o s
  | .imin c o => Sys2Proof.Machine.execImin c o s
  | .iminShort o => Sys2Proof.Machine.execIminShort o s
  | .imax c o => Sys2Proof.Machine.execImax c o s
  | .imaxShort o => Sys2Proof.Machine.execImaxShort o s
  | .iabs c sat o => Sys2Proof.Machine.execIabs c sat o s
  | .iabsShort o => Sys2Proof.Machine.execIabsShort o s
  | .and c o => Sys2Proof.Machine.execAnd c o s
  | .andShort o => Sys2Proof.Machine.execAndShort o s
  | .or c o => Sys2Proof.Machine.execOr c o s
  | .orShort o => Sys2Proof.Machine.execOrShort o s
  | .xor c o => Sys2Proof.Machine.execXor c o s
  | .xorShort o => Sys2Proof.Machine.execXorShort o s
  | .andn c o => Sys2Proof.Machine.execAndn c o s
  | .andnShort o => Sys2Proof.Machine.execAndnShort o s
  | .shl c o => Sys2Proof.Machine.execShl c o s
  | .shlShort o => Sys2Proof.Machine.execShlShort o s
  | .shr c o => Sys2Proof.Machine.execShr c o s
  | .shrShort o => Sys2Proof.Machine.execShrShort o s
  | .sar c o => Sys2Proof.Machine.execSar c o s
  | .sarShort o => Sys2Proof.Machine.execSarShort o s
  | .rotl c o => Sys2Proof.Machine.execRotl c o s
  | .rotlShort o => Sys2Proof.Machine.execRotlShort o s
  | .popc c o => Sys2Proof.Machine.execPopc c o s
  | .popcShort o => Sys2Proof.Machine.execPopcShort o s
  | .clz c o => Sys2Proof.Machine.execClz c o s
  | .clzShort o => Sys2Proof.Machine.execClzShort o s
  | .brev c o => Sys2Proof.Machine.execBrev c o s
  | .brevShort o => Sys2Proof.Machine.execBrevShort o s
  | .bfx c o => Sys2Proof.Machine.execBfx c o s
  | .bfi c o => Sys2Proof.Machine.execBfi c o s
  | .icmp c cond ty pd a b => Sys2Proof.Machine.execIcmp c cond ty pd a b s
  | .sel c ty d a b pc => Sys2Proof.Machine.execSel c ty d a b pc s
  | .mov c o => Sys2Proof.Machine.execMov c o s
  | .movShort o => Sys2Proof.Machine.execMovShort o s
  | .movi c var d k => Sys2Proof.Machine.execMovi c var d k s
  | .moviShort pred k d e => Sys2Proof.Machine.execMoviShort pred k d e s
  | .lea c scale o => Sys2Proof.Machine.execLea c scale o s
  -- predicates (14)
  | .pand c pd pa pb => Sys2Proof.Machine.execPand c pd pa pb s
  | .por c pd pa pb => Sys2Proof.Machine.execPor c pd pa pb s
  | .pxor c pd pa pb => Sys2Proof.Machine.execPxor c pd pa pb s
  | .pnot c pd pa => Sys2Proof.Machine.execPnot c pd pa s
  | .pmov c o => Sys2Proof.Machine.execPmov c o s
  -- floating point (15)
  | .fadd c o => Sys2Proof.Machine.execFadd c o s
  | .faddShort o => Sys2Proof.Machine.execFaddShort o s
  | .fsub c o => Sys2Proof.Machine.execFsub c o s
  | .fsubShort o => Sys2Proof.Machine.execFsubShort o s
  | .fmul c o => Sys2Proof.Machine.execFmul c o s
  | .fmulShort o => Sys2Proof.Machine.execFmulShort o s
  | .ffma c o c3 => Sys2Proof.Machine.execFfma c o c3 s
  | .fmin c o => Sys2Proof.Machine.execFmin c o s
  | .fminShort o => Sys2Proof.Machine.execFminShort o s
  | .fmax c o => Sys2Proof.Machine.execFmax c o s
  | .fmaxShort o => Sys2Proof.Machine.execFmaxShort o s
  | .fcmp c cond ty pd a b => Sys2Proof.Machine.execFcmp c cond ty pd a b s
  | .frcp c o => Sys2Proof.Machine.execFrcp c o s
  | .frcpShort o => Sys2Proof.Machine.execFrcpShort o s
  | .frsq c o => Sys2Proof.Machine.execFrsq c o s
  | .frsqShort o => Sys2Proof.Machine.execFrsqShort o s
  | .fsqrt c o => Sys2Proof.Machine.execFsqrt c o s
  | .fsqrtShort o => Sys2Proof.Machine.execFsqrtShort o s
  | .fexp2 c o => Sys2Proof.Machine.execFexp2 c o s
  | .fexp2Short o => Sys2Proof.Machine.execFexp2Short o s
  | .flog2 c o => Sys2Proof.Machine.execFlog2 c o s
  | .flog2Short o => Sys2Proof.Machine.execFlog2Short o s
  | .fsin c o => Sys2Proof.Machine.execFsin c o s
  | .fsinShort o => Sys2Proof.Machine.execFsinShort o s
  | .fcos c o => Sys2Proof.Machine.execFcos c o s
  | .fcosShort o => Sys2Proof.Machine.execFcosShort o s
  | .ftanh c o => Sys2Proof.Machine.execFtanh c o s
  | .ftanhShort o => Sys2Proof.Machine.execFtanhShort o s
  -- conversion (15)
  | .cvt c var d a => Sys2Proof.Machine.execCvt c var d a s
  | .cvtShort o => Sys2Proof.Machine.execCvtShort o s
  | .pack c p fmt d a b => Sys2Proof.Machine.execPack c p fmt d a b s
  | .unpack c e fmt d a => Sys2Proof.Machine.execUnpack c e fmt d a s
  | .qnt c h4 d a b => Sys2Proof.Machine.execQnt c h4 d a b s
  -- lane operations (15)
  | .shfl c var d a b => Sys2Proof.Machine.execShfl c var d a b s
  | .bcast c d a b => Sys2Proof.Machine.execBcast c d a b s
  | .vote c var pd pa => Sys2Proof.Machine.execVote c var pd pa s
  | .ballot c wide d pa => Sys2Proof.Machine.execBallot c wide d pa s
  | .permb c var d a t => Sys2Proof.Machine.execPermb c var d a t s
  | .scan c op ty d a => Sys2Proof.Machine.execScan c op ty d a s
  | .fold c op ty d a => Sys2Proof.Machine.execFold c op ty d a s
  | .carry c n d a b => Sys2Proof.Machine.execCarry c n d a b s
  | .lid c w d => Sys2Proof.Machine.execLid c w d s
  -- memory (16)
  | .ld c size m d base off => Sys2Proof.Machine.execLd c size m d base off s
  | .st c size m d base off => Sys2Proof.Machine.execSt c size m d base off s
  | .ldq c q m base off => Sys2Proof.Machine.execLdq c q m base off s
  | .lbuf c mode buf d base k => Sys2Proof.Machine.execLbuf c mode buf d base k s
  | .sbuf c mode buf base x k => Sys2Proof.Machine.execSbuf c mode buf base x k s
  | .atom c op ord d addr x => Sys2Proof.Machine.execAtom c op ord d addr x s
  | .cas c ty ord d addr cmp w => Sys2Proof.Machine.execCas c ty ord d addr cmp w s
  | .fence c sc ord scope => Sys2Proof.Machine.execFence c sc ord scope s
  | .own c buf f cnt => Sys2Proof.Machine.execOwn c buf f cnt s
  | .owt c buf d f cnt => Sys2Proof.Machine.execOwt c buf d f cnt s
  | .prf c l2 m base off => Sys2Proof.Machine.execPrf c l2 m base off s
  | .inv c ord scope t => Sys2Proof.Machine.execInv c ord scope t s
  | .flush c ord scope t => Sys2Proof.Machine.execFlush c ord scope t s
  -- engines (17)
  | .mma c z fmt acc a b => Sys2Proof.Machine.execMma c z fmt acc a b s
  | .mmaComplete core => Sys2Proof.Machine.execMmaComplete core s
  | .mmov c dir cnt base j0 => Sys2Proof.Machine.execMmov c dir cnt base j0 s
  | .xkick c base k => Sys2Proof.Machine.execXkick c base k s
  | .xstage c => Sys2Proof.Machine.execXstage c s
  | .xwait c buf f cnt m => Sys2Proof.Machine.execXwait c buf f cnt m s
  | .xtest c d buf f cnt m => Sys2Proof.Machine.execXtest c d buf f cnt m s
  | .nmo c op base => Sys2Proof.Machine.execNmo c op base s
  -- tasks (18)
  | .spawn c d a x y => Sys2Proof.Machine.execSpawn c d a x y s
  | .fget c d h => Sys2Proof.Machine.execFget c d h s
  | .fpoll c d h => Sys2Proof.Machine.execFpoll c d h s
  | .fret c h => Sys2Proof.Machine.execFret c h s
  | .frel c h => Sys2Proof.Machine.execFrel c h s
  | .fset c x => Sys2Proof.Machine.execFset c x s
  | .commit c => Sys2Proof.Machine.execCommit c s
  | .rclm c => Sys2Proof.Machine.execRclm c s
  | .bar c count id => Sys2Proof.Machine.execBar c count id s
  | .barx c a m => Sys2Proof.Machine.execBarx c a m s
  | .push c x mask pipe => Sys2Proof.Machine.execPush c x mask pipe s
  | .qlen c d q => Sys2Proof.Machine.execQlen c d q s
  -- traps and system (18)
  | .trap c code => Sys2Proof.Machine.execTrap c code s
  | .eret c => Sys2Proof.Machine.execEret c s
  | .csrr c d n => Sys2Proof.Machine.execCsrr c d n s
  | .csrw c x n => Sys2Proof.Machine.execCsrw c x n s
  | .wsync c => Sys2Proof.Machine.execWsync c s
  | .rinv c x => Sys2Proof.Machine.execRinv c x s
  | .halt c x => Sys2Proof.Machine.execHalt c x s
  -- supply and link
  | .hostLinkTrained rate width => Sys2Proof.Machine.execHostLinkTrained rate width s
  -- steps that carry nothing: each acts on the oldest pending work of its kind, or on the whole part
  | .deviceReset => Sys2Proof.Machine.execDeviceReset s
  | .ppsEdge => Sys2Proof.Machine.execPpsEdge s
  | .ptpMasterTimeout => Sys2Proof.Machine.execPtpMasterTimeout s
  | .ppsTimeout => Sys2Proof.Machine.execPpsTimeout s
  | .bulkCopyLineDone => Sys2Proof.Machine.execBulkCopyLineDone s
  | .getVersion => Sys2Proof.Machine.execGetVersion s
  | .getCapabilities => Sys2Proof.Machine.execGetCapabilities s
  | .negotiateAlgorithms => Sys2Proof.Machine.execNegotiateAlgorithms s
  | .getDigests => Sys2Proof.Machine.execGetDigests s
  | .getCertificate => Sys2Proof.Machine.execGetCertificate s
  | .challenge => Sys2Proof.Machine.execChallenge s
  | .getMeasurements => Sys2Proof.Machine.execGetMeasurements s
  | .keyExchange => Sys2Proof.Machine.execKeyExchange s
  | .finish => Sys2Proof.Machine.execFinish s
  | .endSession => Sys2Proof.Machine.execEndSession s
  | .walkHandoff => Sys2Proof.Machine.execWalkHandoff s
  | .walkComplete => Sys2Proof.Machine.execWalkComplete s
  | .bankCommandHome => Sys2Proof.Machine.execBankCommandHome s
  | .diffusionArrival => Sys2Proof.Machine.execDiffusionArrival s
  | .completionTreeUpdate => Sys2Proof.Machine.execCompletionTreeUpdate s
  | .itemMoveAck => Sys2Proof.Machine.execItemMoveAck s
  | .barrierArrival => Sys2Proof.Machine.execBarrierArrival s
  | .ldqLand => Sys2Proof.Machine.execLdqLand s
  | .loadReturn => Sys2Proof.Machine.execLoadReturn s
  | .homeRequest => Sys2Proof.Machine.execHomeRequest s
  | .drainAck => Sys2Proof.Machine.execDrainAck s
  | .pushApply => Sys2Proof.Machine.execPushApply s
  | .towerRequest => Sys2Proof.Machine.execTowerRequest s
  | .standbySupplyLoss => Sys2Proof.Machine.execStandbySupplyLoss s

end Sys2Proof.Machine
end

