-- ==== Sys2Proof/Machine/Sched.lean ====
section
/-! DEFINITION. The order in which the model lets the part's units act, and how one instruction is placed to run
(DESIGN CHOICE, log 3; DESIGN CHOICE, log 10). -/

namespace Sys2Proof.Machine

/-- What the machine does next. -/
inductive Next where
  /-- an event that is due -/
  | event (i : Instr) (s : State)
  /-- the group that holds a core's issue slot goes on -/
  | issue (core slot : Nat) (s : State)
  /-- only cycles pass -/
  | pass (s : State)
  | idle

/-- Work of the cores: resumption, grants, issue (09 R244, 06 R174). -/
def coreWork (s : State) : Next :=
  if s.halted || s.thermal then .idle
  else
    match clearedGroup s with
    | some (c, sl) => .event (.runResume c sl) s
    | none =>
      match grantCore s with
      | some c => .event (.issueGrant c) s
      | none =>
        match wokenGroup s with
        | some (c, sl) => .event (.sleepExpire c sl) s
        | none =>
          match nextCore s with
          | some (c, .inl sl) => .issue c sl { s with turn := c + 1 }
          | some (c, .inr n) => .pass (tick { s with turn := c + 1 } c n)
          | none => .idle

/-- Take the first event that is no background work. -/
def promptEvent (s : State) : Option (Instr × State) :=
  (takeFirst (fun i => !background i) s.agenda).map (fun x => (x.1, { s with agenda := x.2 }))

/-- Requests and arrivals that waited for others and can go on (11 R300, R311, R315). -/
def homeWork (s : State) : Option Instr :=
  if s.reqs.any (fun r => !r.isPush && ready s r) then some .homeRequest
  else if s.reqs.any (fun r => r.isPush && ready s r) then some .pushApply
  else if s.held.any (drained s) then some .drainAck
  else if s.arrivals.any (fun a => !arrivalHeld s a) then some .barrierArrival
  else none

/-- Work that units take up by themselves: requests at homes, commands, saves, ends of stolen blocks, reclamation, slots, pushed
entries, register spills, migrations (DESIGN CHOICE, log 3). -/
def unitWork (s : State) : Option Instr :=
  [homeWork, commandWork, saveWork, stolenWork, goatWork, slotWork, arrivalWork, spillWork, migWork].findSome? (fun f => f s)

/-- The next thing the part does: events that are due, work of its units, then cores and background work in turn
(DESIGN CHOICE, log 3). -/
def nextWork (s : State) : Next :=
  match promptEvent s with
  | some (i, s) => .event i s
  | none =>
    match unitWork s with
    | some i => .event i s
    | none =>
    match s.agenda with
    | [] => coreWork s
    | i :: rest =>
      let later := Next.event i { s with agenda := rest, flip := true }
      if s.flip then (match coreWork { s with flip := false } with
        | .idle => later
        | w => w)
      else later

/-! ### Placing one instruction -/

/-- Where a placed instruction stands: an odd parcel of a doubleword, so that it begins no pair. -/
def placedPc : Nat := 0x10004

/-- A launch that holds one block of one group, with a range that maps every low address to itself. -/
def placedLaunch : Launch where
  cmd := 0
  recAddr := 0
  priority := 0
  handler := false
  tower := 0
  current := false
  kernels := [⟨⟨placedPc, 384, 384, 0, 0, 0, 0, 1, 16⟩, 0, [], [], [], 0, 0, false⟩]
  gang := false
  blocks := 1
  pipes := []
  ranges := some [⟨0, 0x1000000, 0, 0x1D⟩]
  home := none
  dealt := 1
  batches := (0, 0)
  bind := none
  binding := false
  claimed := []
  stolen := []
  remote := []
  ended := none
  paused := false

/-- Store n bytes of a number from an address on. -/
def storeBytes (m : List Host.Cell) (a v : Nat) : Nat → List Host.Cell
  | 0 => m
  | n + 1 => memSet (storeBytes m a v n) (a + n) (BitVec.ofNat 8 (v / 2 ^ (8 * n)))

/-- A program of one instruction stands where core 0 fetches next: its group holds the issue slot, its page is mapped
and cached, its 8 bytes are in memory; nothing else is due. -/
def placeWord (s : State) (v : Nat) : State :=
  let b := { Block.new 0 0 0 ⟨placedPc, 384, 384, 0, 0, 0, 0, 1, 16⟩ [] with state := .running, core := some 0, slots := [0] }
  let g := freshGroup s.blockNo 0 16 (w64 placedPc) [] [] 0
  let g := { g with status := .issuing, run := some ⟨widthMask 16, w64 placedPc, 0, 0, none⟩ }
  let c := coreOf s 0
  { s with
    agenda := [], flip := false, halted := false, thermal := false, turn := 0
    mem := storeBytes s.mem placedPc v 8
    home := mdel s.home (placedPc / 64)
    keys := mset s.keys 0 1
    keyTags := mdel s.keyTags (placedPc / 64)
    dead := mdel s.dead (placedPc / 1024)
    leaves := mset s.leaves (leafKey 0 placedPc 3) ⟨0x10003, 0, 3⟩
    launches := mset s.launches 0 placedLaunch
    blocks := mset s.blocks s.blockNo b
    blockNo := s.blockNo + 1
    groups := mset s.groups (gkey 0 0) g
    cores := mset s.cores 0 { c with issuing := some 0 } }

end Sys2Proof.Machine
end

