-- ==== Sys2Proof/Machine/Step.lean ====
section
/-! DEFINITION. One step of the machine: the next thing the part does. -/

namespace Sys2Proof.Machine

/-- One step (DESIGN CHOICE, log 3): an event that is due, an instruction or a pair that a core issues, or cycles that pass. -/
def step (s : State) : Host.Outcome State Fault Refusal :=
  match nextWork s with
  | .event i s => exec i s
  | .pass s => .next s
  | .idle => .next s
  | .issue core slot s =>
    match fetchIssue s core slot with
    | .done s => .next s
    | .one s i => exec i s
    | .two s a b => issuePair s a b

/-- The state with an instruction placed where the next step fetches it; a log entry says how a program comes to run from
reset (DESIGN CHOICE, log 10). -/
def State.withFetchWord (s : State) (nbits w : Nat) : State := placeWord s (w % 2 ^ nbits)

end Sys2Proof.Machine
end

