-- ==== Sys2Proof/Safety.lean ====
section
/-! DEFINITION. What counts as a safe run, in the terms the statements use: completion, what an instruction needs to
complete, what it leaves alone, and the invariant of memory. -/

namespace Sys2Proof.Machine

/-- Executing an instruction or an event answers a next state, of which `post` holds. -/
def Completes (i : Instr) (s : State) (post : State → Prop) : Prop := ∃ t, exec i s = .next t ∧ post t

/-- Memory is in its canonical form. -/
def State.memOk (s : State) : Prop := Memory.wf s.mem = true

/-- Everything that memory reads see is the same: cells, poison, key tags, dead rows, home lines and column copies. -/
def SameMemory (s t : State) : Prop :=
  t.mem = s.mem ∧ t.poison = s.poison ∧ t.keyTags = s.keyTags ∧ t.dead = s.dead ∧ t.home = s.home ∧ t.l1 = s.l1

/-! ### What an instruction needs, and what it leaves -/

/-- What an instruction of a group needs to execute without a break or a trap before its own effect (12 R355, 09 R248-R254, R263): lane
progress, an active lane, fewer than 24 instructions in its run, no register awaited, none that a supervisor group lacks, room for the rows it maps, entries in the
queues it pops, and pairs at even registers; and, for an instruction that is charged, a core within its budget or an exemption (07
R187, R188). -/
structure Ready (s : State) (c : Ctx) (charged : Bool) (srcs : List Opnd) (others : List AReg) (rows : List Nat) : Prop where
  start : c.r.start < 64
  active : c.r.active ≠ 0
  count : c.r.count < 24
  returned : ∀ r ∈ srcs.flatMap Opnd.regs ++ others ++ rows.map AReg.v, awaits c.g r = false ∧ lacks c.g r = false
  budget : charged = true → c.g.exempt ≠ 0 ∨ (coreOf s c.core).charge < budgetValue s c.core
  room : c.mask = 0 ∨ newRows c.g rows = 0 ∨
    (c.g.vregs.length + newRows c.g rows ≤ peakRows s c.g ∧
      (c.g.super = true ∨ rowsFit s c.core c.g.block (newRows c.g rows) = true))
  queues : c.latch ≠ [] ∨ shortQueue c.g (srcs.flatMap Opnd.pops) = none
  even : ∀ o ∈ srcs, o.odd = false

/-- The values of operands in a lane, queue entries as the instruction pops them (14 R391, R392, 09 R254). -/
def Ctx.vals (c : Ctx) (srcs : List Opnd) (l : Nat) : List Nat :=
  opndVals c.g (if c.latch.isEmpty then (popQueues c.g (srcs.flatMap Opnd.pops)).latch else c.latch) srcs l

/-- Only group k, its core and what is counted and due changed: no other register of the part, nothing of another group but its
exemption from the budget and the matrix unit's progress on its product, which pass with the cycles (07 R186, 17 R479), and nothing of
a block but the units charged to it. -/
structure OnlyGroup (s t : State) (k : Nat) : Prop where
  rest : ∃ gs cs bs ag, t = { s with groups := gs, cores := cs, blocks := bs, agenda := ag }
  others : ∀ j, j ≠ k → ∀ g, groupOf s j = some g → ∃ x m, groupOf t j = some { g with exempt := x, mctx := m }
  blocks : ∀ b, ∃ u, blockOf t b = (blockOf s b).map (fun x => { x with units := u })

/-- The registers of a group but for some rows, scalars and predicates are the same, with its lanes' life and meeting registers,
what it awaits, its references and what it is. -/
structure Kept (g g' : Group) (rows scalars preds : List Nat) : Prop where
  vregs : ∀ n, n ∉ rows → vreg g' n = vreg g n
  sregs : ∀ n, n ∉ scalars → sreg g' n = sreg g n
  preds : ∀ n, n ∉ preds → preg g' n = preg g n
  lanes : g'.lanes.length = g.lanes.length ∧ ∀ l, (laneAt g' l).live = (laneAt g l).live ∧ (laneAt g' l).meet = (laneAt g l).meet
  refs : g'.refs = g.refs
  pending : g'.awaiting = g.awaiting ∧ g'.pendingOrd = g.pendingOrd
  who : g'.block = g.block ∧ g'.index = g.index ∧ g'.width = g.width ∧ g'.super = g.super
  traps : g'.trap = g.trap ∧ g'.trap2 = g.trap2 ∧ g'.handler = g.handler

/-- Each popped entry has left its queue, unless the latch held the entries from an earlier try (09 R254). -/
def Popped (c : Ctx) (pops : List Nat) (g' : Group) : Prop :=
  ∀ q, queueAt g' q =
    { queueAt c.g q with entries := (queueAt c.g q).entries.drop (if c.latch = [] then countIn pops q else 0) }

/-- Where the group goes on after an instruction: at the next one of its run, or, where E ends the run, every active lane at the
next instruction's address (12 R351, 14 R407). -/
def GoesOn (c : Ctx) (e : Bool) (g' : Group) : Prop :=
  if e then g'.run = none ∧ g'.status = .ready ∧ ∀ l, l < c.g.lanes.length →
    (laneAt g' l).pc = if inMask c.r.active l then c.next else (laneAt c.g l).pc
  else g'.run = some { c.r with pc := c.next, count := c.r.count + 1, start := 0, pre := none } ∧
    ∀ l, (laneAt g' l).pc = (laneAt c.g l).pc

/-- The instruction completed: its group goes on with every register kept but those named, nothing outside the group and its core
changed, memory included, and `post` holds of the group. -/
def Done (s t : State) (c : Ctx) (e : Bool) (rows scalars preds : List Nat) (post : Group → Prop) : Prop :=
  ∃ g', groupOf t c.key = some g' ∧ OnlyGroup s t c.key ∧ Kept c.g g' rows scalars preds ∧ GoesOn c e g' ∧ post g'

/-- A destination's scalars and predicates. -/
def DestReg.scalars : DestReg → List Nat
  | .s n => [n]
  | _ => []
def DestReg.preds : DestReg → List Nat
  | .p n => [n]
  | _ => []

/-- A destination holds a value per stream-mask lane, or one value, and its other lanes are kept (14 R391-R393, 12 R335). -/
def Holds (c : Ctx) (g' : Group) (d : DestReg) (val : Nat → Nat) : Prop :=
  match d with
  | .none => True
  | .s n => sreg g' n = val 0 % 2 ^ 64
  | .v n false => ∀ l, l < 64 → laneOf (vreg g' n) l = if inMask c.mask l then w32 (val l) else laneOf (vreg c.g n) l
  | .v n true => ∀ l, l < 64 →
      laneOf (vreg g' n) l = (if inMask c.mask l then w32 (val l) else laneOf (vreg c.g n) l) ∧
      laneOf (vreg g' (n + 1)) l = if inMask c.mask l then w32 (val l / 2 ^ 32) else laneOf (vreg c.g (n + 1)) l
  | .p n => n ≠ 0 → ∀ l, l < 64 → inMask (preg g' n) l = if inMask c.mask l then val l % 2 == 1 else inMask (preg c.g n) l

/-- An instruction that computes each lane of its destination from its own operands, as `val` says: it completes, frees the rows of
its flagged sources but for its destination (09 R251), pops its queue operands, and raises no exception. -/
def LaneForm (i : Instr) (s : State) (c : Ctx) (e charged : Bool) (srcs : List Opnd) (reads : List AReg) (d : DestReg)
    (val : Nat → List Nat → Nat) : Prop :=
  d.odd = false → Ready s c charged srcs (reads ++ d.regs) d.rows → Completes i s (fun t =>
    Done s t c e (d.rows ++ srcs.flatMap Opnd.frees) d.scalars d.preds (fun g' =>
      Holds c g' d (fun l => val l (c.vals srcs l)) ∧
      (∀ n ∈ srcs.flatMap Opnd.frees, n ∉ d.rows → vreg g' n = 0) ∧
      Popped c (srcs.flatMap Opnd.pops) g' ∧ g'.frnd = c.g.frnd))

/-! ### Integers (14 R391) -/

/-- A source's low W bits. -/
def pat (t : IType) (raw : Nat) : BitVec (tyWidth t) := BitVec.ofNat _ raw
/-- The integer a pattern stands for. -/
def intOf {t : IType} (x : BitVec (tyWidth t)) : Int := if t.isSigned then x.toInt else (x.toNat : Int)
/-- A result extended to 64 bits; a vector lane keeps its low 32. -/
def extTo {t : IType} (x : BitVec (tyWidth t)) : Nat := if t.isSigned then (x.signExtend 64).toNat else x.toNat
/-- An exact result, clamped to the type under `.sat`, else wrapped (13 R387). -/
def deliverInt (t : IType) (sat : Bool) (r : Int) : BitVec (tyWidth t) :=
  let least : Int := if t.isSigned then -(2 : Int) ^ (tyWidth t - 1) else 0
  let most : Int := if t.isSigned then (2 : Int) ^ (tyWidth t - 1) - 1 else (2 : Int) ^ tyWidth t - 1
  BitVec.ofInt _ (if sat then max least (min most r) else r)

/-- An integer instruction whose operands all have the type's width. -/
def IntForm (i : Instr) (s : State) (c : Ctx) (e : Bool) (t : IType) (d : DestReg) (srcs : List Src)
    (val : List Nat → BitVec (tyWidth t)) : Prop :=
  LaneForm i s c e true (srcs.map (fun x => (⟨x, tyWide t⟩ : Opnd))) [] d (fun _ vs => extTo (val vs))

/-- A long integer instruction of one, two or three sources, in each of its forms. -/
def Int1 (i : Instr) (s : State) (ct : Ctl) (o : IOp1) (f : BitVec (tyWidth o.ty) → BitVec (tyWidth o.ty)) : Prop :=
  i.wf = true → ∀ c, issueCtx s ct.pred.toNat ct.neg = some c →
    IntForm i s c ct.e o.ty (.ofReg o.d (tyWide o.ty)) [o.a] (fun vs => f (pat o.ty (v1 vs)))
def Int2 (i : Instr) (s : State) (ct : Ctl) (o : IOp2) (f : BitVec (tyWidth o.ty) → Nat → BitVec (tyWidth o.ty)) : Prop :=
  i.wf = true → ∀ c, issueCtx s ct.pred.toNat ct.neg = some c →
    IntForm i s c ct.e o.ty (.ofReg o.d (tyWide o.ty)) [o.a, o.b] (fun vs => f (pat o.ty (v1 vs)) (v2 vs))
def Int3 (i : Instr) (s : State) (ct : Ctl) (o : IOp3)
    (f : BitVec (tyWidth o.ty) → Nat → BitVec (tyWidth o.ty) → BitVec (tyWidth o.ty)) : Prop :=
  i.wf = true → ∀ c, issueCtx s ct.pred.toNat ct.neg = some c →
    IntForm i s c ct.e o.ty (.ofReg o.d (tyWide o.ty)) [o.a, o.b, o.c.toSrc]
      (fun vs => f (pat o.ty (v1 vs)) (v2 vs) (pat o.ty (v3 vs)))

/-- A short integer instruction of one source, or of its destination and one source, whose destination names a vector register, not a
queue (12 R341). -/
def ShortInt1 (i : Instr) (s : State) (o : SI) (f : BitVec (tyWidth o.ty) → BitVec (tyWidth o.ty)) : Prop :=
  i.wf = true → ∀ c, issueCtx s o.pred.toNat false = some c → reachD c.pre o.d < 384 →
    IntForm i s c o.e o.ty (.v (reachD c.pre o.d) (tyWide o.ty)) [shortSrc (reachS c.pre o.s) o.last]
      (fun vs => f (pat o.ty (v1 vs)))
def ShortInt2 (i : Instr) (s : State) (o : SI) (f : BitVec (tyWidth o.ty) → Nat → BitVec (tyWidth o.ty)) : Prop :=
  i.wf = true → ∀ c, issueCtx s o.pred.toNat false = some c → reachD c.pre o.d < 384 →
    IntForm i s c o.e o.ty (.v (reachD c.pre o.d) (tyWide o.ty))
      [shortSrc (reachD c.pre o.d) false, shortSrc (reachS c.pre o.s) o.last] (fun vs => f (pat o.ty (v1 vs)) (v2 vs))
/-- A short shift by its count field. -/
def ShortShift (i : Instr) (s : State) (o : SShift) (f : BitVec (tyWidth o.ty) → Nat → BitVec (tyWidth o.ty)) : Prop :=
  ∀ c, issueCtx s o.pred.toNat false = some c → reachD c.pre o.d < 384 →
    IntForm i s c o.e o.ty (.v (reachD c.pre o.d) (tyWide o.ty)) [shortSrc (reachD c.pre o.d) false]
      (fun vs => f (pat o.ty (v1 vs)) o.cnt.toNat)

/-! ### Floating point (13 R381-R385) -/

/-- The lanes whose results a destination takes: those of the stream mask, or one for a scalar (12 R335). -/
def Ctx.resultLanes (c : Ctx) (d : DestReg) : List Nat := if d.isS then [0] else laneList c.mask

/-- An instruction that computes each lane with exceptions, none of them enabled to trap: it completes as `LaneForm` says, FLG gains
the exceptions of its lanes and SCNT counts it where it rounds stochastically (13 R381, R385). -/
def FloatForm (i : Instr) (s : State) (c : Ctx) (e : Bool) (srcs : List Opnd) (d : DestReg) (stochastic : Bool)
    (res : Nat → List Nat → Nat × Nat) : Prop :=
  d.odd = false → Ready s c true srcs d.regs d.rows →
  (∀ l ∈ c.resultLanes d, (res l (c.vals srcs l)).2 &&& c.g.frnd.ten.toNat = 0) →
  Completes i s (fun t => Done s t c e (d.rows ++ srcs.flatMap Opnd.frees) d.scalars d.preds (fun g' =>
    Holds c g' d (fun l => (res l (c.vals srcs l)).1) ∧
    (∀ n ∈ srcs.flatMap Opnd.frees, n ∉ d.rows → vreg g' n = 0) ∧
    Popped c (srcs.flatMap Opnd.pops) g' ∧
    (∀ b, b < 5 → g'.frnd.flg.getLsbD b =
      (c.g.frnd.flg.getLsbD b || (c.resultLanes d).any (fun l => (res l (c.vals srcs l)).2.testBit b))) ∧
    g'.frnd.scnt = c.g.frnd.scnt + (if stochastic then 1 else 0) ∧
    g'.frnd.rm = c.g.frnd.rm ∧ g'.frnd.ten = c.g.frnd.ten ∧ g'.frnd.seed = c.g.frnd.seed))

/-- The rounding, saturation and flushing in force for an instruction issued alone (13 R346). -/
def Ctx.env (c : Ctx) : FpEnv := fpEnv c.g c.pre 0
/-- The instruction rounds stochastically (13 R381). -/
def Ctx.stochastic (c : Ctx) : Bool := c.env.mode == 5

/-- Element e of a source: 32 bits, or 16 at its place in a packed register (15 R420), modified (R421) and flushed (R422). -/
def element (t : FType) (v : FpEnv) (neg abs : Bool) (raw e : Nat) : Num :=
  ftzIn (ftFmt t) v.flush (modNum neg abs
    (if t = .f32 then decFmt fmt32 (raw % 2 ^ 32) else decFmt (ftFmt t) (raw / 2 ^ (16 * e) % 2 ^ 16)))
/-- A lane's result: one element, or two side by side, each delivered under `v` or, for an exact instruction, as it is (15 R424,
R425). -/
def lanePair (t : FType) (v : FpEnv) (exact : Bool) (l : Nat) (f : Nat → Num × Nat) : Nat × Nat :=
  let one (e : Nat) := deliver (ftFmt t) (if exact then ⟨0, 0, false, 0, 0⟩ else v) (srand v l e) (f e)
  if t = .f16x2 ∨ t = .bf16x2 then ((one 0).1 + (one 1).1 * 2 ^ 16, (one 0).2 ||| (one 1).2) else one 0

/-- A long two-source instruction and a short one, whose function of the two elements is `f`; `exact` ignores the environment. -/
def Float2 (i : Instr) (s : State) (ct : Ctl) (o : FOp2) (exact : Bool) (f : FpEnv → Num → Num → Num × Nat) : Prop :=
  i.wf = true → ∀ c, issueCtx s ct.pred.toNat ct.neg = some c →
    FloatForm i s c ct.e [⟨o.a, false⟩, ⟨o.b, false⟩] (.ofReg o.d false) (!exact && c.stochastic) (fun l vs =>
      lanePair o.ty c.env exact l (fun e =>
        f c.env (element o.ty c.env o.mods.negA o.mods.absA (v1 vs) e) (element o.ty c.env o.mods.negB false (v2 vs) e)))
def ShortFloat2 (i : Instr) (s : State) (o : SF) (exact : Bool) (f : FpEnv → Num → Num → Num × Nat) : Prop :=
  ∀ c, issueCtx s o.pred.toNat false = some c → reachD c.pre o.d < 384 →
    FloatForm i s c o.e [⟨shortSrc (reachD c.pre o.d) false, false⟩, ⟨shortSrc (reachS c.pre o.s) o.last, false⟩]
      (.v (reachD c.pre o.d) false) (!exact && c.stochastic) (fun l vs =>
        lanePair o.ty c.env exact l (fun e =>
          f c.env (element o.ty c.env false false (v1 vs) e) (element o.ty c.env false false (v2 vs) e)))
/-- A long one-source instruction and a short one. -/
def Float1 (i : Instr) (s : State) (ct : Ctl) (o : FOp1) (f : Num → Num × Nat) : Prop :=
  i.wf = true → ∀ c, issueCtx s ct.pred.toNat ct.neg = some c →
    FloatForm i s c ct.e [⟨o.a, false⟩] (.ofReg o.d false) c.stochastic (fun l vs =>
      lanePair o.ty c.env false l (fun e => f (element o.ty c.env o.negA o.absA (v1 vs) e)))
def ShortFloat1 (i : Instr) (s : State) (o : SF) (f : Num → Num × Nat) : Prop :=
  ∀ c, issueCtx s o.pred.toNat false = some c → reachD c.pre o.d < 384 →
    FloatForm i s c o.e [⟨shortSrc (reachS c.pre o.s) o.last, false⟩] (.v (reachD c.pre o.d) false) c.stochastic (fun l vs =>
      lanePair o.ty c.env false l (fun e => f (element o.ty c.env false false (v1 vs) e)))

/-! ### Lane operations (15 R433) -/

/-- What a lane reads of a source in lane j: its value and 1, or 0 and 0 where lane j has exited or was never launched. -/
def Ctx.peer (c : Ctx) (srcs : List Opnd) (j : Int) : Nat × Bool :=
  if 0 ≤ j ∧ j < c.g.width ∧ (laneAt c.g j.toNat).live = true then (v1 (c.vals srcs j.toNat) % 2 ^ 32, true) else (0, false)

/-- A lane operation: it completes with a value in each stream-mask lane of its destination and, where it names one, a bit in its
valid predicate. -/
def PeerForm (i : Instr) (s : State) (c : Ctx) (e : Bool) (srcs : List Opnd) (reads : List AReg) (d : DestReg)
    (valid : Option (BitVec 9)) (val : Nat → Nat × Bool) : Prop :=
  Ready s c true srcs (reads ++ d.regs) d.rows → Completes i s (fun t =>
    Done s t c e (d.rows ++ srcs.flatMap Opnd.frees) d.scalars (valid.elim [] (fun p => [p.toNat])) (fun g' =>
      Holds c g' d (fun l => (val l).1) ∧ (∀ p, valid = some p → Holds c g' (.p p.toNat) (fun l => bit (val l).2)) ∧
      (∀ n ∈ srcs.flatMap Opnd.frees, n ∉ d.rows → vreg g' n = 0) ∧
      Popped c (srcs.flatMap Opnd.pops) g' ∧ g'.frnd = c.g.frnd))

/-! ### Control transfers (14 R407, R408) -/

/-- Where the lanes of the run go on: the acting ones at their targets, the others at the next instruction; the run has ended. -/
def Transferred (c : Ctx) (acting : LaneMask) (target : Nat → Word64) (g' : Group) : Prop :=
  g'.run = none ∧ g'.status = .ready ∧ ∀ l, l < c.g.lanes.length → (laneAt g' l).pc =
    if inMask acting l then target l else if inMask c.r.active l then c.next else (laneAt c.g l).pc

/-- A transfer with E 1 whose targets all begin a run and need no peer package: it sends its acting lanes there (12 R352, R353, 14
R408). -/
def TransferForm (i : Instr) (s : State) (c : Ctx) (srcs : List Opnd) (reads : List AReg) (d : DestReg) (acting : LaneMask)
    (target : Nat → Word64) (post : Group → Prop) : Prop :=
  d.odd = false → Ready s c false srcs (reads ++ d.regs) d.rows →
  (∀ l, inMask acting l = true → targetMiss s c.key c.g (target l) = none ∧ targetOk s c.key c.g (target l) = true) →
  Completes i s (fun t => ∃ g', groupOf t c.key = some g' ∧ OnlyGroup s t c.key ∧
    Kept c.g g' (d.rows ++ srcs.flatMap Opnd.frees) d.scalars [] ∧ g'.frnd = c.g.frnd ∧
    Transferred c acting target g' ∧ Popped c (srcs.flatMap Opnd.pops) g' ∧ post g')

/-! ### Memory accesses (16 R446-R454) -/

/-- The address of a lane: its base and the offset (16 R446). -/
def Ctx.va (c : Ctx) (base : Src) (off : BitVec 9) (l : Nat) : Nat :=
  (BitVec.ofNat 64 (v1 (c.vals [⟨base, true⟩] l)) + off.signExtend 64).toNat

/-- A lane's access is aligned, as is the intermediate address that its 64 KiB-aligned range gives (04 R100), its translation is at
hand and the stack of its home is ONLINE. -/
def Reaches (s : State) (c : Ctx) (va n : Nat) (k : AKind) (ia : Nat) (leaf : Leaf) : Prop :=
  va % n = 0 ∧ ia % n = 0 ∧ (∃ r, laneXlate c s va n k false false = .ok s ia leaf r) ∧
  (let pa := homePa leaf (homeKey leaf (ia / 64) (colTower (coreCol c.core)))
   isHbm pa = true → stackState s (stackOf pa) = 0)

/-- A column may hold a copy of a line: not the management window, nor host memory in PCIe mode (11 R310, 02 R34). -/
def Cacheable (s : State) (leaf : Leaf) (ia : Nat) : Prop :=
  isMgmt (leaf.pa52 (64 * (ia / 64))) = false ∧ (isHost (leaf.pa52 (64 * (ia / 64))) = true → cxlMode s = true)

/-- A column's copy of a line in E or M serves any access of the column: no earlier access of the line waits and the accessed words are
not poisoned (11 R307, R310, 01 R31). -/
def Owned (s : State) (col : Nat) (leaf : Leaf) (ia n : Nat) (x : L1Line) : Prop :=
  col < 384 ∧ Cacheable s leaf ia ∧ l1Get s col (ia / 64) = some x ∧ (x.st = .e ∨ x.st = .m) ∧
  pendingLine s col (ia / 64) = false ∧ x.poison &&& wordsOf (byteMask (ia % 64) n) = 0

/-- What a load of a size delivers of its bytes (16 R453). -/
def loadValue : LdSize → Nat → Nat
  | .s8, v => ((BitVec.ofNat 8 v).signExtend 64).toNat
  | .s16, v => ((BitVec.ofNat 16 v).signExtend 64).toNat
  | _, v => v

/-- A register holds the value of each lane, in as many rows as the value has words. -/
def HoldsWords (c : Ctx) (g' : Group) (d : Reg) (words : Nat) (val : Nat → Nat) : Prop :=
  match d with
  | .s n => sreg g' n.val = val 0 % 2 ^ 64
  | .v n => ∀ i, i < words → ∀ l, l < 64 → laneOf (vreg g' (n.val + i)) l =
      if inMask c.mask l then w32 (val l / 2 ^ (32 * i)) else laneOf (vreg c.g (n.val + i)) l

/-- Registers at the numbers a size allows (16 R447). -/
def sizedRegs (d : Reg) (n : Nat) : Prop :=
  match d with
  | .v r => (n = 8 → r.val % 2 = 0) ∧ (n = 16 → r.val % 4 = 0)
  | .s r => n = 16 → r.val % 4 = 0

/-- The requests of an instruction's lanes, numbered from the first free number, with what each asks. -/
def laneRequests (s : State) (c : Ctx) (first : Nat) (lanes : List Nat) (kind : Nat → ReqKind) (ia : Nat → Nat) (n : Nat)
    (policy : Nat → Policy) (scope : Scope) (hint : Hint) (acq rel : Bool) (dest : Nat → Dest) (leaf : Nat → Leaf) : List Req :=
  lanes.zipIdx.map (fun p =>
    { id := first + p.2, col := coreCol c.core, group := some c.key, kind := kind p.1, line := ia p.1 / 64
      mask := byteMask (ia p.1 % 64) n, policy := policy p.1, scope := scope, hint := hint, acquire := acq, release := rel
      dest := dest p.1, leaf := leaf p.1, peer := none, launch := groupLaunch s c.g
      tower := homeTower (leaf p.1) (ia p.1 / 64) (colTower (coreCol c.core)) == colTower (coreCol c.core) })

/-- An instruction completed by sending requests: nothing outside its group and its core changed but the requests, its registers are as
they were, and the destination registers await the requests' returns (11 R307, 16 R452). -/
def Sent (s t : State) (c : Ctx) (e : Bool) (frees : List Nat) (reqs : List Req) (first : Nat) (regs : List AReg) (acq : Bool)
    (post : Group → Prop) : Prop :=
  t.reqs = s.reqs ++ reqs ∧ t.reqNo = first + reqs.length ∧ OnlyGroup s { t with reqs := s.reqs, reqNo := s.reqNo } c.key ∧
  ∃ g', groupOf t c.key = some g' ∧ Kept c.g { g' with awaiting := c.g.awaiting, pendingOrd := c.g.pendingOrd } frees [] [] ∧
    GoesOn c e g' ∧ g'.frnd = c.g.frnd ∧
    g'.awaiting = c.g.awaiting ++ reqs.flatMap (fun r => regs.map (fun a => (a, r.id))) ∧
    g'.pendingOrd = c.g.pendingOrd ++ (if acq then reqs.map (·.id) else []) ∧ post g'

/-- A byte of a column's copy. -/
def columnByte (s : State) (col ia : Nat) : Option Byte := (l1Get s col (ia / 64)).map (fun x => byteOf x.data (ia % 64))
/-- The last of the lanes whose n bytes from their address cover an address. -/
def lastLane (lanes : List Nat) (at_ : Nat → Nat) (n a : Nat) : Option Nat :=
  lanes.reverse.find? (fun l => decide (at_ l ≤ a) && decide (a < at_ l + n))

/-- The instruction completed and changed its group, its core and its block, of which `rel` holds; other blocks keep all but the units
charged to them. -/
def DoneBlock (s t : State) (c : Ctx) (e : Bool) (rows scalars : List Nat) (rel : Block → Prop) (post : Group → Prop) : Prop :=
  OnlyGroup s { t with blocks := s.blocks } c.key ∧
  (∀ j, j ≠ c.g.block → ∃ u, blockOf t j = (blockOf s j).map (fun x => { x with units := u })) ∧
  (∃ b', blockOf t c.g.block = some b' ∧ rel b') ∧
  ∃ g', groupOf t c.key = some g' ∧ Kept c.g g' rows scalars [] ∧ GoesOn c e g' ∧ post g'

/-- Home serves a column's request for a line of HBM4E as soon as it arrives (11 R309): the line is in L2, no column holds a copy,
nothing holds the line, and nothing that its order puts before the request waits. -/
structure AtHome (s : State) (r : Req) (h : HomeLine) : Prop where
  column : r.peer = none ∧ r.col < 384 ∧ r.ofBte = false ∧ r.line < 2 ^ 46 ∧ r.leaf.repl = false
  stack : isHbm (homePa r.leaf r.line) = true ∧ stackState s (stackOf (homePa r.leaf r.line)) = 0 ∧
    s.keyLoads.any (fun k => k.1 == r.leaf.key) = false
  entry : mget s.home r.line = some h ∧ h.cached = true ∧ h.pa = homePa r.leaf r.line ∧ h.busy = 0 ∧ h.hostBit = false ∧ h.prop = false
  copies : holders s r.line = []
  earlier : ready s r = true ∧ waitsPeers s r = false
  errors : s.strikes = []

/-! ### Traps (09 R258-R264) -/

/-- TPC of a trap: the prefix's address, where the instruction has one, else its own (09 R260). -/
def Ctx.tpc (c : Ctx) : Word64 := c.r.pre.elim c.r.pc (·.2)

/-- The group entered its trap handler: the trap registers describe the trap, the lanes of TMASK go on at the entry with no meeting
address, and what the trapped instruction needs to resume is kept (09 R260, 07 R188). -/
def Entered (c : Ctx) (entry : Word64) (tr : Trap) (g' : Group) : Prop :=
  g'.trap = tr ∧ g'.handler = some ⟨tr.mask, 0, c.r.active, c.r.count, c.g.latch⟩ ∧ g'.exempt = 2048 ∧
  g'.run = none ∧ g'.status = .ready ∧ g'.lanes.length = c.g.lanes.length ∧
  (∀ l, l < c.g.lanes.length → (laneAt g' l).kept = (laneAt c.g l).meet ∧ (laneAt g' l).live = (laneAt c.g l).live ∧
    (laneAt g' l).pc = (if inMask tr.mask l then entry else (laneAt c.g l).pc) ∧
    (laneAt g' l).meet = if inMask tr.mask l then 0 else (laneAt c.g l).meet) ∧
  Kept c.g { g' with trap := c.g.trap, handler := c.g.handler, lanes := c.g.lanes } [] [] []

/-- The first trap of a block's group, whose kernel has a trap entry. -/
def trapsTo (s : State) (c : Ctx) (entry : Word64) : Prop :=
  c.g.super = false ∧ c.g.handler = none ∧ entry ≠ 0 ∧
  ∃ b k, blockOf s c.g.block = some b ∧ kernelOf s b = some k ∧ k.trapEntry = entry

/-- The value of a control register that `csrr` reads whole (07 R189, 09 R262, 13 R386, 18 R513-R516). -/
def controlValue (s : State) (c : Ctx) (n : Nat) : Option Nat :=
  let core := coreOf s c.core
  if n = 0x001 then some ((blockOf s c.g.block).elim 0 (fun b => b.index % 2 ^ 24))
  else if n = 0x002 then some (coreCol c.core % 192)
  else if n = 0x003 then some (coreLayer c.core)
  else if n = 0x004 then some (colTower (coreCol c.core))
  else if n = 0x010 then
    some ((if core.clamp then 2 ^ 31 else 0) + core.allot % 256 * 2 ^ 16 + (if core.clamp then 48 else core.value % 256))
  else if 0x018 ≤ n ∧ n ≤ 0x01F then some (if n = 0x01E then 0 else core.wtab.toNat / 2 ^ (4 * (n - 0x018)) % 16)
  else if n = 0x020 ∧ c.g.mctx = none then some 0
  else if n = 0x030 then
    some ((if c.g.handler = none then 0 else 2 ^ 31) + (if c.g.super then 2 ^ 30 else 0) + c.g.trap.sub.toNat * 2 ^ 16 + c.g.trap.cause.toNat)
  else if n = 0x031 then some c.g.trap.pc.toNat
  else if n = 0x032 then some (c.g.trap.lane % 128)
  else if n = 0x033 then some c.g.trap.addr.toNat
  else if n = 0x034 then some c.g.trap.mask.toNat
  else if n = 0x041 then
    some (c.g.frnd.seed.toNat * 2 ^ 32 + c.g.frnd.scnt.toNat * 2 ^ 16 + c.g.frnd.ten.toNat * 2 ^ 11 + c.g.frnd.flg.toNat * 2 ^ 6 +
      c.g.frnd.rm.toNat)
  else if 0x090 ≤ n ∧ n ≤ 0x09F then some (nget core.perfsel (n - 0x090))
  else none

/-! ### Fetch (12 R331-R333, 04 R103) -/

/-- The parcel at an address is at hand: its fetch translates without a walk, its home answers, and it is the 4 bytes that home or memory
holds at the intermediate address. -/
def ParcelAt (s : State) (k : Nat) (g : Group) (va : Nat) (p : Word) : Prop :=
  g.fetchFail = none ∧ ∃ ia leaf x,
    translate s (groupLaunch s g) va 4 .fetch (groupReq s k g false false true) g.walked = .ok s ia leaf x ∧
    refuses s (leaf.pa52 ia) = none ∧ p = w32 (lineField (homeGet s leaf (homeKey leaf (ia / 64) leaf.ht)).data (ia % 64) 4)

/-- The parcels of the instruction at an address: a long instruction's two lie in one range and are fetched as one access of 8 bytes. -/
def ParcelsAt (s : State) (k : Nat) (g : Group) (va : Nat) (p q : Word) : Prop :=
  ParcelAt s k g va p ∧ (p.toNat % 4 = 2 → ParcelAt s k g (va + 4) q ∧
    ∃ rs ia x, withRanges s (groupLaunch s g) = (s, rs) ∧ rangeXlate rs va 8 .fetch (privileged s g) = .ok ia x)

/-- A short instruction that begins a doubleword, without a prefix and with E 0: a second one may issue with it (12 R348). -/
def beginsPair (r : Run) (p : Word) : Bool :=
  p.toNat % 4 == 0 && r.pre.isNone && !p.toNat.testBit 2 && r.pc.toNat % 8 == 0

end Sys2Proof.Machine
end

