-- ==== Sys2Proof/Certificates/Slice0/Obligations.lean ====
section
/-! DEFINITION. The statements for the provers. -/

section
open Sys2Proof Sys2Proof.Machine

/-- Resets (03 R57, R58): each completes from every state. A cold reset voids the journals, samples HMODE and returns every
other register to its reset value; a device reset, which a write of 1 to DEVRST also starts, empties the caches and the
cores, frees every future entry in use with its tag one higher, keeps the retained registers and, with every stack ONLINE, what
HBM4E holds; any other value of DEVRST does nothing;
the loss of the standby supply changes only the records of the black box. -/
def Obligations.ResetsComplete : Prop :=
  ∀ s : State,
    (∀ h, Completes (.coldReset h) s (fun t =>
      t.groups = [] ∧ t.blocks = [] ∧ t.launches = [] ∧ t.cmds = [] ∧ t.home = [] ∧ t.l1 = [] ∧ t.halted = false ∧
      t.bbox = s.bbox ∧ (mreg t 0x50000).testBit 31 = h ∧ ∀ a, a ≠ 0x50000 → mreg t a = regDefault a)) ∧
    (∀ i, i = .deviceReset ∨ i = .devrst 1 → Completes i s (fun t =>
      t.groups = [] ∧ t.blocks = [] ∧ t.launches = [] ∧ t.home = [] ∧ t.l1 = [] ∧ t.agenda = [] ∧
      (∀ a, a ≠ 0x50000 → retained a = false → mreg t a = regDefault a) ∧
      (∀ k, futOf t k = Future.freeAt (if (futOf s k).state = .free then (futOf s k).tag else ((futOf s k).tag + 1) % 64)) ∧
      ((∀ n, n < 8 → stackState s n = 0) → t.mem = s.mem ∧ t.poison = s.poison ∧ t.dead = s.dead ∧ t.bbox = s.bbox ∧
        ∀ a, a ≠ 0x50000 → retained a = true → mreg t a = mreg s a))) ∧
    (∀ v : Word, v ≠ 1 → exec (.devrst v) s = .next s) ∧
    Completes .standbySupplyLoss s (fun t => ∃ l n, t = { s with bbox := l, freeCount := n } ∧ l.map (·.1) = s.bbox.map (·.1))

/-- The responder's answers (03 R89, R90), once the firmware runs, in the order of a connection: GET_VERSION opens it anew, each
later message needs the stage that the ones before it have reached, FINISH needs an exchange of keys and END_SESSION an open
session; every answer is appended to what the part sends. The only algorithms offered are SM2_P256, SM3_256 and SM4_GCM, and
measurement 2 is the digest of the firmware image.
The order of the messages is the family standard's (PRESUMED, log 14), and what the other answers carry is free. -/
def Obligations.AttestationAnswers : Prop :=
  ∀ s : State, fwRunning s = true →
    Completes .getVersion s (fun t => t.spdm = ⟨1, false, false⟩ ∧ t.out = s.out ++ [.spdm .version]) ∧
    (1 ≤ s.spdm.stage → Completes .getCapabilities s (fun t =>
      2 ≤ t.spdm.stage ∧ s.spdm.stage ≤ t.spdm.stage ∧ t.out = s.out ++ [.spdm .capabilities])) ∧
    (2 ≤ s.spdm.stage → Completes .negotiateAlgorithms s (fun t =>
      t.spdm.stage = 3 ∧ t.out = s.out ++ [.spdm (.algorithms [.sm2P256, .sm3Hash256, .sm4Gcm])])) ∧
    (3 ≤ s.spdm.stage →
      Completes .getDigests s (fun t => t.spdm = s.spdm ∧ ∃ d, t.out = s.out ++ [.spdm (.digests d)]) ∧
      Completes .getCertificate s (fun t => t.spdm = s.spdm ∧ ∃ d, t.out = s.out ++ [.spdm (.certificate d)]) ∧
      Completes .challenge s (fun t => t.spdm = s.spdm ∧ ∃ d, t.out = s.out ++ [.spdm (.challengeAuth d)]) ∧
      Completes .getMeasurements s (fun t => t.spdm = s.spdm ∧
        ∃ a c, t.out = s.out ++ [.spdm (.measurements a (Config.imageDigest s.image) c (keyOccupancy s))]) ∧
      Completes .keyExchange s (fun t => t.spdm = { s.spdm with exchanging := true } ∧
        ∃ d, t.out = s.out ++ [.spdm (.keyExchange d)])) ∧
    (s.spdm.exchanging = true → Completes .finish s (fun t =>
      t.spdm.session = true ∧ t.spdm.exchanging = false ∧ t.out = s.out ++ [.spdm .finished])) ∧
    (s.spdm.session = true → Completes .endSession s (fun t =>
      t.spdm.session = false ∧ t.out = s.out ++ [.spdm .ended])) ∧
    (∀ l : KeyLoad, s.spdm.session = false → Completes (.setKey l) s (fun t =>
      t.keys = s.keys ∧ t.keyLoads = s.keyLoads ∧ t.out = s.out ++ [.spdm .unexpected]))

/-- Firmware, keys, counters and register writes (03 R89-R92, R97, 00 R7, R8): a write of 1 to FWGO starts the check from its
idle or failed state; the check's end puts the result into FWSTAT, when it finds the image running and no command is left
started, or when it fails; SET_KEY inside a secured session holds its slot until the new key is in place, and the end of the
load replaces the slot's key and frees the slot; a write of 1 to CTRCLR clears every counter and no other register; before the
firmware runs a write outside the image window, FWGO and DEVRST does nothing, and after it a vector register takes the six bits
written. -/
def Obligations.FirmwareKeysAndRegisters : Prop :=
  ∀ s : State,
    (field (mreg s 0x80004) 31 30 = 0 ∨ field (mreg s 0x80004) 31 30 = 3 → Completes (.fwgo 1) s (fun t =>
      mreg t 0x80004 = 2 ^ 30 ∧ ∀ a, a ≠ 0x80004 → mreg t a = mreg s a)) ∧
    (field (mreg s 0x80004) 31 30 = 1 →
      Completes (.firmwareCheckDone .mismatch) s (fun t => mreg t 0x80004 = 3 * 2 ^ 30 + 1 * 2 ^ 16) ∧
      Completes (.firmwareCheckDone .svnBelow) s (fun t => mreg t 0x80004 = 3 * 2 ^ 30 + 2 * 2 ^ 16) ∧
      Completes (.firmwareCheckDone .malformed) s (fun t => mreg t 0x80004 = 3 * 2 ^ 30 + 3 * 2 ^ 16) ∧
      ((∀ e ∈ s.cmds, e.2.state ≠ .started) → ∀ svn : BitVec 16,
        Completes (.firmwareCheckDone (.running svn)) s (fun t =>
          mreg t 0x80004 = 2 * 2 ^ 30 + svn.toNat ∧ fwRunning t = true))) ∧
    (∀ (k : BitVec 7) (k1 k2 : BitVec 128), fwRunning s = true → s.spdm.session = true → k ≠ 0 →
      s.keyLoads.any (·.1 == k.toNat) = false →
      Completes (.setKey ⟨k, k1, k2⟩) s (fun t => (k.toNat, 1 + k1.toNat * 2 ^ 128 + k2.toNat) ∈ t.keyLoads ∧ .setKeyComplete k ∈ t.agenda)) ∧
    (∀ (k : BitVec 7) (j m : Nat), s.keyLoads.find? (·.1 == k.toNat) = some (j, m) → Completes (.setKeyComplete k) s (fun t =>
      keyGen t k.toNat = m ∧ t.keyLoads = s.keyLoads.filter (·.1 != k.toNat) ∧
      ∀ j, j ≠ k.toNat → keyGen t j = keyGen s j)) ∧
    (fwRunning s = true → Completes (.ctrclr 1) s (fun t =>
      (∀ a, mreg t a = if isCounter a then regDefault a else mreg s a) ∧ (∀ c, (coreOf t c).perf = []) ∧ SameMemory s t)) ∧
    (∀ (a : BitVec 32) (n : Nat) (v : Word64), fwRunning s = false → a.toNat < 0x10000000 →
      (∀ p ∈ regParts a.toNat (min n 8) v.toNat, p.1 ≠ 0x80000 ∧ p.1 ≠ 0x10) → exec (.registerWrite a n v) s = .next s) ∧
    (∀ (k : Nat) (v : Word64), fwRunning s = true → k < 9 →
      Completes (.registerWrite (BitVec.ofNat 32 (0x30000 + 4 * k)) 4 v) s (fun t =>
        mreg t (0x30000 + 4 * k) = v.toNat % 64 ∧ ∀ a, a ≠ 0x30000 + 4 * k → mreg t a = mreg s a))

/-- Device time and the host link (02 R32, R33, R53-R55): a PTP message is shown in DTCSTAT, and steps DTC when it
measures an offset of 1 ms or more; a 1PPS edge latches DTC into PPSLAT, and without a master disciplines DTC; losing the
master, then the pulses, moves SOURCE to 1PPS and to holdover; a link that trains to a rate and width of its mode shows them in
HLSTAT, and it trains to no other. The forms that step DTC are stated for a table that is off.
How far DTC advances before a step reads it is free (log 9); that the 1PPS edge steps by the rule of R54 is the
model's reading (log 58). -/
def Obligations.DeviceTimeAndTable : Prop :=
  ∀ s : State,
    (∀ o : Int, o < 1000000 → Completes (.ptpMessage o) s (fun t =>
      t.dtc = s.dtc ∧ field (mreg t 0x54000) 31 30 = 1 ∧ field (mreg t 0x54000) 15 0 = offset16 o ∧
      field (mreg t 0x54000) 23 16 = field (mreg s 0x54000) 23 16)) ∧
    (∀ o : Int, 1000000 ≤ o → ttOn s = false → Completes (.ptpMessage o) s (fun t =>
      t.dtc = dtcAfter s o.toNat ∧ field (mreg t 0x54000) 31 30 = 1 ∧
      field (mreg t 0x54000) 23 16 = (field (mreg s 0x54000) 23 16 + 1) % 256)) ∧
    (field (mreg s 0x54000) 31 30 < 2 → Completes .ppsEdge s (fun t =>
      t = setMreg (readDtc s).2 0x54010 t.dtc.toNat ∧ t.dtc = dtcAfter s (Config.elapsed s.freeCount))) ∧
    (2 ≤ field (mreg s 0x54000) 31 30 → ttOn s = false → Completes .ppsEdge s (fun t =>
      field (mreg t 0x54000) 31 30 = 2)) ∧
    Completes .ptpMasterTimeout s (fun t => field (mreg t 0x54000) 31 30 = 2 ∧ ∀ a, a ≠ 0x54000 → mreg t a = mreg s a) ∧
    (field (mreg s 0x54000) 31 30 = 2 → Completes .ppsTimeout s (fun t => field (mreg t 0x54000) 31 30 = 3)) ∧
    (field (mreg s 0x54000) 31 30 ≠ 2 → exec .ppsTimeout s = .next s) ∧
    (∀ (r : Byte) (w : BitVec 4), linkTrains s r w = false → exec (.hostLinkTrained r w) s = .next s) ∧
    (∀ (r : Byte) (w : BitVec 4), linkTrains s r w = true → Completes (.hostLinkTrained r w) s (fun t =>
      field (mreg t 0x50000) 15 8 = r.toNat ∧ field (mreg t 0x50000) 19 16 = w.toNat ∧
      field (mreg t 0x50000) 31 31 = field (mreg s 0x50000) 31 31 ∧ ∀ a, a ≠ 0x50000 → mreg t a = mreg s a))

/-- The time-triggered table (03 R83-R86): a slot of an enabled table advances the table, and with one entry due that has room in
its queue and no unfinished instance, inserts that entry's template and advances the queue's CQTAIL; with an entry due whose queue is
off, nothing is inserted; a table that is off, or past the slot, does nothing. -/
def Obligations.TimedTableFires : Prop :=
  ∀ s : State,
    (∀ n, ttOn s = false ∨ n < s.ttSlot → exec (.ttSlotFire n) s = .next s) ∧
    (∀ n, ttOn s = true → s.ttSlot ≤ n → (∀ i, i < 256 → ttFires s i n = false) →
      Completes (.ttSlotFire n) s (fun t => t.ttSlot = n + 1 ∧ t.cmds = s.cmds ∧ t.mgmt = s.mgmt ∧
        (ttTime s n) ≤ t.dtc.toNat)) ∧
    (∀ n i, ttOn s = true → s.ttSlot ≤ n → i < 256 → (∀ j, j < 256 → ttFires s j n = (j == i)) →
      ttRoom s (ttQueue s i) = true → ttUnfinished s i = none →
      Completes (.ttSlotFire n) s (fun t => t.ttSlot = n + 1 ∧
        cqTail t (ttQueue s i) = (cqTail s (ttQueue s i) + 1) % 2 ^ 32 ∧
        t.ttIns = s.ttIns ++ [(cmdKey (ttQueue s i) (cqTail s (ttQueue s i)), i, ttTime s n, none)])) ∧
    (∀ n i, ttOn s = true → s.ttSlot ≤ n → i < 256 → (∀ j, j < 256 → ttFires s j n = (j == i)) →
      cqEn s (ttQueue s i) = false →
      Completes (.ttSlotFire n) s (fun t => t.ttSlot = n + 1 ∧ t.ttIns = s.ttIns ∧ t.cmds = s.cmds ∧
        cqTail t (ttQueue s i) = cqTail s (ttQueue s i)))

/-- Sensors, budgets, refresh and scrubbing (01 R17-R31, 05 R151-R155): a sample of a base-die sensor at or above its SHD halts the
part thermally; a sample of a cool bank sensor is its VALUE; COLBGT and TTRIP take what is in range and set BADWR otherwise; a
refresh command advances its bank by 8 rows; the loss window shows the loss of its commands and starts anew; scrubbing records a
corrected error, poisons a line it cannot correct and leaves a clean one alone; the end of a drain window takes the stack
OFFLINE.
That all readings of a sample are taken before they are compared is the model's reading (log 86); how much a drain
window writes back is free (log 83). -/
def Obligations.SensorsAndStackEvents : Prop :=
  ∀ s : State,
    (∀ (i : Nat) (raw : Int), i < 96 → (sensorOf s .base i).failed = false → (sensorOf s .base i).shd = false →
      (sensorOf s .base i).hist.length < 63 → -160 ≤ raw → raw ≤ 600 →
      (raw - (sensorOf s .base (neighbours .base i).1).value).natAbs ≤ 100 → 4 * ((sensorOf s .base i).shdPt : Int) ≤ raw →
      Completes (.sensorSample [⟨.base, i, raw⟩]) s (fun t => t.thermal = true)) ∧
    (∀ (i : Nat) (raw : Int), i < 32768 → (sensorOf s .bank i).failed = false →
      (sensorOf s .bank i).adv = false → (sensorOf s .bank i).thr = false → (sensorOf s .bank i).shd = false →
      (sensorOf s .bank i).hist.length < 63 → -160 ≤ raw → raw ≤ 600 →
      (raw - (sensorOf s .bank (neighbours .bank i).1).value).natAbs ≤ 100 →
      raw < 4 * ((sensorOf s .bank i).advPt : Int) → raw < 4 * ((sensorOf s .bank i).thrPt : Int) →
      raw < 4 * ((sensorOf s .bank i).shdPt : Int) →
      Completes (.sensorSample [⟨.bank, i, raw⟩]) s (fun t =>
        (sensorOf t .bank i).value = raw ∧ (sensorOf t .bank i).adv = false ∧ (sensorOf t .bank i).failed = false ∧
        t.thermal = s.thermal ∧ (∀ j, j ≠ i → sensorOf t .bank j = sensorOf s .bank j))) ∧
    (∀ (col : Nat) (v : Word), fwRunning s = true → col < 384 → 200 ≤ v.toNat % 1024 → v.toNat % 1024 ≤ 900 →
      limitSum s - colLimit s col + v.toNat % 1024 ≤ 216400 →
      Completes (.colbgtWrite col v) s (fun t => colLimit t col = v.toNat % 1024 ∧
        ∀ c, c ≠ col → colLimit t c = colLimit s c)) ∧
    (∀ (col : Nat) (v : Word), fwRunning s = true → col < 384 → v.toNat % 1024 < 200 ∨ 900 < v.toNat % 1024 →
      Completes (.colbgtWrite col v) s (fun t => (colbgt t col).testBit 31 = true ∧ colLimit t col = colLimit s col)) ∧
    (∀ (c : SensorClass) (i : Nat) (v : Word), fwRunning s = true → i < clsCount c →
      field v.toNat 7 0 < field v.toNat 15 8 → field v.toNat 15 8 < field v.toNat 23 16 → field v.toNat 23 16 ≤ 125 →
      Completes (.ttripWrite c i v) s (fun t => (sensorOf t c i).shdPt = field v.toNat 23 16 ∧
        (sensorOf t c i).thrPt = field v.toNat 15 8 ∧ (sensorOf t c i).advPt = field v.toNat 7 0 ∧
        (sensorOf t c i).value = (sensorOf s c i).value)) ∧
    (∀ (c : SensorClass) (i : Nat) (v : Word), fwRunning s = true → i < clsCount c →
      ¬ (field v.toNat 7 0 < field v.toNat 15 8 ∧ field v.toNat 15 8 < field v.toNat 23 16 ∧ field v.toNat 23 16 ≤ 125) →
      Completes (.ttripWrite c i v) s (fun t => (sensorOf t c i) = { sensorOf s c i with badwr := true })) ∧
    (∀ n b, nget (stackUnit s n).refPtr b < 2047 → Completes (.refreshCommand n b) s (fun t =>
      nget (stackUnit t n).refPtr b = nget (stackUnit s n).refPtr b + 1 ∧
      ((∀ i, i < 8 → (mget s.dead (bankRow n b (8 * nget (stackUnit s n).refPtr b + i))).isSome) →
        (stackUnit t n).refreshed = (stackUnit s n).refreshed) ∧
      ((mget s.dead (bankRow n b (8 * nget (stackUnit s n).refPtr b))).isNone →
        (stackUnit t n).refreshed = (stackUnit s n).refreshed + 1))) ∧
    (∀ n, n < 8 → Completes (.reflossWindow n) s (fun t => (stackUnit t n).refreshed = 0 ∧
      mreg t (aStack n 4) = min 65535 ((stackUnit s n).refreshed * 120 * 2 ^ 16 / (4096 * 1000000)) ∧
      mreg t (aStack n 8) = banksAt s n 2 * 65536 + banksAt s n 1)) ∧
    (∀ (pa : Addr), inHbm (pa.toNat / 64 * 64) = true → rowDead s (pa.toNat / 64 * 64) = false →
      stackState s (stackOf (pa.toNat / 64 * 64)) = 0 →
      exec (.scrubLine pa .clean) s = .next s ∧
      Completes (.scrubLine pa .corrected) s (fun t => SameMemory s t ∧
        t = blackBox s 0x03 2 (stackOf (pa.toNat / 64 * 64)) (pa.toNat / 64 * 64)) ∧
      Completes (.scrubLine pa .uncorrectable) s (fun t => t.mem = s.mem ∧
        ∀ w, w < 16 → (mget t.poison (pa.toNat / 64 * 16 + w)).isSome = true)) ∧
    (∀ n, n < 8 → stackState s n = 1 → Completes (.drainWindowEnd n) s (fun t => stackState t n = 2))

/-- The Sheepdogs (07 R187-R206): the end of an activity window takes VALUE from CHARGE and puts a written VALUE into force; the
end of an allotment period turns what the column's blocks used into their demands and starts new counts; an advised core that can
move no block is capped; a deferred migration whose conditions have cleared stops its block; one that has waited for its limit
drains; one whose groups have stopped and that is clear crosses, and one that is not holds; a migration that has crossed ends at its
target. A core whose window ends owes no cycles here.
The cycle counts of a period are the model's reading (log 48), and so is the cap of a core whose block may not move
(log 49). -/
def Obligations.SheepdogEvents : Prop :=
  ∀ s : State,
    (∀ core, (coreOf s core).owed = 0 → Completes (.activityWindowEnd core) s (fun t =>
      (coreOf t core).charge = (coreOf s core).charge - min (coreOf s core).charge (budgetValue s core) ∧
      (coreOf t core).value = (coreOf s core).pendValue.getD (coreOf s core).value ∧ (coreOf t core).pendValue = none ∧
      t.groups = s.groups ∧ SameMemory s t)) ∧
    (∀ col, (sdcfg s (colTower col)).testBit 2 = false → Completes (.allotmentPeriodEnd col) s (fun t =>
      t.groups = s.groups ∧ t.migs = s.migs ∧ SameMemory s t ∧
      t = allotColumn (foldUpto (fun s k => updCore s (4 * col + k) (fun c => { c with period := c.cycles }))
        { s with blocks := s.blocks.map (fun (b : Nat × Block) =>
          match b.2.core with
          | some c =>
            if coreCol c = col then
              (b.1, { b.2 with
                demand := if b.2.full then demandOf b.2 ((coreOf s c).cycles - (coreOf s c).period) else 96
                units := 0, refWins := 0, refNow := false, full := true })
            else b
          | none => b) } 4) col)) ∧
    (∀ core, (sdcfg s (colTower (coreCol core))).testBit 0 = true → (sdcfg s (colTower (coreCol core))).testBit 1 = true →
      (sensorOf s .core (2 * core)).adv = true → resident s core = [] → Completes (.adviseMove core) s (fun t =>
        (coreOf t core).advCap = true ∧ t.migs = s.migs ∧ t.blocks = s.blocks)) ∧
    (∀ col m, mget s.migs col = some m → m.state = .defer → migConditions s m.block m.source = false →
      Completes (.migrationStop col) s (fun t => mget t.migs col = some { m with state := .stop })) ∧
    (∀ col m, mget s.migs col = some m → m.state = .defer ∨ m.state = .hold → migConditions s m.block m.source = true →
      Completes (.migrationDrain col) s (fun t => mget t.migs col = some { m with state := .drain } ∧ t.groups = s.groups)) ∧
    (∀ col m b, mget s.migs col = some m → blockOf s m.block = some b → m.state = .stop → migStopped s m = true →
      s.strikes = [] → migClear s m = true → Completes (.migrationXfer col) s (fun t => .migrationResume col ∈ t.agenda)) ∧
    (∀ col m b, mget s.migs col = some m → blockOf s m.block = some b → m.state = .stop → migStopped s m = true →
      s.strikes = [] → migClear s m = false → Completes (.migrationXfer col) s (fun t =>
        mget t.migs col = some { m with state := .hold, deferred := true, since := (dtcAfter s (Config.elapsed s.freeCount)).toNat } ∧
        t.groups = s.groups)) ∧
    (∀ col m b, mget s.migs col = some m → m.state = .xfer → blockOf s m.block = some b →
      Completes (.migrationResume col) s (fun t =>
        ∃ b', blockOf t m.block = some b' ∧ b'.core = some m.target ∧ b'.slots = m.slots)) ∧
    (∀ tower layer id b l, s.evac.contains (4 * tower + layer) = true →
      s.blocks.filter (fun (b : Nat × Block) =>
        b.2.core.elim false (fun c => colTower (coreCol c) == tower && coreLayer c == layer)) = [(id, b)] →
      blockOf s id = some b → launchOf s b.launch = some l → l.handler = false → l.ended = none →
      Completes (.evacuationLimit tower layer) s (fun t => ∃ l', launchOf t b.launch = some l' ∧ l'.ended = some 6))


/-- Soft errors (01 R29): an error that nothing has read waits; when a step reads it, a corrected one is logged and does nothing
else, one in a group's registers or a block's buffers ends the launch with status 2, one in L2 poisons the line, so that a load of
it returns no value, and one on the Mule bus ends the launch of the block in transfer with status 5.
That errors come from outside and which step meets each is the model's reading (log 89). -/
def Obligations.SoftErrors : Prop :=
  ∀ s : State,
    let ended (t : State) (slot status : Nat) : Prop := ∃ l', launchOf t slot = some l' ∧ l'.ended = some status
    let runs (slot : Nat) : Prop := ∃ l, launchOf s slot = some l ∧ l.handler = false ∧ l.ended = none
    let granting (core : Nat) : Prop := s.halted = false ∧ s.thermal = false ∧ (coreOf s core).issuing = none
    (∀ core p, granting core → s.strikes = [⟨p, false⟩] → Store.onCore s core p = true →
      (∀ k g, p = .registers k → groupOf s k = some g → runs (groupLaunch s g) →
        Completes (.issueGrant core) s (fun t => t.strikes = [] ∧ ended t (groupLaunch s g) 2)) ∧
      (∀ id b, p = .buffer id → blockOf s id = some b → runs b.launch →
        Completes (.issueGrant core) s (fun t => t.strikes = [] ∧ ended t b.launch 2))) ∧
    (∀ core p, granting core → s.strikes = [⟨p, true⟩] → Store.onCore s core p = true → contenders s core = [] → bbFull s (mreg s 0x60004) = false →
      Completes (.issueGrant core) s (fun t => t.strikes = [] ∧ SameMemory s t ∧
        ∃ r, mget t.bbox (mreg s 0x60004 % 4096) = some r ∧ r.code = 3)) ∧
    (∀ core p c, granting core → s.strikes = [⟨p, c⟩] → Store.onCore s core p = false → contenders s core = [] →
      Completes (.issueGrant core) s (fun t => t.strikes = s.strikes)) ∧
    (∀ r h rest k, s.reqs = r :: rest → AtHome { s with strikes := [] } r h → drainFirst r h = none → r.kind = .load → r.mask ≠ 0 →
      s.strikes = [⟨.l2 r.line, false⟩] → r.dest = .lane k 0 4 false → Completes .homeRequest s (fun t =>
        (∃ h', mget t.home r.line = some h' ∧ h'.poison = BitVec.allOnes 16) ∧
        ∃ x ∈ t.rets, x.id = r.id ∧ x.dest = r.dest ∧ x.value = none)) ∧
    (∀ col m b, mget s.migs col = some m → blockOf s m.block = some b → s.strikes = [⟨.mule col, false⟩] → runs b.launch →
      Completes (.migrationXfer col) s (fun t => ended t b.launch 5))

/-- What the host does to memory and extents (02 R35-R40): a snoop of a line that is not the host's is answered with nothing;
SNP_INV gathers the dirty bytes, leaves no column copy and answers with them; SNP_DATA is answered, and with no column copy and no
push of the line on its way it answers with home's dirty bytes and leaves the line shared with the host; SNP_CUR answers with the line's
current bytes and changes nothing else; BI_RSP ends the line's outstanding snoop; an access of the host to device memory in a window of
the HDM decoder is answered; what a LOST host asks is discarded, and a QUARANTINED one is refused (R47); an extent becomes VALID with its base and length, and its release, forced or not, is
acknowledged.
FORCED after a release that is not forced is the model's reading (log 84). -/
def Obligations.HostAccessesAndExtents : Prop :=
  ∀ s : State,
    (∀ (ia : Addr) (d : Option Line), agentState s 384 = 0 → hostLeaf s ia.toNat = none →
      exec (.snpInv ia d) s = .next { s with out := s.out ++ [.snoop ia.toNat none] } ∧
      exec (.snpData ia) s = .next { s with out := s.out ++ [.snoop ia.toNat none] } ∧
      exec (.snpCur ia) s = .next { s with out := s.out ++ [.snoop ia.toNat none] }) ∧
    (∀ (ia : Addr) (d : Option Line) leaf, agentState s 384 = 0 → hostLeaf s ia.toNat = some leaf →
      Completes (.snpInv ia d) s (fun t => (∀ e ∈ t.l1, e.1 % 2 ^ 46 ≠ ia.toNat / 64) ∧
        t.out = s.out ++ [.snoop ia.toNat (if (pullAll s leaf (ia.toNat / 64)).dirty
          then some (pullAll s leaf (ia.toNat / 64)).data else none)]) ∧
      Completes (.snpData ia) s (fun t => ∃ x, .snoop ia.toNat x ∈ t.out) ∧
      (holders s (ia.toNat / 64) = [] → (∀ r ∈ s.reqs ++ s.held.map (·.1), r.isPush = true → r.line ≠ ia.toNat / 64) →
        Completes (.snpData ia) s (fun t =>
          t.out = s.out ++ [.snoop ia.toNat (if (homeGet s leaf (ia.toNat / 64)).dirty
            then some (homeGet s leaf (ia.toNat / 64)).data else none)] ∧ t.l1 = s.l1 ∧
          ∀ h, mget s.home (ia.toNat / 64) = some h →
            ∃ h', mget t.home (ia.toNat / 64) = some h' ∧ h'.hst = 1 ∧ h'.dirty = false ∧ h'.data = (loadHome s h).data)) ∧
      exec (.snpCur ia) s =
        .next { s with out := s.out ++ [.snoop ia.toNat (some (pullAll s leaf (ia.toNat / 64)).data)] }) ∧
    (∀ (ia : Addr) l inv rest, agentState s 384 = 0 →
      takeFirst (fun (b : Nat × Bool) => b.1 == ia.toNat / 64) s.bi = some ((l, inv), rest) → Completes (.biRsp ia) s (fun t =>
      t.bi = rest ∧ ∀ h, mget s.home (ia.toNat / 64) = some h →
        mget t.home (ia.toNat / 64) = some { h with hostBit := !inv && h.hostBit, hostShared := !inv })) ∧
    (∀ (ia : Addr) leaf, agentState s 384 = 0 → leafOf s (ia.toNat / 64 * 64) = some leaf →
      inHdm s (leaf.pa52 (ia.toNat / 64 * 64)) = true →
      cxlMode s = true → refuses s (leaf.pa52 (ia.toNat / 64 * 64)) = none → lineBusy s leaf (ia.toNat / 64) = false →
      Completes (.hostHdmAccess ia .read) s (fun t => ∃ d, .hdm (ia.toNat / 64 * 64) d ∈ t.out) ∧
      ((∀ h, mget s.home (homeKey leaf (ia.toNat / 64) leaf.ht) = some h → h.lazy = none) →
        ∀ m d, Completes (.hostHdmAccess ia (.write m d)) s (fun t => .hdmDone (ia.toNat / 64 * 64) ∈ t.out))) ∧
    (∀ (ia : Addr) (d : Option Line) op i, i = .snpInv ia d ∨ i = .snpData ia ∨ i = .snpCur ia ∨ i = .biRsp ia ∨ i = .hostHdmAccess ia op →
      (agentState s 384 = 1 → exec i s = .next s) ∧
      (agentState s 384 = 2 → exec i s = .next { s with out := s.out ++ [.joinRefused 384] })) ∧
    (∀ i (base len : Word64), cxlMode s = true → i < 64 → (mreg s (aDcxst i)).testBit 31 = false →
      Completes (.extentGrant i base len) s (fun t =>
        (mreg t (aDcxst i)).testBit 31 = true ∧ mreg t (0x52000 + 16 * i) = base.toNat ∧
        mreg t (0x52008 + 16 * i) = len.toNat)) ∧
    (∀ i, i < 64 → (mreg s (aDcxst i)).testBit 31 = true → (mreg s (aDcxst i)).testBit 30 = false →
      Completes (.extentRelease i) s (fun t => .extentReleaseAck i ∈ t.agenda)) ∧
    (∀ i, i < 64 → (mreg s (aDcxst i)).testBit 30 = true → Completes (.extentReleaseAck i) s (fun t =>
      .extentAck i ∈ t.out)) ∧
    (∀ i, i < 64 → (mreg s (aDcxst i)).testBit 30 = true → extentDirty s i ≠ 0 →
      Completes (.extentReleaseForced i) s (fun t => .extentAck i ∈ t.out ∧ mreg t (aDcxst i) = 2 ^ 29))

/-- Agents and links (02 R41-R52): a lost agent becomes LOST, a lost column with none of its copies left; a join without invalidated
caches is refused, with them it is QUARANTINED until every directory, those of peer packages included, has swept, and then ACTIVE; a flit with a bad CRC is answered
by a replay request and does nothing else, and one in order from an agent that is neither lost nor quarantined acts; a replay sends
again what it names of the last 128 flits; a retrained link is up and takes the flits that waited; with no link up the requests to a package end; an
interface retrains on a change of rate or a trigger, when no save streams to it, and then moves data again.
That a sweep is one step is the model's reading (log 68). -/
def Obligations.AgentsLinksAndRetraining : Prop :=
  ∀ s : State,
    (∀ a, a < 641 → a ≠ 384 ∨ cxlMode s = true → agentState s a ≠ 1 → Completes (.agentLost a) s (fun t =>
      agentState t a = 1 ∧ (a < 384 → ∀ e ∈ t.l1, e.1 / 2 ^ 46 ≠ a) ∧ (a = 384 → t.bi = []))) ∧
    (∀ a, a < 641 → agentState s a = 1 →
      exec (.joinRequest a false) s = .next { s with out := s.out ++ [.joinRefused a] } ∧
      Completes (.joinRequest a true) s (fun t =>
        a ∈ t.joining ∧ agentState t a = 2 ∧ SameMemory s t ∧
        ((∀ p ∈ s.peers, p < 256) → sweepsDone s a = true → .joinComplete a ∈ t.agenda))) ∧
    (∀ a, a < 641 → agentState s a = 2 → sweepsDone s a = false → exec (.joinComplete a) s = .next s) ∧
    (∀ a, a < 641 → agentState s a = 2 → sweepsDone s a = true → Completes (.joinComplete a) s (fun t =>
      t.joining = s.joining.filter (· != a) ∧ agentState t a = 0 ∧ SameMemory s t)) ∧
    (∀ l (f : Flit), l < 12 → (linkOf s l).failed = false → f.crcOk = false →
      exec (.flitReceive l f) s = .next { s with out := s.out ++ [.replay l f.seq.toNat] }) ∧
    (∀ l (f : Flit) (w : Word) b, l < 12 → (linkOf s l).failed = false → f.crcOk = true → f.cls = 4 →
      f.seq = BitVec.ofNat 16 (linkOf s l).expect → agentState s (385 + f.src.toNat) = 0 →
      s.seen.contains (f.src.toNat, f.stream.toNat, f.tag.toNat) = false → f.body = .remoteCompletionAck w b →
      Completes (.flitReceive l f) s (fun t => .remoteCompletionAck w b ∈ t.agenda ∧
        (linkOf t l).expect = ((linkOf s l).expect + 1) % 65536 ∧
        (f.src.toNat, f.stream.toNat, f.tag.toNat) ∈ t.seen)) ∧
    (∀ l (q : BitVec 16), l < 12 → (linkOf s l).failed = false →
      let again (f : Flit) : Bool := (f.seq - q).toNat < 128 && (BitVec.ofNat 16 (linkOf s l).out - f.seq).toNat ≤ 128
      (∀ e ∈ (linkOf s l).sent, again e.1 = true → e.2 < 15) → (∀ e ∈ (linkOf s l).sent, e.2 < 16) →
      Completes (.replayRequest l q) s (fun t => t.flits = s.flits ++
        ((linkOf s l).sent.filter (fun e => again e.1)).map (fun e => (l, e.1)))) ∧
    (∀ l, l < 12 → (linkOf s l).failed = true → Completes (.linkRetrain l) s (fun t =>
      (linkOf t l).failed = false ∧ ∀ x ∈ t.flits, x.1 ≠ 12)) ∧
    (∀ p : Byte, liveLinks s = [] → Completes (.peerUnreachableTimeout p) s (fun t => ∀ x ∈ t.peerOut, x.1 ≠ p.toNat)) ∧
    (∀ n, Completes (.dataRateChangeRequest n) s (fun t => (stackUnit t n).rateReq = true ∧ SameMemory s t) ∧
      Completes (.retrainTrigger n) s (fun t => (stackUnit t n).trigger = true ∧ SameMemory s t)) ∧
    (∀ n, (stackUnit s n).retraining = false → (stackUnit s n).trigger = true ∨
        ((stackUnit s n).rateReq = true ∧ savesTo s n = false) →
      Completes (.interfaceRetrainStart n) s (fun t => .retrainDone n ∈ t.agenda ∧ (stackUnit t n).retraining = true)) ∧
    (∀ n, (stackUnit s n).retraining = true → Completes (.retrainDone n) s (fun t => (stackUnit t n).retraining = false))

/-- Command queues (03 R60-R79): a write of CQTAIL advances it or sets BADWR; a write of CQCFG is taken while the queue is off;
CQPOKE decrements an accepted command once; an accepted command enters the journal and CQACC advances; a launch takes the lowest
free slot, and its blocks are to be dealt; a bulk copy, a signal and a wait start, a copy moves line after line, a signal finishes;
a wait ends when its condition holds or its time is over; a release that waited is made when there is room; a finished command
retires from the journal, CQDONE advances, and its vector is sent.
That an invalid command finishes when it is accepted is the model's reading (log 78). -/
def Obligations.CommandQueues : Prop :=
  ∀ (s : State) (q : Nat), q < 64 →
    (∀ v : Word, fwRunning s = true → (List.range 256).any (fun i => ttEn s i && ttQueue s i == q) = false →
      seqSub v.toNat (cqAcc s q) ≤ cqSize s q → seqSub (cqTail s q) (cqAcc s q) ≤ seqSub v.toNat (cqAcc s q) →
      Completes (.cqtailWrite q v) s (fun t =>
        cqTail t q = v.toNat ∧ ∀ a, a ≠ aCq q 0x1C → mreg t a = mreg s a)) ∧
    (∀ v : Word, fwRunning s = true → cqSize s q < seqSub v.toNat (cqAcc s q) → Completes (.cqtailWrite q v) s (fun t =>
      cqTail t q = cqTail s q ∧ (mreg t (aCq q 0x28)).testBit 31 = true)) ∧
    (∀ v : Word, fwRunning s = true → cqEn s q = false → v.toNat.testBit 31 = false →
      Completes (.cqcfgWrite q v) s (fun t =>
        cqcfg t q = v.toNat &&& 0xC03F071F ∧ ∀ a, a ≠ aCq q 0x18 → mreg t a = mreg s a)) ∧
    (∀ (v : Word) c, fwRunning s = true → v.toNat < 2 ^ 26 → cmdOf s (cmdKey q (refSeq s q v.toNat)) = some c →
      accepted s (cmdKey q (refSeq s q v.toNat)) = true → c.remaining ≠ 0 → Completes (.cqpoke q v) s (fun t =>
        cmdOf t (cmdKey q (refSeq s q v.toNat)) = some { c with remaining := c.remaining - 1 } ∧ t.mgmt = s.mgmt)) ∧
    (∀ v : Word, fwRunning s = true → 2 ^ 26 ≤ v.toNat → Completes (.cqpoke q v) s (fun t =>
      (mreg t (aCq q 0x28)).testBit 31 = true ∧ t.cmds = s.cmds)) ∧
    (canAccept s q = true → cmdInvalid (physLine s (cqBase s q + 64 * (cqAcc s q % cqSize s q))) = false →
      (∀ e ∈ s.pendDec, e.2 ≠ cmdKey q (cqAcc s q)) → Completes (.commandAccept q) s (fun t =>
        (∃ c, cmdOf t (cmdKey q (cqAcc s q)) = some c ∧ c.state = .accepted ∧
          c.words = physLine s (cqBase s q + 64 * (cqAcc s q % cqSize s q)) ∧ c.remaining = c.fld 2 2) ∧
        cqAcc t q = (cqAcc s q + 1) % 2 ^ 32)) ∧
    (∀ k c slot s1 st, startableOf s q 1 = some (k, c) → freeLaunchSlot s = some slot →
      startFirst s (c.fld 32 8) = none → readStart (startCmd s k) (c.fld 32 8) false = (s1, .inr st) → Completes (.launchCommand q) s (fun t =>
        .batchDeal slot ∈ t.agenda ∧ ∃ l, launchOf t slot = some l ∧ l.recAddr = c.fld 32 8 ∧ l.kernels = st.kernels ∧
          l.blocks = st.blocks ∧ l.ranges = some st.ranges ∧ l.ended = none)) ∧
    (∀ k c, startableOf s q 2 = some (k, c) → s.copy = none → s.copyQueue = [] → Completes (.bulkCopy q) s (fun t =>
      (∃ c', cmdOf t k = some c' ∧ c'.state = .started) ∧
      t.copy = some ⟨k, c.fld 32 8, c.fld 40 8, c.fld 48 8 / 64, 0, false⟩)) ∧
    (∀ c ls ld, s.copy = some c → copyReady s = true → copyFirst s c = none →
      sysXlate s (c.src + 64 * c.finished) false = .inr ls → sysXlate s (c.dst + 64 * c.finished) true = .inr ld →
      c.finished + 1 < c.lines → Completes .bulkCopyLineDone s (fun t =>
        ∃ b, t.copy = some { c with finished := c.finished + 1, bad := b })) ∧
    (∀ k c, startableOf s q 3 = some (k, c) → c.fld 32 8 = 0 → Completes (.signal q) s (fun t =>
      ∃ c', cmdOf t k = some c' ∧ c'.state = .finished)) ∧
    (∀ k c, startableOf s q 4 = some (k, c) → Completes (.wait q) s (fun t =>
      ∃ c', cmdOf t k = some c' ∧ c'.state = .started ∧ c'.words = c.words)) ∧
    (∀ (seq : Word) c s1, isWait s (cmdKey q seq.toNat) = some c → sysHeld s .acquire (c.fld 32 8) 8 = false →
      sysFirst s .acquire (c.fld 32 8) 8 = none → poll s c = (s1, some 0) → s1.cmds = s.cmds → Completes (.waitPollReturn q seq) s (fun t =>
        ∃ c', cmdOf t (cmdKey q seq.toNat) = some c' ∧ c'.state = .finished)) ∧
    (∀ (seq : Word) c, isWait s (cmdKey q seq.toNat) = some c → c.fld 60 4 ≠ 0 → c.succs = [] →
      Completes (.waitTimeout q seq) s (fun t =>
        ∃ c', cmdOf t (cmdKey q seq.toNat) = some c' ∧ c'.state = .finished ∧ c'.status = 8)) ∧
    (∀ e rest, takeFirst (fun e => relQueue e == q && canRetry s e) s.relWait = some (e, rest) →
      Completes (.successorReleaseRetry q) s (fun t => t.relWait = rest)) ∧
    (∀ k c, canRetire s q = some (k, c) → c.staddr = 0 → Completes (.commandRetire q) s (fun t =>
      cmdOf t k = none ∧ cqDone t q = (cqDone s q + 1) % 2 ^ 32 ∧
      (c.irq = true → ∃ m, t.msix = m ++ [cqVec s q])))

/-- Walks and parked faults (04 R112, R113, R123-R128): a walk that must move goes on at the next stack's walk unit; a leaf
that arrives is cached and given to the group that asked, which is READY again; a request that waited takes a free entry of its
tower's park table, and its fault is recorded; a record goes to the ring and PROD advances, or FULL is set; FQCFG takes a legal value
and sets BADWR otherwise; FREL frees the entry, its accesses start again with REPLAY and fail with FAIL, and names of no live entry
set BADWR.
When an entry leaves a leaf cache is the model's choice (log 64). -/
def Obligations.WalksAndFaults : Prop :=
  ∀ s : State,
    (∀ w rest, takeFirst (fun w => w.out.isNone) s.walks = some (w, rest) → Completes .walkHandoff s (fun t =>
      t.walks = rest ++ [walkOn s w 4] ∧ t.groups = s.groups ∧ t.mgmt = s.mgmt ∧ SameMemory s t)) ∧
    (∀ w rest l l' k g, takeFirst (fun w => w.out.isSome) s.walks = some (w, rest) → w.out = some (.leaf l) →
      w.req.who = .group k → groupOf s k = some g → g.status = .broken (.walk w.req.ia) → w.marked = false →
      l.res = false → l.mig = false → pageCheck s w.req (.leaf l) = .ok l' →
      (s.leaves.filter (fun (e : Nat × Leaf) => e.1 / 2 ^ 37 == w.req.tower)).length < 8192 →
      Completes .walkComplete s (fun t => t.walks = rest ∧ mget t.leaves (leafKey w.req.tower w.req.ia l.level) = some l ∧
        ∃ g', groupOf t k = some g' ∧ g'.status = .ready ∧ g'.walked = some ⟨w.req.ia / 2 ^ 16, .leaf l, false, w.req.fetch⟩ ∧
          g'.lanes = g.lanes ∧ g'.sregs = g.sregs ∧ g'.vregs = g.vregs)) ∧
    (∀ tower i r sub l rest,
      takeFirst (fun (p : XReq × Nat × Leaf) => p.1.tower == tower) s.parkWait = some ((r, sub, l), rest) → r.tower = tower →
      freePark s tower = some i → fqEnabled s tower = true → repeatCount s r.who sub l < 3 →
      s.parks.find? (fun (p : Nat × Park) => p.1 / 1024 == r.tower && p.2.page == r.ia / 2 ^ 16 && p.2.sub == sub) = none →
      Completes (.parkTableEntryFree tower) s (fun t => t.parkWait = rest ∧
        mget t.parks (tower * 1024 + i) = some ⟨r.ia / 2 ^ 16, sub, [r]⟩ ∧
        ∃ f, t.frecs = s.frecs ++ [f] ∧ f.tower = tower ∧ f.park = some i)) ∧
    (∀ tower r rest, tower < 2 → takeFirst (fun (r : FRec) => r.tower == tower) s.frecs = some (r, rest) →
      ((fqcfg s tower).testBit 31 = false → exec (.faultRecordPost tower) s = .next s) ∧
      ((fqcfg s tower).testBit 31 = true →
        seqSub (mreg s (aFault tower 0x14)) (mreg s (aFault tower 0x18)) < 2 ^ field (fqcfg s tower) 4 0 → Completes (.faultRecordPost tower) s (fun t =>
          t.frecs = rest ∧ mreg t (aFault tower 0x14) = (mreg s (aFault tower 0x14) + 1) % 2 ^ 32)) ∧
      ((fqcfg s tower).testBit 31 = true →
        2 ^ field (fqcfg s tower) 4 0 ≤ seqSub (mreg s (aFault tower 0x14)) (mreg s (aFault tower 0x18)) →
        exec (.faultRecordPost tower) s = .next (setBits s (aFault tower 0x1C) (2 ^ 30)))) ∧
    (∀ (tower : Nat) (v : Word), tower < 2 → fwRunning s = true → v.toNat.testBit 31 = false →
      (fqcfg s tower).testBit 31 = false → 6 ≤ field v.toNat 4 0 → field v.toNat 4 0 ≤ 14 → 0 < field v.toNat 15 8 →
      field v.toNat 15 8 ≤ 64 →
      Completes (.fqcfgWrite tower v) s (fun t => fqcfg t tower = v.toNat &&& 0x8000FF1F ∧ SameMemory s t)) ∧
    (∀ (tower : Nat) (v : Word), tower < 2 → fwRunning s = true → field v.toNat 4 0 < 6 →
      Completes (.fqcfgWrite tower v) s (fun t => fqcfg t tower = fqcfg s tower ∧
        (mreg t (aFault tower 0x1C)).testBit 31 = true)) ∧
    (∀ (tower : Nat) (p : BitVec 10), fwRunning s = true → mget s.parks (tower * 1024 + p.toNat) = none →
      (∀ i, i = .frelReplay tower p ∨ i = .frelFail tower p → Completes i s (fun t =>
        (mreg t (aFault tower 0x1C)).testBit 31 = true ∧ t.groups = s.groups))) ∧
    (∀ (tower : Nat) (p : BitVec 10) x, fwRunning s = true → mget s.parks (tower * 1024 + p.toNat) = some x →
      Completes (.frelReplay tower p) s (fun t =>
        t.parks = mdel s.parks (tower * 1024 + p.toNat) ∧ .parkTableEntryFree tower ∈ t.agenda)) ∧
    (∀ (tower : Nat) (p : BitVec 10) x r k g (f : Bool), fwRunning s = true →
      mget s.parks (tower * 1024 + p.toNat) = some x → x.members = [r] → r.who = .group k → r.fetch = false →
      groupOf s k = some g → g.status = .broken (.parked (tower * 1024 + p.toNat)) →
      Completes (if f then .frelFail tower p else .frelReplay tower p) s (fun t =>
        ∃ g', groupOf t k = some g' ∧ g'.status = .ready ∧ g'.parkFail = f ∧ g'.walked = none ∧ g'.lanes = g.lanes))

/-- Dead regions and bank-side commands (05 R139-R149): marking a region dead makes its 64 rows dead and discards what they hold;
marking it live makes them live without a write; a second DRCMD while one is under way sets the error bit; DRCMD_DONE clears BUSY; a
command whose line is free joins its bank's queue; an element-wise command writes its line as R140 computes it and touches no other
byte; a compare-exchange that fails writes nothing, and one that returns a value returns the old word. -/
def Obligations.DeadRegionsAndBankCommands : Prop :=
  ∀ s : State,
    (∀ (n : Nat) (r : BitVec 20), fwRunning s = true → (stackUnit s n).busy = false →
      Completes (.drcmdMarkDead n r) s (fun t =>
        (∀ i, i < 64 → mget t.dead (n * 2 ^ 26 + r.toNat * 64 + i) = some 1) ∧ (stackUnit t n).busy = true ∧
        .drcmdDone n ∈ t.agenda ∧
        ∀ a, readByte t a = if (n * 2 ^ 20 + r.toNat) * 2 ^ 16 ≤ a ∧ a < (n * 2 ^ 20 + r.toNat + 1) * 2 ^ 16 then 0
          else readByte s a) ∧
      Completes (.drcmdMarkLive n r) s (fun t =>
        (∀ i, i < 64 → mget t.dead (n * 2 ^ 26 + r.toNat * 64 + i) = none) ∧
        (stackUnit t n).busy = true ∧ .drcmdDone n ∈ t.agenda ∧ t.mem = s.mem)) ∧
    (∀ (n : Nat) (r : BitVec 20), n < 8 → fwRunning s = true → (stackUnit s n).busy = true →
      ∀ i, i = .drcmdMarkDead n r ∨ i = .drcmdMarkLive n r → Completes i s (fun t =>
        (mreg t (aStack n 0x10)).testBit 31 = true ∧ SameMemory s t)) ∧
    (∀ n, Completes (.drcmdDone n) s (fun t => (stackUnit t n).busy = false ∧ SameMemory s t)) ∧
    (∀ b rest, takeFirst (fun b => !b.queued && !cmdWaits s b) s.bankCmds = some (b, rest) → stackState s (stackOf b.pa) = 0 →
      Completes .bankCommandHome s (fun t => t.bankCmds = rest ++ [{ b with queued := true }] ∧
        .bankCommandExecute (stackOf b.pa) (bankOf b.pa % 4096) ∈ t.agenda)) ∧
    (∀ n bank b rest, retraining s n = false →
      takeFirst (fun b => b.queued && bankOf b.pa == 4096 * n + bank) s.bankCmds = some (b, rest) → isHbm b.pa = true →
      (dramRead s b.pa b.leaf.key).2 = 0 → rowDead s b.pa = false →
      (b.op ≠ .cas32 → b.op ≠ .cas64 → b.mask ≠ 0 → s.memOk → Completes (.bankCommandExecute n bank) s (fun t =>
        t.bankCmds = rest ∧
        (∀ i, i < 64 → readByte t (b.pa + i) = byteOf (nmoLine b (dramRead s b.pa b.leaf.key).1).1 i) ∧
        ∀ a, a < b.pa ∨ b.pa + 64 ≤ a → readByte t a = readByte s a)) ∧
      (b.op = .cas32 ∨ b.op = .cas64 → (nmoLine b (dramRead s b.pa b.leaf.key).1).1 = (dramRead s b.pa b.leaf.key).1 →
        Completes (.bankCommandExecute n bank) s (fun t => t.bankCmds = rest ∧ t.mem = s.mem)) ∧
      (b.dest ≠ .none → Completes (.bankCommandExecute n bank) s (fun t => .loadReturn ∈ t.agenda ∧
        ∃ l r, t.rets = l ++ [r] ∧ r.id = b.id ∧ r.dest = b.dest ∧
          r.value = some (nmoLine b (dramRead s b.pa b.leaf.key).1).2)))

/-- Distribution (06 R159-R178): the next 16 blocks of a launch are dealt to a tower, a batch reaches the engine with the fewest
pending blocks, an engine places the first block that fits on the core chosen for it, an entry passed over becomes blocking, a
gang's next member is reserved, an engine with more pending blocks pushes to its neighbour, and a pushed entry arrives; a count that
has risen raises its parent's, a launch whose package count has fallen to zero finishes, and a move's decrement follows.
Ties that R180 leaves are the model's reading (log 79). -/
def Obligations.DistributionEvents : Prop :=
  ∀ s : State,
    (∀ slot l, launchOf s slot = some l → l.ended = none → l.handler = false → l.dealt < l.blocks →
      Completes (.batchDeal slot) s (fun t =>
        (∃ l', launchOf t slot = some l' ∧ l'.dealt = l.dealt + min 16 (l.blocks - l.dealt) ∧ l'.blocks = l.blocks) ∧
        ∃ tw, .batchHandoff tw ∈ t.agenda ∧ ∃ e, (tw, e) ∈ t.dealtTo ∧ e.launch = slot)) ∧
    (∀ tower e rest k, handoffNext s tower = some (e, rest, k) → Completes (.batchHandoff tower) s (fun t => t.dealtTo = rest ∧
      ∀ x ∈ handoffKinds s e, ∃ q ∈ (engineOf t k).entries, q.launch = e.launch ∧ q.kind = x ∧ q.prio = e.prio)) ∧
    (∀ tower cluster e rest l kn f n core, (∀ b ∈ s.blocks, b.2.state ≠ .saved) → (engineOf s (12 * tower + cluster)).placing = none →
      (engineOf s (12 * tower + cluster)).claim = none →
      engineOrder (engineOf s (12 * tower + cluster)).entries = e :: rest → e.kind = .batch f n → entHeld s e = false →
      needsClaim s e = none → launchOf s e.launch = some l → l.kernels.head? = some kn → kn.regions = [] →
      entCore s (12 * tower + cluster) e = some core → Completes (.blockPlace tower cluster) s (fun t =>
        .blockPlace tower cluster ∈ t.agenda ∧ ∃ b, blockOf t s.blockNo = some b ∧ b.core = some core ∧ b.state = .running ∧
          b.launch = e.launch ∧ b.index = f ∧ b.shape = kn.shape)) ∧
    (∀ tower cluster id q, (∀ q ∈ (engineOf s (12 * tower + cluster)).entries, q.blocking = false) →
      q ∈ (engineOf s (12 * tower + cluster)).entries → q.id = id → q.passed = true →
      Completes (.entryBlocking tower cluster id) s (fun t =>
        { q with blocking := true } ∈ (engineOf t (12 * tower + cluster)).entries ∧ .blockPlace tower cluster ∈ t.agenda)) ∧
    (∀ tower cluster p e i x cls core, (engineOf s (12 * tower + cluster)).placing = some p →
      (engineOf s (12 * tower + cluster)).entries.find? (fun q => q.id == p.ent) = some e → e.kind = .gang i →
      (gangShapes s e)[p.reserved.length]? = some (x, cls) →
      memberCore s p.col ((gangShapes s e).drop p.reserved.length) = some core →
      p.reserved.length + 1 < (gangShapes s e).length → Completes (.gangMemberReserve tower cluster) s (fun t =>
        (engineOf t (12 * tower + cluster)).placing = some { p with reserved := p.reserved ++ [s.blockNo] } ∧
        .gangMemberReserve tower cluster ∈ t.agenda ∧ ∃ b, blockOf t s.blockNo = some b ∧ b.state = .reserved ∧
          b.core = some core ∧ b.index = i ∧ b.member = p.reserved.length)) ∧
    (∀ tower cluster q f c, cluster < 12 → (engineOf s (12 * tower + cluster)).entries = [q] → q.kind = .batch f c →
      entBlocks s q = c → movable s (12 * tower + cluster) q = true → field (dscfg s tower) 7 0 ≠ 0 → field (dscfg s tower) 15 8 ≠ 0 →
      engineBlocks s (12 * tower + (cluster + 1) % 12) + field (dscfg s tower) 7 0 ≤ c →
      2 ≤ c - engineBlocks s (12 * tower + (cluster + 1) % 12) → Completes (.diffusionExchange tower cluster) s (fun t =>
        ∃ n q', 0 < n ∧ n ≤ field (dscfg s tower) 15 8 ∧ q'.kind = .batch (f + (c - n)) n ∧ q'.launch = q.launch ∧
          (12 * tower + cluster, 12 * tower + (cluster + 1) % 12, q') ∈ t.transit)) ∧
    (∀ a b q rest, arrivalNext s = some ((a, b, q), rest) → Completes .diffusionArrival s (fun t => t.transit = rest ∧
      ∃ e ∈ (engineOf t b).entries, e.launch = q.launch ∧ e.kind = q.kind ∧ e.prio = q.prio)) ∧
    (∀ k rest, s.treeMsgs = (k, true) :: rest → (launchOf s (k / 1024)).isSome = true → k % 1024 ≠ 0 →
      Completes .completionTreeUpdate s (fun t =>
        nget t.tree (k / 1024 * 1024 + nodeParent (k % 1024)) = nget s.tree (k / 1024 * 1024 + nodeParent (k % 1024)) + 1)) ∧
    (∀ k rest l, s.treeMsgs = (k, false) :: rest → k % 1024 = 0 → launchOf s (k / 1024) = some l → l.handler = false →
      l.ended = none → nget s.tree (k / 1024 * 1024) = 0 → Completes .completionTreeUpdate s (fun t =>
        (∃ l', launchOf t (k / 1024) = some l' ∧ l'.ended = some 0) ∧ .slotFree (k / 1024) ∈ t.agenda)) ∧
    (∀ m rest, takeFirst (fun (m : Nat × Nat) => !s.treeMsgs.any (fun x => x.2 && x.1 / 1024 == m.1 / 1024)) s.moves =
        some (m, rest) → Completes .itemMoveAck s (fun t => t.moves = rest ∧
      nget t.tree m.1 = nget s.tree m.1 - m.2))

/-- Saves and restores (06 R181-R184, 09 R253): a stopped block takes a save slot and enters SAVING, a complete save leaves it
SAVED and off its core, a save that misses its deadline lets it run again, a restored block whose check value holds runs on its new
core and one whose check value is wrong ends its launch with status 2, and a core short of rows stops the block placed last.
A save is held as data, with a free check value in its slot (log 13). -/
def Obligations.SavesAndRestores : Prop :=
  ∀ (s : State) (id : Nat) (b : Block), blockOf s id = some b →
    (∀ core sl, b.core = some core → saveReady s id = true → saveSlotFor s (coreCol core) = some sl →
      Completes (.saveStart id) s (fun t => .saveComplete id ∈ t.agenda ∧
        ∃ b', blockOf t id = some b' ∧ b'.state = .saving ∧ b'.saveSlot = some sl ∧ b'.core = some core)) ∧
    (∀ core sl, b.core = some core → b.saveSlot = some sl → saveDone s b = true →
      (∀ k p, (engineOf s k).placing = some p → id ∉ p.reserved) → Completes (.saveComplete id) s (fun t => ∃ b', blockOf t id = some b' ∧ b'.state = .saved ∧ b'.core = none ∧
        b'.saveSlot = some sl)) ∧
    (∀ core, b.core = some core → b.state = .stopping ∨ b.state = .saving → evacuated s core = false →
      (∀ k p, (engineOf s k).placing = some p → id ∉ p.reserved) → Completes (.saveDeadline id) s (fun t =>
        ∃ b', blockOf t id = some b' ∧ b'.state = .running ∧ b'.core = some core ∧ b'.saveSlot = none)) ∧
    (∀ core sl, b.core = some core → b.saveSlot = some sl → b.state = .restoring → retraining s (sl / 256) = false →
      stackState s (sl / 256) = 0 →
      (physRead s (saveAddr s sl) 8 = b.check.toNat → Completes (.restoreComplete id) s (fun t =>
        ∃ b', blockOf t id = some b' ∧ b'.core = some core ∧ b'.saved = [] ∧ b'.saveSlot = none ∧
          b'.state = if (launchOf s b.launch).elim false (·.paused) then .stopping else .running)) ∧
      (∀ l, physRead s (saveAddr s sl) 8 ≠ b.check.toNat → launchOf s b.launch = some l → l.handler = false → l.ended = none →
        Completes (.restoreComplete id) s (fun t => ∃ l', launchOf t b.launch = some l' ∧ l'.ended = some 2))) ∧
    (∀ core, (coreOf s core).issuing = none → (saveSlotFor s (coreCol core)).isSome = true →
      (∀ m ∈ s.migs, m.2.block ≠ id) → resident s core = [(id, b)] → b.state = .running → b.spill = false →
      (∃ k g n, (k, g) ∈ blockGroups s b id ∧ g.status = .broken (.rows n)) → Completes (.regspillSave core) s (fun t =>
        ∃ b', blockOf t id = some b' ∧ b'.state = .stopping ∧ b'.spill = true))

/-- Tasks and tiles (08 R226, R232-R239, 06 R179): the Goat frees a doomed task's entry and the task; an engine's claim gives
the word it met to TILE_CLAIM_RESULT, which lets the block be placed; a steal that finds a queued tile swaps for it, and one whose
swap succeeds enters the block; a stolen block releases, stores and is done with the acknowledgement of its remote completion; a
remote completion and a return take the block off the list of stolen ones; a finished launch with nothing left frees its slot.
Which bound launch an engine steals for is the model's choice (log 41). -/
def Obligations.TasksAndTiles : Prop :=
  ∀ s : State,
    (∀ col id rest b e, mgetD s.goats col [] = id :: rest → blockOf s id = some b → b.task = some e →
      (b.state = .done → strayOut s b.launch = false →
        Completes (.goatReclaim col) s (fun t => (futOf t e).state = .free ∧ blockOf t id = none)) ∧
      Completes (.goatReclaim col) s (fun t => (futOf t e).state = .free ∧ blockOf t id = none ∨
        (∃ b', blockOf t id = some b' ∧ b'.state = .done) ∧ mgetD t.goats col [] = id :: rest ∧ strayOut t b.launch = true)) ∧
    (∀ tower cluster slot i l d s1 v, (engineOf s (12 * tower + cluster)).steal = none →
      (engineOf s (12 * tower + cluster)).jobs = [] → (engineOf s (12 * tower + cluster)).stores = [] →
      (engineOf s (12 * tower + cluster)).claim = some (slot, i, none) → launchOf s slot = some l → l.bind = some d →
      engineAccess s (12 * tower + cluster) slot (d.tiles + 16 * i) 8 (.cas (tileWord 0 ownPkg i) (tileWord 1 ownPkg i))
        false = .val s1 v → Completes (.tileClaim tower cluster) s (fun t =>
          (engineOf t (12 * tower + cluster)).claim = some (slot, i, some v) ∧ .tileClaimResult tower cluster ∈ t.agenda)) ∧
    (∀ tower cluster slot i w l, (engineOf s (12 * tower + cluster)).claim = some (slot, i, some w) → launchOf s slot = some l →
      Completes (.tileClaimResult tower cluster) s (fun t =>
        (engineOf t (12 * tower + cluster)).claim = none ∧ .blockPlace tower cluster ∈ t.agenda ∧
        (tileManaged w i = false ∨ tileOwner w = ownPkg → ∃ l', launchOf t slot = some l' ∧ l'.claimed = l.claimed ++ [i]))) ∧
    (∀ tower cluster x l d s1 v, (engineOf s (12 * tower + cluster)).steal = some x → launchOf s x.launch = some l →
      l.bind = some d → x.phase = 6 → cluster < 12 →
      engineAccess s (12 * tower + cluster) x.launch (x.tiles + 16 * x.entry) 8
        (.cas (tileWord 0 x.pkg x.entry) (tileWord 1 ownPkg x.entry)) false = .val s1 v →
      Completes (.stealAttempt tower cluster) s (fun t =>
        (engineOf t (12 * tower + cluster)).steal = some { x with old := v, phase := 7 } ∧
        .stealCasResult tower cluster ∈ t.agenda)) ∧
    (∀ tower cluster x kn, (engineOf s (12 * tower + cluster)).steal = some x → x.phase = 7 →
      (launchOf s x.launch).bind (fun l => l.kernels.head?) = some kn →
      (engineOf s (12 * tower + cluster)).placing = none → Completes (.stealCasResult tower cluster) s (fun t =>
        (engineOf t (12 * tower + cluster)).steal = none ∧ (x.old = tileWord 0 x.pkg x.entry →
          (∃ q ∈ (engineOf t (12 * tower + cluster)).entries, q.kind = .stolen s.blockNo) ∧
          ∃ b, blockOf t s.blockNo = some b ∧ b.index = x.entry ∧ b.launch = x.launch ∧ b.shape = kn.shape))) ∧
    (∀ id b x, blockOf s id = some b → b.stolen = some x → b.state = .done →
      (x.phase = 0 → Completes (.stolenBlockDone id) s (fun t =>
        ∃ b', blockOf t id = some b' ∧ b'.stolen = some { x with phase := 1 })) ∧
      (x.phase = 1 → stolenReleased s x.col = true → Completes (.stolenBlockDone id) s (fun t =>
        (∃ b', blockOf t id = some b' ∧ b'.stolen = some { x with phase := 2 }) ∧
        (b.launch, x.tiles + 16 * b.index, tileWord 2 ownPkg b.index) ∈ (engineOf t x.engine).stores))) ∧
    (∀ (cmd : Word) n slot l, launchNamed s cmd = some (slot, l) → launchOf s slot = some l → l.stolen.contains n = true →
      ∀ i, i = .remoteCompletion cmd n ∨ i = .stealReturn cmd n → Completes i s (fun t =>
        ∃ l', launchOf t slot = some l' ∧ l'.stolen = l.stolen.filter (· != n))) ∧
    (∀ (cmd : Word) n id b,
      s.blocks.find? (fun (b : Nat × Block) => b.2.index == n && b.2.stolen.elim false (fun x => x.cmd == cmd && x.phase == 3)) =
        some (id, b) → Completes (.remoteCompletionAck cmd n) s (fun t => blockOf t id = none)) ∧
    (∀ slot l, launchOf s slot = some l → launchPast s slot l = true → slotInUse s slot = false → Completes (.slotFree slot) s (fun t =>
        launchOf t slot = none ∧ ∀ x ∈ t.treeMsgs, x.1 / 1024 ≠ slot))

/-- `iadd`, `isub`, `imul`, `imad`, `imulh`, `imin`, `imax` and `iabs`, long and short (14 R391, R397): the sum, difference,
product or product and sum, wrapped to the type's width or clamped by `.sat`; the high half of the exact product; the lesser or
greater by the type's signedness; the magnitude. -/
def Obligations.IntegerArithmetic : Prop :=
  ∀ (s : State) (ct : Ctl) (sat : Bool) (o1 : IOp1) (o : IOp2) (o3 : IOp3) (h : SI),
    Int2 (.iadd ct sat o) s ct o (fun x b => deliverInt _ sat (intOf x + intOf (pat o.ty b))) ∧
    ShortInt2 (.iaddShort h) s h (fun x b => x + pat _ b) ∧
    Int2 (.isub ct sat o) s ct o (fun x b => deliverInt _ sat (intOf x - intOf (pat o.ty b))) ∧
    ShortInt2 (.isubShort h) s h (fun x b => x - pat _ b) ∧
    Int2 (.imul ct o) s ct o (fun x b => x * pat _ b) ∧
    ShortInt2 (.imulShort h) s h (fun x b => x * pat _ b) ∧
    Int3 (.imad ct sat o3) s ct o3 (fun x b y => deliverInt _ sat (intOf x * intOf (pat o3.ty b) + intOf y)) ∧
    Int2 (.imulh ct o) s ct o (fun x b => BitVec.ofInt _ (intOf x * intOf (pat o.ty b) / (2 : Int) ^ tyWidth o.ty)) ∧
    ShortInt2 (.imulhShort h) s h (fun x b => BitVec.ofInt _ (intOf x * intOf (pat h.ty b) / (2 : Int) ^ tyWidth h.ty)) ∧
    Int2 (.imin ct o) s ct o (fun x b => if intOf x ≤ intOf (pat o.ty b) then x else pat _ b) ∧
    ShortInt2 (.iminShort h) s h (fun x b => if intOf x ≤ intOf (pat h.ty b) then x else pat _ b) ∧
    Int2 (.imax ct o) s ct o (fun x b => if intOf x ≤ intOf (pat o.ty b) then pat _ b else x) ∧
    ShortInt2 (.imaxShort h) s h (fun x b => if intOf x ≤ intOf (pat h.ty b) then pat _ b else x) ∧
    Int1 (.iabs ct sat o1) s ct o1 (fun x => deliverInt _ sat (intOf x).natAbs) ∧
    ShortInt1 (.iabsShort h) s h (fun x => if intOf x < 0 then -x else x)

/-- `and`, `or`, `xor`, `andn`, `popc`, `clz` and `brev`, long and short (14 R397): the bitwise results on W bits, the number of 1
bits, the number of 0 bits above the highest 1, and the bits in reverse order. -/
def Obligations.LogicAndCounts : Prop :=
  ∀ (s : State) (ct : Ctl) (o1 : IOp1) (o : IOp2) (h : SI),
    Int2 (.and ct o) s ct o (fun x b => x &&& pat _ b) ∧ ShortInt2 (.andShort h) s h (fun x b => x &&& pat _ b) ∧
    Int2 (.or ct o) s ct o (fun x b => x ||| pat _ b) ∧ ShortInt2 (.orShort h) s h (fun x b => x ||| pat _ b) ∧
    Int2 (.xor ct o) s ct o (fun x b => x ^^^ pat _ b) ∧ ShortInt2 (.xorShort h) s h (fun x b => x ^^^ pat _ b) ∧
    Int2 (.andn ct o) s ct o (fun x b => x &&& ~~~pat _ b) ∧ ShortInt2 (.andnShort h) s h (fun x b => x &&& ~~~pat _ b) ∧
    Int1 (.popc ct o1) s ct o1 (fun x => BitVec.ofNat _ ((List.range (tyWidth o1.ty)).countP x.getLsbD)) ∧
    ShortInt1 (.popcShort h) s h (fun x => BitVec.ofNat _ ((List.range (tyWidth h.ty)).countP x.getLsbD)) ∧
    Int1 (.clz ct o1) s ct o1 (fun x => BitVec.ofNat _ ((List.range (tyWidth o1.ty)).findIdx x.getMsbD)) ∧
    ShortInt1 (.clzShort h) s h (fun x => BitVec.ofNat _ ((List.range (tyWidth h.ty)).findIdx x.getMsbD)) ∧
    Int1 (.brev ct o1) s ct o1 BitVec.reverse ∧ ShortInt1 (.brevShort h) s h BitVec.reverse

/-- `shl`, `shr`, `sar` and `rotl`, long and short, `bfx` and `bfi` (14 R398, R399): shifts and rotations of the W-bit pattern by
b[6:0], and fields at position b[6:0] of length min(b[14:8], W) extracted with the type's extension, or inserted. -/
def Obligations.ShiftsAndFields : Prop :=
  ∀ (s : State) (ct : Ctl) (o : IOp2) (o3 : IOp3) (h : SShift),
    Int2 (.shl ct o) s ct o (fun x b => x <<< (b % 128)) ∧ ShortShift (.shlShort h) s h (fun x n => x <<< n) ∧
    Int2 (.shr ct o) s ct o (fun x b => x >>> (b % 128)) ∧ ShortShift (.shrShort h) s h (fun x n => x >>> n) ∧
    Int2 (.sar ct o) s ct o (fun x b => x.sshiftRight (b % 128)) ∧ ShortShift (.sarShort h) s h (fun x n => x.sshiftRight n) ∧
    Int2 (.rotl ct o) s ct o (fun x b => x.rotateLeft (b % 128)) ∧ ShortShift (.rotlShort h) s h (fun x n => x.rotateLeft n) ∧
    Int2 (.bfx ct o) s ct o (fun x b =>
      let rest := tyWidth o.ty - min (b / 256 % 128) (tyWidth o.ty)
      if o.ty.isSigned then (x.sshiftRight (b % 128) <<< rest).sshiftRight rest else (x >>> (b % 128) <<< rest) >>> rest) ∧
    Int3 (.bfi ct o3) s ct o3 (fun x b y =>
      let m : BitVec (tyWidth o3.ty) :=
        (BitVec.allOnes _ >>> (tyWidth o3.ty - min (b / 256 % 128) (tyWidth o3.ty))) <<< (b % 128)
      (y &&& ~~~m) ||| ((x <<< (b % 128)) &&& m))

/-- `icmp`, `sel`, `mov`, `movi` and `lea`, with the short `mov` and `movi` (14 R393, R400-R404): a predicate bit for each lane, the
source that a predicate's bit chooses, a source read and extended by the type, an immediate or part of one, and a + y · 2^k on 64
bits. -/
def Obligations.CompareSelectMove : Prop :=
  ∀ (s : State) (ct : Ctl) (t : IType) (d : Fin 384) (a b : Src) (c : Ctx), issueCtx s ct.pred.toNat ct.neg = some c →
    (∀ cond, (Instr.icmp ct cond t d a b).wf = true → d.val < 16 →
      LaneForm (.icmp ct cond t d a b) s c ct.e true [⟨a, tyWide t⟩, ⟨b, tyWide t⟩] [] (.p d.val) (fun _ vs =>
        let x := intOf (pat t (v1 vs))
        let y := intOf (pat t (v2 vs))
        bit (match cond with
          | .eq => x == y
          | .ne => x != y
          | .lt => decide (x < y)
          | .le => decide (x ≤ y)
          | .gt => decide (x > y)
          | .ge => decide (x ≥ y)))) ∧
    (∀ pc : BitVec 9, (Instr.sel ct t d a b pc).wf = true → pc.toNat < 16 →
      LaneForm (.sel ct t d a b pc) s c ct.e true [⟨a, tyWide t⟩, ⟨b, tyWide t⟩] [] (.v d.val (tyWide t)) (fun l vs =>
        extTo (pat t (if inMask (preg c.g pc.toNat) l then v1 vs else v2 vs)))) ∧
    (∀ o : IOp1, Int1 (.mov ct o) s ct o id) ∧ (∀ h : SI, ShortInt1 (.movShort h) s h id) ∧
    (∀ (r : Reg) (k : BitVec 30), (Instr.movi ct .k30 r k).wf = true →
      LaneForm (.movi ct .k30 r k) s c ct.e true [] [] (.ofReg r false) (fun _ _ => (k.signExtend 64).toNat)) ∧
    (∀ (n : Fin 128) (k : BitVec 30), ct.plain = true →
      LaneForm (.movi ct .b30 (.s n) k) s c ct.e true [⟨.s n, false⟩] [] (.s n.val) (fun _ vs =>
        v1 vs % 2 ^ 30 + k.toNat * 2 ^ 30 + v1 vs / 2 ^ 60 * 2 ^ 60) ∧
      (k.toNat < 16 → LaneForm (.movi ct .b60 (.s n) k) s c ct.e true [⟨.s n, false⟩] [] (.s n.val) (fun _ vs =>
        v1 vs % 2 ^ 60 + k.toNat * 2 ^ 60))) ∧
    (∀ k : BitVec 30, k.toNat < 4 → LaneForm (.movi ct .b30 (.v d) k) s c ct.e true [⟨.v d false, false⟩] [] (.v d.val false)
      (fun _ vs => v1 vs % 2 ^ 30 + k.toNat * 2 ^ 30)) ∧
    (∀ (k n : BitVec 7) (e : Bool), ct.neg = false → reachD c.pre n < 384 →
      LaneForm (.moviShort ct.pred k n e) s c e true [] [] (.v (reachD c.pre n) false) (fun _ _ => (k.signExtend 32).toNat)) ∧
    (∀ (scale : BitVec 3) (o : IOp2), (Instr.lea ct scale o).wf = true →
      LaneForm (.lea ct scale o) s c ct.e true [⟨o.a, true⟩, ⟨o.b, tyWide o.ty⟩] [] (.ofReg o.d true) (fun _ vs =>
        (BitVec.ofNat 64 (v1 vs) + BitVec.ofNat 64 (extTo (pat o.ty (v2 vs))) <<< scale.toNat).toNat))

/-- `pand`, `por`, `pxor`, `pnot` and `pmov` (14 R393, R406): each writes the lanes of its stream mask in its predicate with what
the predicates it names hold there, or with a scalar's bits; a write of p0 is discarded; `pmov.ps` gathers a predicate's bits of the
stream mask into a scalar (an empty stream mask leaves the scalar: the model's choice, log entry 71). -/
def Obligations.Predicates : Prop :=
  ∀ (s : State) (ct : Ctl) (pd : BitVec 9) (pa pb : PField) (c : Ctx), issueCtx s ct.pred.toNat ct.neg = some c →
    pd.toNat < 16 → pa.code.toNat < 16 → pa.mark = false →
    (pb.code.toNat < 16 → pb.mark = false →
      LaneForm (.pand ct pd pa pb) s c ct.e false [] [] (.p pd.toNat) (fun l _ =>
        bit (inMask (preg c.g pa.code.toNat) l && inMask (preg c.g pb.code.toNat) l)) ∧
      LaneForm (.por ct pd pa pb) s c ct.e false [] [] (.p pd.toNat) (fun l _ =>
        bit (inMask (preg c.g pa.code.toNat) l || inMask (preg c.g pb.code.toNat) l)) ∧
      LaneForm (.pxor ct pd pa pb) s c ct.e false [] [] (.p pd.toNat) (fun l _ =>
        bit (inMask (preg c.g pa.code.toNat) l ^^ inMask (preg c.g pb.code.toNat) l))) ∧
    LaneForm (.pnot ct pd pa) s c ct.e false [] [] (.p pd.toNat) (fun l _ => bit (!inMask (preg c.g pa.code.toNat) l)) ∧
    LaneForm (.pmov ct (.pp pd pa)) s c ct.e false [] [] (.p pd.toNat) (fun l _ => bit (inMask (preg c.g pa.code.toNat) l)) ∧
    (∀ n : Fin 128, LaneForm (.pmov ct (.sp pd n)) s c ct.e false [] [.s n.val] (.p pd.toNat) (fun l _ =>
      bit ((sreg c.g n.val).testBit l))) ∧
    (∀ n : Fin 128,
      (c.full ≠ 0 → LaneForm (.pmov ct (.ps n pa)) s c ct.e false [] [] (.s n.val) (fun _ _ =>
        (preg c.g pa.code.toNat &&& c.full).toNat)) ∧
      (c.full = 0 → LaneForm (.pmov ct (.ps n pa)) s c ct.e false [] [.s n.val] .none (fun _ _ => 0)))

/-- `fadd`, `fsub`, `fmul`, `ffma`, `fmin`, `fmax` and `fcmp`, long and short (15 R420-R425): the sources' elements modified and
flushed, the sum, difference, product or fused product and sum as the model's exact numbers have them, delivered once under the
rounding, saturation and flushing in force with its exceptions; the lesser and greater exactly; the condition as a predicate bit. -/
def Obligations.FloatArithmetic : Prop :=
  ∀ (s : State) (ct : Ctl) (o : FOp2) (h : SF),
    Float2 (.fadd ct o) s ct o false (fun v x y => numAdd (v.mode == 3) x y) ∧
    ShortFloat2 (.faddShort h) s h false (fun v x y => numAdd (v.mode == 3) x y) ∧
    Float2 (.fsub ct o) s ct o false (fun v x y => numAdd (v.mode == 3) x (numNeg y)) ∧
    ShortFloat2 (.fsubShort h) s h false (fun v x y => numAdd (v.mode == 3) x (numNeg y)) ∧
    Float2 (.fmul ct o) s ct o false (fun _ x y => numMul x y) ∧
    ShortFloat2 (.fmulShort h) s h false (fun _ x y => numMul x y) ∧
    (∀ c3 : Reg, (Instr.ffma ct o c3).wf = true → ∀ c, issueCtx s ct.pred.toNat ct.neg = some c →
      FloatForm (.ffma ct o c3) s c ct.e [⟨o.a, false⟩, ⟨o.b, false⟩, ⟨c3.toSrc, false⟩] (.ofReg o.d false) c.stochastic
        (fun l vs => lanePair o.ty c.env false l (fun e =>
          let p := numMul (element o.ty c.env o.mods.negA o.mods.absA (v1 vs) e) (element o.ty c.env false false (v2 vs) e)
          let r := numAdd (c.env.mode == 3) p.1 (element o.ty c.env o.mods.negB false (v3 vs) e)
          (r.1, p.2 ||| r.2)))) ∧
    Float2 (.fmin ct o) s ct o true (fun _ x y => (numMin x y, 0)) ∧
    ShortFloat2 (.fminShort h) s h true (fun _ x y => (numMin x y, 0)) ∧
    Float2 (.fmax ct o) s ct o true (fun _ x y => (numMax x y, 0)) ∧
    ShortFloat2 (.fmaxShort h) s h true (fun _ x y => (numMax x y, 0)) ∧
    (∀ (cond : FCond) (t : FType) (pd : Fin 384) (a b : Src), (Instr.fcmp ct cond t pd a b).wf = true → pd.val < 16 →
      ∀ c, issueCtx s ct.pred.toNat ct.neg = some c →
        LaneForm (.fcmp ct cond t pd a b) s c ct.e true [⟨a, false⟩, ⟨b, false⟩] [] (.p pd.val) (fun _ vs =>
          let x := element t c.env false false (v1 vs) 0
          let y := element t c.env false false (v2 vs) 0
          bit (match cond with
            | .eq => numEq x y
            | .ne => !numEq x y
            | .lt => numLt x y
            | .le => numLt x y || numEq x y
            | .gt => numLt y x
            | .ge => numLt y x || numEq x y
            | .un => isNan x || isNan y
            | .ord => !(isNan x || isNan y))))

/-- `frcp`, `frsq`, `fsqrt`, `fexp2`, `flog2`, `fsin`, `fcos` and `ftanh`, long and short (15 R423, R426): the model's function of the
modified and flushed source, delivered under the environment in force with its exceptions.
How far the function is computed before it is rounded is the model's choice (log 61). -/
def Obligations.FloatFunctions : Prop :=
  ∀ (s : State) (ct : Ctl) (o : FOp1) (h : SF),
    Float1 (.frcp ct o) s ct o fRcp ∧ ShortFloat1 (.frcpShort h) s h fRcp ∧
    Float1 (.frsq ct o) s ct o fRsq ∧ ShortFloat1 (.frsqShort h) s h fRsq ∧
    Float1 (.fsqrt ct o) s ct o fSqrt ∧ ShortFloat1 (.fsqrtShort h) s h fSqrt ∧
    Float1 (.fexp2 ct o) s ct o fExp2 ∧ ShortFloat1 (.fexp2Short h) s h fExp2 ∧
    Float1 (.flog2 ct o) s ct o fLog2 ∧ ShortFloat1 (.flog2Short h) s h fLog2 ∧
    Float1 (.fsin ct o) s ct o fSin ∧ ShortFloat1 (.fsinShort h) s h fSin ∧
    Float1 (.fcos ct o) s ct o fCos ∧ ShortFloat1 (.fcosShort h) s h fCos ∧
    Float1 (.ftanh ct o) s ct o fTanh ∧ ShortFloat1 (.ftanhShort h) s h fTanh

/-- `cvt`, long and short, `pack`, `unpack` and `qnt` (15 R428-R432): a binary32 source encoded into an element format, an element
decoded, an integer made or taken, or a rounding to an integer; two sources encoded into elements 2p and 2p + 1 and the other bits of
the register kept; an element decoded; and a block's word and scale in each of its lanes in the stream mask, with FLG gaining every
exception.
Exceptions of H4 results are the model's reading (log 62). -/
def Obligations.Conversions : Prop :=
  ∀ (s : State) (ct : Ctl) (c : Ctx), issueCtx s ct.pred.toNat ct.neg = some c →
    (∀ (var : CvtVar) (d : Reg) (a : Src), (Instr.cvt ct var d a).wf = true →
      FloatForm (.cvt ct var d a) s c ct.e [⟨a, match var with | .fromi t => tyWide t | _ => false⟩] (.ofReg d false)
        ((match var with | .from _ => false | _ => true) && c.stochastic) (fun l vs => cvtLane var c.env l (v1 vs))) ∧
    (∀ h : SC, (Instr.cvtShort h).wf = true → h.pred = ct.pred → ct.neg = false → reachD c.pre h.d < 384 →
      FloatForm (.cvtShort h) s c h.e [⟨shortSrc (reachS c.pre h.s) h.last, false⟩] (.v (reachD c.pre h.d) false) c.stochastic
        (fun l vs => efEnc h.fmt c.env (srand c.env l 0) (f32In c.env (v1 vs)))) ∧
    (∀ (p : BitVec 3) (f : EFmt) (d : Fin 384) (a b : Src), (Instr.pack ct p f d a b).wf = true →
      (2 * p.toNat + 2) * efWidth f ≤ 32 →
      FloatForm (.pack ct p f d a b) s c ct.e [⟨a, false⟩, ⟨b, false⟩, ⟨.v d false, false⟩] (.v d.val false) c.stochastic
        (fun l vs =>
          let w := efWidth f
          let lo := 2 * p.toNat * w
          let x := efEnc f c.env (srand c.env l (2 * p.toNat)) (f32In c.env (v1 vs))
          let y := efEnc f c.env (srand c.env l (2 * p.toNat + 1)) (f32In c.env (v2 vs))
          (v3 vs % 2 ^ lo + (x.1 + y.1 * 2 ^ w) % 2 ^ (2 * w) * 2 ^ lo + v3 vs / 2 ^ (lo + 2 * w) * 2 ^ (lo + 2 * w),
            x.2 ||| y.2))) ∧
    (∀ (e : BitVec 3) (f : EFmt) (d : Fin 384) (a : Src), (Instr.unpack ct e f d a).wf = true → e.toNat * efWidth f < 32 →
      LaneForm (.unpack ct e f d a) s c ct.e true [⟨a, false⟩] [] (.v d.val false) (fun _ vs =>
        let x := efDec f (v1 vs % 2 ^ 32 / 2 ^ (efWidth f * e.toNat))
        encFmt fmt32 (if efNoFlush f then x else ftzIn (efFmt f) c.env.flush x))) ∧
    (∀ (h4 : Bool) (d : Fin 384) (a : Src) (b : Fin 128), (Instr.qnt ct h4 d a b).wf = true → d.val % 2 = 0 →
      let srcs : List Opnd := [⟨a, false⟩, ⟨.s b, false⟩]
      let v : FpEnv := { c.env with sat := 0 }
      let block (k : Nat) := qntBlock h4 v (decFmt fmtB16 (sreg c.g b.val % 2 ^ 16))
        (qntLanes v c.full (fun l => v1 (c.vals srcs l)) k)
      Ready s c true srcs [.v d.val, .v (d.val + 1)] [d.val, d.val + 1] →
      (∀ k, k < 8 → (block k).2.2 &&& c.g.frnd.ten.toNat = 0) →
      Completes (.qnt ct h4 d a b) s (fun t =>
        Done s t c ct.e ([d.val, d.val + 1] ++ srcs.flatMap Opnd.frees) [] [] (fun g' =>
          (∀ l, l < 64 → inMask c.mask l = true → laneOf (vreg g' d.val) l = w32 (block (l / 8)).1 ∧
            laneOf (vreg g' (d.val + 1)) l = w32 (ue8m7OfE3m5 (block (l / 8)).2.1 * 2 ^ 16 + (block (l / 8)).2.1)) ∧
          (∀ n, n < 2 → ∀ l, l < 64 → inMask c.mask l = false → laneOf (vreg g' (d.val + n)) l = laneOf (vreg c.g (d.val + n)) l) ∧
          (∀ x, x < 5 → g'.frnd.flg.getLsbD x =
            (c.g.frnd.flg.getLsbD x || (List.range 8).any (fun k => (block k).2.2.testBit x))) ∧
          g'.frnd.scnt = c.g.frnd.scnt + (if c.stochastic then 1 else 0) ∧
          g'.frnd.rm = c.g.frnd.rm ∧ g'.frnd.ten = c.g.frnd.ten ∧ g'.frnd.seed = c.g.frnd.seed)))

/-- The lane operations (15 R433-R440): `shfl`, `bcast` and `carry` read a live lane of the group, or 0 with a valid bit of 0; `vote`
and `ballot` reduce a predicate's bits over the stream mask; `permb` looks bytes up; `scan` and `fold` run an operation over the
stream mask in increasing lane number; `lid` gives the lane or the width. -/
def Obligations.LaneOperations : Prop :=
  ∀ (s : State) (ct : Ctl) (d : Fin 384) (a : Src) (c : Ctx), issueCtx s ct.pred.toNat ct.neg = some c →
    (∀ (var : ShflVar) (b : LaneB), (Instr.shfl ct var d a b).wf = true → (∀ x p, b = .reg x p → p.toNat < 16) →
      let srcs : List Opnd := [⟨a, false⟩, ⟨match b with | .reg x _ => x | .imm i => .imm i, false⟩]
      PeerForm (.shfl ct var d a b) s c ct.e srcs [] (.v d.val false) (match b with | .reg _ p => some p | .imm _ => none) (fun l =>
        let n := v2 (c.vals srcs l)
        c.peer srcs (match var with
          | .lane => ((n % 2 ^ 32 : Nat) : Int)
          | .off => (l : Int) + (BitVec.ofNat 7 n).toInt
          | .flip => ((l ^^^ (n % 64) : Nat) : Int)
          | .rot => (((l + n % 64) % c.g.width : Nat) : Int)))) ∧
    (∀ (r : Reg) (b : LaneS), (Instr.bcast ct r a b).wf = true → (∀ n p, b = .s n p → p.toNat < 16) →
      (r.isS = true → c.mask ≠ 0) →
      let srcs : List Opnd := [⟨a, false⟩, ⟨match b with | .s n _ => .s n | .imm i => .imm i, false⟩]
      PeerForm (.bcast ct r a b) s c ct.e srcs [] (.ofReg r false) (match b with | .s _ p => some p | .imm _ => none) (fun _ =>
        c.peer srcs ((v2 (c.vals srcs 0) % 2 ^ 32 : Nat) : Int))) ∧
    (∀ (n : Fin 3) (b : LaneS), (Instr.carry ct n d a b).wf = true → (∀ n p, b = .s n p → p.toNat < 16) →
      let srcs : List Opnd := [⟨a, false⟩, ⟨match b with | .s n _ => .s n | .imm i => .imm i, false⟩]
      PeerForm (.carry ct n d a b) s c ct.e srcs [] (.v d.val false) (match b with | .s _ p => some p | .imm _ => none) (fun l =>
        let p := if l = 0 then (v2 (c.vals srcs 0) % 2 ^ 32, true) else c.peer srcs ((l : Int) - 1)
        (v1 (c.vals srcs l) * 2 ^ (8 * (n.val + 1)) % 2 ^ 32 + p.1 / 2 ^ (32 - 8 * (n.val + 1)), p.2))) ∧
    (∀ (var : VoteVar) (pa : PField), d.val < 16 → pa.code.toNat < 16 → pa.mark = false →
      let holds (l : Nat) := inMask (preg c.g pa.code.toNat) l
      PeerForm (.vote ct var d pa) s c ct.e [] [] .none (some (BitVec.ofNat 9 d.val)) (fun _ => (0, match var with
        | .every => (laneList c.full).all holds
        | .some => (laneList c.full).any holds
        | .same => (laneList c.full).all holds || (laneList c.full).all (fun l => !holds l)))) ∧
    (∀ (wide : Bool) (n : Fin 128) (pa : PField), pa.code.toNat < 16 → pa.mark = false →
      Ready s c true [] [.s n.val] [] → Completes (.ballot ct wide n pa) s (fun t =>
        Done s t c ct.e [] [n.val] [] (fun g' => sreg g' n.val < 2 ^ 64 ∧ ∀ l, l < 64 → (sreg g' n.val).testBit l =
          (inMask (preg c.g pa.code.toNat) l && (if wide then (laneAt c.g l).live && decide (l < c.g.width) else inMask c.full l))))) ∧
    (∀ (var : PermVar) (n : Fin 128), (Instr.permb ct var d a n).wf = true → n.val % 2 = 0 →
      PeerForm (.permb ct var d a n) s c ct.e [⟨a, false⟩] [.s n.val, .s (n.val + 1)] (.v d.val false) none (fun l =>
        let entry (k : Nat) := sreg c.g (n.val + k / 8) / 2 ^ (8 * (k % 8)) % 256
        let look (x : Nat) := match var with
          | .lo => entry (x % 16)
          | .hi => entry (x / 16)
          | .idx => if x < 16 then entry x else 0
        let x := v1 (c.vals [⟨a, false⟩] l)
        (look (x % 256) + look (x / 2 ^ 8 % 256) * 2 ^ 8 + look (x / 2 ^ 16 % 256) * 2 ^ 16 + look (x / 2 ^ 24 % 256) * 2 ^ 24, true))) ∧
    (∀ (op : RedOp) (t : RedTy) (r : Reg),
      let v : FpEnv := { c.env with sat := 0, flush := false }
      let srcs : List Opnd := [⟨a, false⟩]
      let run (m : List Nat) := m.foldl (fun (st : Nat × Nat) l =>
        let x := redStep op t v l st.1 (v1 (c.vals srcs l))
        (x.1, st.2 ||| x.2)) (redIdentity op t, 0)
      let total := run (laneList c.full)
      let counts : BitVec 16 := if op = .add ∧ t = .f32 ∧ v.mode = 5 then 1 else 0
      total.2 &&& c.g.frnd.ten.toNat = 0 →
      ((Instr.scan ct op t d a).wf = true → Ready s c true srcs [.v d.val] [d.val] → Completes (.scan ct op t d a) s (fun t' =>
        Done s t' c ct.e ([d.val] ++ srcs.flatMap Opnd.frees) [] [] (fun g' =>
          Holds c g' (.v d.val false) (fun l => (run ((laneList c.full).filter (· ≤ l))).1) ∧
          g'.frnd = { c.g.frnd with flg := c.g.frnd.flg ||| BitVec.ofNat 5 total.2, scnt := c.g.frnd.scnt + counts }))) ∧
      ((Instr.fold ct op t r a).wf = true → Ready s c true srcs (DestReg.ofReg r false).regs (DestReg.ofReg r false).rows →
        Completes (.fold ct op t r a) s (fun t' =>
          Done s t' c ct.e ((DestReg.ofReg r false).rows ++ srcs.flatMap Opnd.frees) (DestReg.ofReg r false).scalars [] (fun g' =>
            Holds c g' (.ofReg r false) (fun _ => total.1) ∧
            g'.frnd = { c.g.frnd with flg := c.g.frnd.flg ||| BitVec.ofNat 5 total.2, scnt := c.g.frnd.scnt + counts })))) ∧
    (∀ (w : Bool) (r : Reg), (Instr.lid ct w r).wf = true → (r.isS = true → c.mask ≠ 0) →
      PeerForm (.lid ct w r) s c ct.e [] [] (.ofReg r false) none (fun l => (if w then c.g.width else l, true)))

/-- `bra`, `brc`, `jmp`, `ret` and `call` with E 1, to targets that begin a run (14 R407-R412): each stream-mask lane of `bra`,
`jmp`, `ret` and `call` goes to its target, the others of the run to the next instruction; `brc` sends the whole run or none of it, by
its condition over the whole active mask; `call` writes the address of the next instruction to its link register. -/
def Obligations.ControlTransfers : Prop :=
  ∀ (s : State) (ct : Ctl) (c : Ctx), ct.e = true →
    (issueCtx s ct.pred.toNat ct.neg = some c →
      (∀ k : BitVec 30, TransferForm (.bra ct k) s c [] [] .none c.mask (fun _ => c.pc + 4 * k.signExtend 64) (fun _ => True)) ∧
      (∀ t : Src, t.isReg = true →
        let target (l : Nat) : Word64 := BitVec.ofNat 64 (v1 (c.vals [⟨t, true⟩] l))
        TransferForm (.jmp ct t) s c [⟨t, true⟩] [] .none c.mask target (fun _ => True) ∧
        TransferForm (.ret ct t) s c [⟨t, true⟩] [] .none c.mask target (fun _ => True)) ∧
      (∀ (d : Reg) (k : BitVec 30),
        TransferForm (.call ct d k) s c [] [] (.ofReg d true) c.mask (fun _ => c.pc + 4 * k.signExtend 64) (fun g' =>
          if c.mask = 0 then (∀ n, vreg g' n = vreg c.g n) ∧ (∀ n, sreg g' n = sreg c.g n)
          else Holds c g' (.ofReg d true) (fun _ => c.next.toNat)))) ∧
    (issueCtx s 0 false = some c → ∀ (cond : BrCond) (k : BitVec 12),
      let reads : List AReg := match cond with
        | .snz n | .sz n => [.s n.val]
        | _ => []
      let holds (l : Nat) : Bool := inMask (preg c.g ct.pred.toNat) l != ct.neg
      let taken : Bool := match cond with
        | .all => (laneList c.r.active).all holds
        | .any => (laneList c.r.active).any holds
        | .none => (laneList c.r.active).all (fun l => !holds l)
        | .snz n => sreg c.g n.val != 0
        | .sz n => sreg c.g n.val == 0
      (reads = [] ∨ ct.plain = true) →
      TransferForm (.brc ct cond k) s c [] reads .none (if taken then c.mask else 0) (fun _ => c.pc + 4 * k.signExtend 64)
        (fun _ => True))

/-- The prefix, `nop`, `meet`, `yield` and `sleep` (12 R343, R347, 14 R413, R415-R417): the prefix waits beside the run for the next
instruction; `nop` changes nothing but the place in the run; `meet` sets the meeting register of each stream-mask lane, or clears it;
`yield` ends the run of a group that then does not compete; `sleep` of K waits 16 · K core cycles and of 0 does nothing. -/
def Obligations.PrefixAndPauses : Prop :=
  ∀ (s : State) (ct : Ctl) (c : Ctx), issueCtx s ct.pred.toNat ct.neg = some c →
    (∀ p : Pfx, p.e = false → c.r.pre = none →
      exec (.pfx p) s = .next (setGroup s c.key { c.g with run := some { c.r with pc := c.next, pre := some (p, c.pc) } })) ∧
    (Ready s c false [] [] [] →
      Completes (.nop ct) s (fun t => Done s t c ct.e [] [] [] (fun g' => g'.frnd = c.g.frnd ∧ g'.queues = c.g.queues)) ∧
      (∀ (ty : BitVec 3) (e : Bool), ct.neg = false → Completes (.nopShort ty ct.pred e) s (fun t =>
        Done s t c e [] [] [] (fun g' => g'.frnd = c.g.frnd ∧ g'.queues = c.g.queues))) ∧
      (∀ (clr : Bool) (k : BitVec 30), (clr = true → k = 0) → Completes (.meet ct clr k) s (fun t =>
        ∃ g', groupOf t c.key = some g' ∧ OnlyGroup s t c.key ∧ Kept c.g { g' with lanes := c.g.lanes } [] [] [] ∧
          GoesOn c ct.e g' ∧ g'.lanes.length = c.g.lanes.length ∧
          ∀ l, l < c.g.lanes.length → (laneAt g' l).live = (laneAt c.g l).live ∧ (laneAt g' l).meet =
            if inMask c.mask l then (if clr then 0 else c.pc + 4 * k.signExtend 64) else (laneAt c.g l).meet)) ∧
      (ct.plain = true → ct.e = true → Completes (.yield ct) s (fun t =>
        Done s t c true [] [] [] (fun g' => g'.yielded = true))) ∧
      (ct.plain = true →
        Completes (.sleep ct 0) s (fun t => Done s t c ct.e [] [] [] (fun g' => g'.frnd = c.g.frnd)) ∧
        ∀ k : BitVec 12, k ≠ 0 → Completes (.sleep ct k) s (fun t =>
          ∃ g', groupOf t c.key = some g' ∧ OnlyGroup s t c.key ∧ Kept c.g g' [] [] [] ∧
            g'.status = .waiting (.sleep ((coreOf t c.core).cycles + 16 * k.toNat)) ∧
            GoesOn c ct.e (if ct.e then { g' with status := .ready } else g'))))

/-- `exit` with E 1 (14 R414): its stream-mask lanes stop being live. While a lane of the group stays live and no handler runs, the
others of the run go on at the next instruction; when none stays live and requests of its column are still on their way, the group
waits for them with its run ended. -/
def Obligations.Exit : Prop :=
  ∀ (s : State) (ct : Ctl) (c : Ctx), issueCtx s ct.pred.toNat ct.neg = some c → ct.e = true → c.g.handler = none →
    Ready s c false [] [] [] →
    ((∃ l, l < 64 ∧ (laneAt c.g l).live = true ∧ inMask c.mask l = false) → Completes (.exit ct) s (fun t =>
      ∃ g', groupOf t c.key = some g' ∧ OnlyGroup s t c.key ∧ Kept c.g { g' with lanes := c.g.lanes } [] [] [] ∧
        g'.run = none ∧ g'.status = .ready ∧ g'.lanes.length = c.g.lanes.length ∧
        ∀ l, l < c.g.lanes.length →
          (laneAt g' l).live = ((laneAt c.g l).live && !inMask c.mask l) ∧
          (laneAt g' l).pc = if inMask c.r.active l && !inMask c.mask l then c.next else (laneAt c.g l).pc)) ∧
    ((∀ l, l < 64 → (laneAt c.g l).live = true → inMask c.mask l = true) →
      (c.g.super = true ∨ ∀ b, blockOf s c.g.block = some b → b.task = none) →
      outstanding s (some (coreCol (keyCore c.key))) s.reqNo = true → Completes (.exit ct) s (fun t =>
        ∃ g', groupOf t c.key = some g' ∧ OnlyGroup s t c.key ∧ g'.run = none ∧ g'.status = .waiting (.drain s.reqNo false false false) ∧
          ∀ l, l < 64 → (laneAt g' l).live = false))

/-- `ld` (11 R307, R310, 16 R446-R453) in each of its sizes and forms, with every lane's translation at hand: where the column owns each
line, an unordered load delivers each lane's bytes at once, extended as its size says, and changes no copy's bytes; where the column
holds no copy, it sends one request a lane, in lane order, and its registers await the returns. -/
def Obligations.Loads : Prop :=
  ∀ (s : State) (ct : Ctl) (size : LdSize) (m : MForm) (d : Reg) (base : Src) (off : BitVec 9) (c : Ctx) (ia : Nat → Nat)
    (leaf : Nat → Leaf),
    (Instr.ld ct size m d base off).wf = true → issueCtx s ct.pred.toNat ct.neg = some c → c.g.pendingOrd = [] →
    let n := ldBytes size
    let lanes := if d.isS then [0] else laneList c.mask
    let frees := (⟨base, true⟩ : Opnd).frees
    let col := coreCol c.core
    col < 384 → sizedRegs d n → m.ord.getLsbD 1 = false →
    Ready s c true [⟨base, true⟩] (DestReg.ofReg d false).regs (sizeRows d n) →
    (∀ l ∈ lanes, Reaches s c (c.va base off l) n .read (ia l) (leaf l)) →
    ((∀ l ∈ lanes, ∃ x, Owned s col (leaf l) (ia l) n x) → m.ord = 0 →
      Completes (.ld ct size m d base off) s (fun t =>
        OnlyGroup s { t with l1 := s.l1 } c.key ∧ (∀ k a, a < 2 ^ 52 → columnByte t k a = columnByte s k a) ∧
        ∃ g', groupOf t c.key = some g' ∧ Kept c.g g' (sizeRows d n ++ frees) (DestReg.ofReg d false).scalars [] ∧ GoesOn c ct.e g' ∧
          HoldsWords c g' d (max 1 (n / 4)) (fun l =>
            loadValue size ((l1Get s col (ia l / 64)).elim 0 (fun x => x.data.toNat / 2 ^ (8 * (ia l % 64)) % 2 ^ (8 * n)))))) ∧
    ((∀ l ∈ lanes, l1Get s col (ia l / 64) = none) →
      Completes (.ld ct size m d base off) s (fun t =>
        Sent s t c ct.e frees
          (laneRequests s c s.reqNo lanes (fun _ => .load) ia n (fun l => policyOf s m.policy (leaf l) (ia l) false)
            (m.scope.getD .pkg) m.hint (m.ord.getLsbD 0) false (fun l => match d with
              | .v r => .lane r.val l n (ldSigned size)
              | .s r => .scalar r.val n (ldSigned size)) leaf)
          s.reqNo (match d with | .v _ => (sizeRows d n).map .v | .s r => [.s r.val]) (m.ord.getLsbD 0) (fun _ => True)))

/-- `st` (11 R310, 16 R446-R454) in each of its sizes and forms, with every lane's translation at hand and its task, if it is one,
committed: where the column owns each line, home records no release at its words and the policy is not `.wt`, an unordered store puts
each lane's bytes into the column's copies, the last lane's where lanes overlap, and no other byte of any copy or of memory changes; where the column holds no copy and
the policy is not `.sinv`, it sends its bytes home, one request a lane. -/
def Obligations.Stores : Prop :=
  ∀ (s : State) (ct : Ctl) (size : StSize) (m : MForm) (d : Reg) (base : Src) (off : BitVec 9) (c : Ctx) (ia : Nat → Nat)
    (leaf : Nat → Leaf),
    (Instr.st ct size m d base off).wf = true → issueCtx s ct.pred.toNat ct.neg = some c → c.g.pendingOrd = [] →
    let n := stBytes size
    let lanes := if d.isS && base.isS then [0] else laneList c.mask
    let frees := (⟨base, true⟩ : Opnd).frees
    let col := coreCol c.core
    col < 384 → sizedRegs d n → m.ord.getLsbD 0 = false → uncommitted s c.g = false →
    Ready s c true [⟨base, true⟩] (match d with
      | .s r => if n = 16 then [.s r.val, .s (r.val + 1)] else [.s r.val]
      | .v _ => (sizeRows d n).map .v) [] →
    (∀ l ∈ lanes, Reaches s c (c.va base off l) n .write (ia l) (leaf l)) →
    ((∀ l ∈ lanes, (leaf l).repl = false ∧ policyOf s m.policy (leaf l) (ia l) true ≠ .wt ∧
        (∀ h z, mget s.home (ia l / 64) = some h → h.lazy = some z → z.2.2 &&& wordsOf (byteMask (ia l % 64) n) = 0) ∧
        ∃ x, Owned s col (leaf l) (ia l) n x) →
      m.ord = 0 →
      Completes (.st ct size m d base off) s (fun t =>
        OnlyGroup s { t with l1 := s.l1 } c.key ∧
        (∀ k a, a < 2 ^ 52 → columnByte t k a = (if k = col then
          match lastLane lanes ia n a with
          | some l => some (BitVec.ofNat 8 (storeData c.g d n l / 2 ^ (8 * (a - ia l))))
          | none => columnByte s k a
          else columnByte s k a)) ∧
        (∀ l ∈ lanes, ∃ x, l1Get t col (ia l / 64) = some x ∧ x.st = .m) ∧
        ∃ g', groupOf t c.key = some g' ∧ Kept c.g g' frees [] [] ∧ GoesOn c ct.e g')) ∧
    ((∀ l ∈ lanes, l1Get s col (ia l / 64) = none ∧ policyOf s m.policy (leaf l) (ia l) true ≠ .sinv) →
      (m.ord.getLsbD 1 = true → ∀ e ∈ columnLines s col, e.2.st = .u → e.2.dirty = 0) →
      Completes (.st ct size m d base off) s (fun t =>
        Sent s t c ct.e frees
          (laneRequests s c s.reqNo lanes (fun l => .store (linePlace (storeData c.g d n l) (ia l % 64) n)) ia n
            (fun l => policyOf s m.policy (leaf l) (ia l) true) (m.scope.getD .pkg) m.hint false (m.ord.getLsbD 1)
            (fun _ => .none) leaf)
          s.reqNo [] false (fun _ => True)))

/-- `atom` and `cas` (11 R310, 16 R446, R456-R459) in each of their types and forms, with every lane's translation at hand and a path
that carries the operation: where the column owns a line not of fabric memory, the policy is `.own` and no earlier atomic of the
group waits, an unordered operation of one lane takes place in the column's copy, the old value goes to the destination and the other bytes stay; where the column holds no copy, one request a lane
goes home and the destination awaits the old values. -/
def Obligations.Atomics : Prop :=
  ∀ (s : State) (ct : Ctl) (ord : BitVec 2) (addr : Src) (c : Ctx) (ia : Nat → Nat) (leaf : Nat → Leaf),
    issueCtx s ct.pred.toNat ct.neg = some c → c.g.pendingOrd = [] → coreCol c.core < 384 → uncommitted s c.g = false →
    let col := coreCol c.core
    let m := prefixM c.pre ord
    -- what an instruction with a destination, further sources, a type and an operation needs, and what it does
    let form (i : Instr) (d : Option Reg) (xs : List Src) (t : Option IType) (op : Option AtomOp) (kind : List Nat → ReqKind) : Prop :=
      let wide := t.elim false tyWide
      let n := if wide then 8 else 4
      let srcs : List Opnd := ⟨addr, true⟩ :: xs.map (fun x => ⟨x, wide⟩)
      let lanes := if d.elim false Reg.isS then [0] else laneList c.mask
      let rows := d.elim [] (fun d => sizeRows d n)
      let scalars : List Nat := match d with | some (.s r) => [r.val] | _ => []
      let vs (l : Nat) := c.vals srcs l
      i.wf = true → (∀ r, d = some (.v r) → wide = true → r.val % 2 = 0) → Ready s c true srcs (scalars.map .s) rows →
      (∀ l ∈ lanes, v1 (vs l) % n = 0 ∧ ia l % n = 0 ∧
        (∃ r, laneXlate c s (v1 (vs l)) n .write true false = .ok s (ia l) (leaf l) r ∧
          pathCarries s r false (leaf l) (ia l) op (m.scope.getD .pkg) = true) ∧
        (let pa := homePa (leaf l) (homeKey (leaf l) (ia l / 64) (colTower col))
         isHbm pa = true → stackState s (stackOf pa) = 0)) →
      (∀ l x, lanes = [l] → ord = 0 → policyOf s m.policy (leaf l) (ia l) false = .own → (leaf l).repl = false →
        isFabric ((leaf l).pa52 (64 * (ia l / 64))) = false →
        (∀ r, r ∈ s.reqs ∨ r ∈ s.held.map (·.1) → r.isAtomic = true → r.group = some c.key → s.reqNo ≤ r.id) →
        Owned s col (leaf l) (ia l) n x →
        let old := x.data.toNat / 2 ^ (8 * (ia l % 64)) % 2 ^ (8 * n)
        Completes i s (fun t' => OnlyGroup s { t' with l1 := s.l1 } c.key ∧
          (∀ k a, a < 2 ^ 52 → columnByte t' k a = if k = col ∧ ia l ≤ a ∧ a < ia l + n then
            some (BitVec.ofNat 8 (rmwKind (kind (vs l |>.drop 1)) n old / 2 ^ (8 * (a - ia l)))) else columnByte s k a) ∧
          ∃ g', groupOf t' c.key = some g' ∧ Kept c.g g' (rows ++ srcs.flatMap Opnd.frees) scalars [] ∧ GoesOn c ct.e g' ∧
            ∀ r, d = some r → HoldsWords { c with mask := maskOf (· == l) } g' r (n / 4) (fun _ => match r with
              | .s _ => if t.elim false IType.isSigned then ((BitVec.ofNat (8 * n) old).signExtend 64).toNat else old
              | .v _ => old))) ∧
      ((∀ l ∈ lanes, l1Get s col (ia l / 64) = none) →
        (hasRel ord = true → ∀ e ∈ columnLines s col, e.2.st = .u → e.2.dirty = 0) →
        Completes i s (fun t' =>
          Sent s t' c ct.e (srcs.flatMap Opnd.frees)
            (laneRequests s c s.reqNo lanes (fun l => kind (vs l |>.drop 1)) ia n
              (fun l => policyOf s m.policy (leaf l) (ia l) false) (m.scope.getD .pkg) m.hint (hasAcq ord) (hasRel ord)
              (fun l => match d with
                | none => .none
                | some (.v r) => .lane r.val l n false
                | some (.s r) => .scalar r.val n (t.elim false IType.isSigned)) leaf)
            s.reqNo (match d with | none => [] | some (.v _) => rows.map .v | some (.s r) => [.s r.val]) (hasAcq ord)
            (fun g' => Popped c (srcs.flatMap Opnd.pops) g')))
    (∀ (op : AtomOp) (d : Option Reg) (x : Src), form (.atom ct op ord d addr x) d [x] (atomType op) (some op) (fun vs => .atomic op (v1 vs))) ∧
    (∀ (t : IType) (d : Reg) (cmp : Src) (w : Reg),
      form (.cas ct t ord d addr cmp w) (some d) [cmp, w.toSrc] (some t) none (fun vs => .cas (v1 vs) (v2 vs)))

/-- `ldq` and `prf` (16 R455, R467) with every lane's translation at hand: a first `ldq` of a queue register with room and no pipe adds
one entry that awaits its stream-mask lanes and, where the column holds no copy, sends one request a lane; an empty stream mask does
nothing. A prefetch of an address that no range covers is dropped; one of HBM4E lines of which the column holds no copy and whose
homes are sound sends a prefetch a lane, which no register awaits. -/
def Obligations.QueueLoadsAndPrefetch : Prop :=
  ∀ (s : State) (ct : Ctl) (m : MForm) (base : Src) (off : BitVec 9) (c : Ctx) (ia : Nat → Nat) (leaf : Nat → Leaf),
    base.isReg = true → issueCtx s ct.pred.toNat ct.neg = some c → c.g.pendingOrd = [] →
    let frees := (⟨base, true⟩ : Opnd).frees
    let col := coreCol c.core
    let lanes := laneList c.mask
    col < 384 → Ready s c true [⟨base, true⟩] [] [] →
    (∀ q : Fin 8, m.ord.getLsbD 1 = false → c.g.queues.length = 8 → (queueAt c.g q.val).pipe = false →
      (queueAt c.g q.val).entries.length + (queueAt c.g q.val).pending.length < 16 → c.r.start ≤ firstLane c.full →
      (c.mask = 0 → Completes (.ldq ct q m base off) s (fun t => Done s t c ct.e frees [] [] (fun g' => g'.queues = c.g.queues))) ∧
      (c.mask ≠ 0 →
        (∀ l ∈ lanes, Reaches s c (c.va base off l) 4 .read (ia l) (leaf l) ∧ l1Get s col (ia l / 64) = none) →
        Completes (.ldq ct q m base off) s (fun t =>
          Sent s t c ct.e frees
            (laneRequests s c (s.reqNo + 1) lanes (fun _ => .load) ia 4 (fun l => policyOf s m.policy (leaf l) (ia l) false)
              (m.scope.getD .pkg) m.hint (m.ord.getLsbD 0) false (fun l => .queue q.val s.reqNo l) leaf)
            (s.reqNo + 1) [] (m.ord.getLsbD 0) (fun g' => ∀ p, queueAt g' p = if p = q.val then
              { queueAt c.g p with pending := (queueAt c.g p).pending ++ [(s.reqNo, c.mask, 0)] } else queueAt c.g p)))) ∧
    (∀ (l2 : Bool) (rs : List RangeReg), m.ord = 0 →
      ((launchOf s (groupLaunch s c.g)).bind (·.ranges) = some rs ∨ (launchOf s (groupLaunch s c.g) = none ∧ rs = [])) →
      ((∀ l ∈ lanes, ∃ x y, rangeXlate rs (c.va base off l) 1 .read (privileged s c.g) = .trap x y) →
        Completes (.prf ct l2 m base off) s (fun t => Done s t c ct.e frees [] [] (fun g' => g'.queues = c.g.queues))) ∧
      ((∀ l ∈ lanes, (∃ r, laneXlate c s (c.va base off l) 1 .read false false = .ok s (ia l) (leaf l) r) ∧
          l1Get s col (ia l / 64) = none ∧
          (let h := homeGet s (leaf l) (homeKey (leaf l) (ia l / 64) (colTower col))
           isHbm h.pa = true ∧ h.poison = 0 ∧ rowDead s h.pa = false ∧ refuses s h.pa = none)) →
        Completes (.prf ct l2 m base off) s (fun t =>
          Sent s t c ct.e frees
            (laneRequests s c s.reqNo lanes (fun _ => .prefetch l2) ia 1 (fun l => policyOf s m.policy (leaf l) (ia l) false)
              (m.scope.getD .pkg) m.hint false false (fun _ => .none) leaf)
            s.reqNo [] false (fun _ => True))))

/-- `lbuf`, `sbuf`, `own` and `owt` (10 R272, 16 R461-R466) in a block's declared chunks on the thread side: `lbuf` gives each lane the
bytes at its address, zero-extended; `sbuf` puts each lane's bytes there, the last lane's where lanes overlap, and changes no other
byte; `own` hands chunks to the engine side; `owt` reads their owner bits. -/
def Obligations.TypedBuffers : Prop :=
  ∀ (s : State) (ct : Ctl) (f : Buf) (c : Ctx) (b : Block), c.g.super = false → blockOf s c.g.block = some b →
    (issueCtx s ct.pred.toNat ct.neg = some c →
      ∀ (mode : BufMode) (base : Src) (k : BitVec 10), mode.baseOk base = true →
      let n := modeBytes mode
      let at_ (l : Nat) := v1 (c.vals [⟨base, false⟩] l) % 2 ^ 32 + 4 * k.toNat + modeStep mode * l
      (∀ l ∈ laneList c.mask, at_ l + n ≤ 512 * declared b f ∧ at_ l % n = 0 ∧ ownerOf b f (at_ l / 512) = none) →
      (∀ d : Fin 384, (mode = .d → d.val % 2 = 0) →
        let rows := (DestReg.v d.val (mode == .d)).rows
        Ready s c true [⟨base, false⟩] [] rows →
        Completes (.lbuf ct mode f d base k) s (fun t => Done s t c ct.e (rows ++ (⟨base, false⟩ : Opnd).frees) [] [] (fun g' =>
          HoldsWords c g' (.v d) rows.length (fun l => bufRead b f (at_ l) n)))) ∧
      (∀ data : Src, data.noImm = true → f ≠ .wbuf →
        let srcs : List Opnd := [⟨base, false⟩, ⟨data, mode == .d⟩]
        Ready s c true srcs [] [] →
        Completes (.sbuf ct mode f base data k) s (fun t => OnlyGroup s { t with blocks := s.blocks } c.key ∧
          (∀ j, j ≠ c.g.block → ∃ u, blockOf t j = (blockOf s j).map (fun x => { x with units := u })) ∧
          (∃ b' u, blockOf t c.g.block = some b' ∧ b' = { b with bytes := b'.bytes, units := u } ∧
            ∀ a, nget b'.bytes a = match lastLane (laneList c.mask) (fun l => bufKey f (at_ l)) n a with
              | some l => v2 (c.vals srcs l) / 2 ^ (8 * (a - bufKey f (at_ l))) % 256
              | none => nget b.bytes a) ∧
          ∃ g', groupOf t c.key = some g' ∧ Kept c.g g' (srcs.flatMap Opnd.frees) [] [] ∧ GoesOn c ct.e g' ∧
            Popped c (srcs.flatMap Opnd.pops) g'))) ∧
    (issueCtx s 0 false = some c → ct.plain = true → ∀ (sf : Fin 128) (cnt : BitVec 10),
      let first := sreg c.g sf.val % 2 ^ 16
      first + cnt.toNat < declared b f →
      (Ready s c false [] [.s sf.val] [] →
        (∀ i, i ≤ cnt.toNat → ownerOf b f (first + i) = none) →
        Completes (.own ct f sf cnt) s (fun t => OnlyGroup s { t with blocks := s.blocks } c.key ∧
          (∀ j, j ≠ c.g.block → ∃ u, blockOf t j = (blockOf s j).map (fun x => { x with units := u })) ∧
          (∃ b' u, blockOf t c.g.block = some b' ∧ b' = { b with owner := b'.owner, units := u } ∧
            ∀ a, mget b'.owner a = if chunkKey f first ≤ a ∧ a ≤ chunkKey f first + cnt.toNat then some 0 else mget b.owner a) ∧
          ∃ g', groupOf t c.key = some g' ∧ Kept c.g g' [] [] [] ∧ GoesOn c ct.e g')) ∧
      (∀ d : Fin 128, cnt.toNat < 64 → Ready s c false [] [.s sf.val, .s d.val] [] →
        (∀ i, i ≤ cnt.toNat → ownerOf b f (first + i) = none → mget b.returned (chunkKey f (first + i)) = none) →
        Completes (.owt ct f d sf cnt) s (fun t => Done s t c ct.e [] [d.val] [] (fun g' => sreg g' d.val < 2 ^ 64 ∧
          ∀ i, i < 64 → (sreg g' d.val).testBit i = (decide (i ≤ cnt.toNat) && (ownerOf b f (first + i)).isSome)))))

/-- `fence`, `inv` and `flush` (11 R311, 16 R460, R468, R469): an acquire by `fence` or `inv` at scope `.twr` or wider leaves the column
no U copy, a release by `fence` or `flush` leaves it no dirty U copy, and a narrower one leaves the column's copies; the group then goes
on, or waits while requests of the column or its own bank-side commands are on their way. `inv` and `flush` of lines of which the
column holds no copy change none. -/
def Obligations.FencesAndCacheControl : Prop :=
  ∀ (s : State) (ct : Ctl) (c : Ctx) (scope : Option Scope),
    let col := coreCol c.core
    let wide := wideScope (scope.getD .pkg)
    let noCopy (t : State) : Prop := ∀ line x, line < 2 ^ 46 → l1Get t col line = some x → x.st ≠ .u
    let allClean (t : State) : Prop := ∀ line x, line < 2 ^ 46 → l1Get t col line = some x → x.st = .u → x.dirty = 0
    -- the group goes on, or waits for the column's requests and its own commands
    let ends (t : State) : Prop := ∃ g', groupOf t c.key = some g' ∧ (∀ n, sreg g' n = sreg c.g n) ∧ (∀ n, preg g' n = preg c.g n) ∧
      (GoesOn c ct.e g' ∨ ((∃ n rel acq, g'.status = .waiting (.drain n false rel acq)) ∧ GoesOn c ct.e (if ct.e then { g' with status := .ready } else g')))
    (issueCtx s 0 false = some c → ct.plain = true → Ready s c false [] [] [] →
      (∀ (sc : Bool) (ord : BitVec 2), ord ≠ 0 → (sc = true → ord = 3) → (ord.getLsbD 0 = true → c.g.awaiting = [] ∧
          c.g.pendingOrd = [] ∧ ∀ q ∈ c.g.queues, q.pending = []) →
        Completes (.fence ct sc ord scope) s (fun t => ends t ∧
          (wide = true → ord.getLsbD 0 = true → noCopy t) ∧
          (wide = true → ord.getLsbD 1 = true → allClean t) ∧
          (wide = false → t.l1 = s.l1))) ∧
      (c.g.pendingOrd = [] →
        Completes (.inv ct 0 scope .all) s (fun t => ends t ∧
          (wide = true → noCopy t) ∧ (wide = false → t.l1 = s.l1)) ∧
        Completes (.flush ct 0 scope .all) s (fun t => ends t ∧
          (wide = true → allClean t) ∧ (wide = false → t.l1 = s.l1)))) ∧
    (issueCtx s ct.pred.toNat ct.neg = some c → c.g.pendingOrd = [] →
      ∀ (base : Src) (off : BitVec 9) (ia : Nat → Nat) (leaf : Nat → Leaf), base.isReg = true → Ready s c true [⟨base, true⟩] [] [] →
      (∀ l ∈ laneList c.mask, l1Get s col (ia l / 64) = none ∧
        ∃ r, laneXlate c s (c.va base off l) 1 .read false false = .ok s (ia l) (leaf l) r) →
      Completes (.inv ct 0 scope (.line base off)) s (fun t => ends t ∧ t.l1 = s.l1) ∧
      Completes (.flush ct 0 scope (.line base off)) s (fun t => ends t ∧ t.l1 = s.l1) ∧
      (4 ≤ scopeCode (scope.getD .pkg) → Completes (.flush ct 0 scope (.wbi base off)) s (fun t => ends t ∧ t.l1 = s.l1 ∧
        t.reqNo = s.reqNo + laneCount c.mask)))

/-- The issue slot (06 R174, 09 R244-R249, R256, R263, 14 R415, R416): a free slot goes to the contender that R174 ranks first, which
goes on with its run, the lanes that are due at a meeting point released, or starts one at the lowest program counter of its lanes that
no meeting point holds; a group whose break or
wait has cleared becomes READY, and one whose cause stands stays; a supervisor starts for the oldest frozen group with what R263
gives it; a waiting push is accepted by a consumer with room, and pipe storage moves into a queue register with room.
In which order due events come is the model's choice (log 3). -/
def Obligations.IssueEvents : Prop :=
  ∀ (s : State) (core slot : Nat) (g : Group), slot < 64 →
    let k := gkey core slot
    let granted (g' : Group) (t : State) : Prop := (coreOf t core).issuing = some slot ∧ groupOf t k = some g'
    groupOf s k = some g →
    -- the grant
    (s.halted = false → s.thermal = false → s.strikes = [] → (coreOf s core).issuing = none →
      (∀ b ∈ resident s core, ∀ x, blockOf s b.1 = some x → x.task = none) →
      (slot, g) ∈ contenders s core → (∀ x ∈ contenders s core, x = (slot, g) ∨ grantBefore s core (slot, g) x = true) →
      (∀ r, g.run = some r → r.count ≠ 0 →
        Completes (.issueGrant core) s (granted { releaseHeld g with status := .issuing, yielded := false })) ∧
      (g.run = none → g.handler = none →
        let x (l : Nat) := laneAt g l
        let held (l : Nat) : Prop := (x l).live = true ∧ (x l).meet ≠ 0 ∧ (x l).pc = (x l).meet
        let freed (l : Nat) : Prop := held l ∧ ∀ j, j < 64 → (x j).live = true → (x j).meet = (x l).meet → held j
        let goes (l : Nat) : Prop := (x l).live = true ∧ (held l → freed l)
        (∀ u gs cs, u = { s with groups := gs, cores := cs } → ∃ w,
          fetchParcel u k (startRun g) (w64 (lowestPc (releaseHeld g) (candidates (releaseHeld g)))).toNat = .ok u w ∧
          w.toNat % 4 = 0 ∧ w.toNat.testBit 2 = true) →
        Completes (.issueGrant core) s (fun t => ∃ g' r, granted g' t ∧ g'.run = some r ∧ g'.status = .issuing ∧
          r.start = 0 ∧ r.count = 0 ∧ r.pre = none ∧
          (∀ l, l < 64 → (inMask r.active l = true ↔ goes l ∧ (x l).pc = r.pc)) ∧
          (∀ l, l < 64 → goes l → r.pc.toNat ≤ (x l).pc.toNat) ∧
          (∀ l, l < 64 → (laneAt g' l).pc = (x l).pc ∧ (laneAt g' l).live = (x l).live ∧
            (freed l → (laneAt g' l).meet = 0) ∧ (¬ freed l → (laneAt g' l).meet = (x l).meet))))) ∧
    -- a resumption
    (let ready (t : State) : Prop := OnlyGroup s t k ∧ groupOf t k = some { g with status := .ready, since := (coreOf s core).cycles };
      liveMask g ≠ 0 →
      (∀ rs, g.status = .broken (.operand rs) →
        ((∀ r ∈ rs, awaits g r = false) → Completes (.runResume core slot) s ready) ∧
        ((∃ r ∈ rs, awaits g r = true) → exec (.runResume core slot) s = .next s)) ∧
      (∀ q n, g.status = .broken (.queue q n) →
        (n ≤ (queueAt g q).entries.length → Completes (.runResume core slot) s ready) ∧
        ((queueAt g q).entries.length < n → queueDry s g q = false → exec (.runResume core slot) s = .next s)) ∧
      (∀ h, g.status = .waiting (.fget h) → handleFault s h = none →
        ((futOf s (handleEntry h)).state = .done → Completes (.runResume core slot) s ready) ∧
        ((futOf s (handleEntry h)).state ≠ .done → exec (.runResume core slot) s = .next s)) ∧
      (∀ f cs b, g.status = .waiting (.xwait f cs) → blockOf s g.block = some b →
        ((∀ c ∈ cs, ownerOf b f c = none) → Completes (.runResume core slot) s ready) ∧
        ((∃ c ∈ cs, ownerOf b f c ≠ none) → exec (.runResume core slot) s = .next s)) ∧
      (∀ n, g.status = .waiting (.sleep n) → Completes (.sleepExpire core slot) s (fun t => ∃ g', groupOf t k = some g' ∧
        g'.status = .ready ∧ n ≤ (coreOf t core).cycles ∧ g'.run = g.run ∧ g'.lanes = g.lanes ∧ Kept g g' [] [] []))) ∧
    Completes (.yieldTimeout core slot) s (fun t => groupOf t k = some { g with yielded := false } ∧ OnlyGroup s t k) ∧
    -- a supervisor
    (∀ rest, (coreOf s core).frozen = k :: rest → groupOf s (gkey core 32) = none → s.halted = false → s.thermal = false →
      let entry := mreg s (aCore (colTower (coreCol core)) 0)
      entry ≠ 0 → entry < 2 ^ 64 →
      Completes (.supervisorStart core) s (fun t => ∃ x, groupOf t (gkey core 32) = some x ∧ x.super = true ∧ x.width = 16 ∧
        x.exempt = 2048 ∧ x.status = .ready ∧ x.block = g.block ∧ (∀ n, vreg x n = 0) ∧
        (∀ l, l < 16 → (laneAt x l).live = true ∧ (laneAt x l).pc = w64 entry) ∧
        sreg x 0 = (coreCol core + coreLayer core * 2 ^ 16 + slot * 2 ^ 18) % 2 ^ 64 ∧
        sreg x 1 = g.trap.sub.toNat * 2 ^ 16 + g.trap.cause.toNat ∧
        sreg x 2 = g.trap.pc.toNat ∧ sreg x 3 = g.trap.addr.toNat ∧ sreg x 4 = g.trap.mask.toNat ∧ sreg x 5 = g.trap.lane % 2 ^ 64 ∧
        (∀ u, g.trap2 = some u → x.trap = u ∧ sreg x 6 = u.sub.toNat * 2 ^ 16 + u.cause.toNat ∧ sreg x 7 = u.pc.toNat ∧
          sreg x 8 = u.addr.toNat) ∧
        (coreOf t core).serves = some k ∧ (coreOf t core).frozen = rest)) ∧
    -- pipes
    (∀ b id' b' pipe prod cons depth q entries, blockOf s id' = some b' → b'.shares.find? (·.1 == pipe) = some (pipe, entries) →
      (∀ pc row acc m, g.waitRec = some (.push pc pipe row acc (2 ^ m)) → m < 8 → blockOf s g.block = some b →
        pipeOf s b pipe = some (prod, cons, depth, q) → memberBlock s b.launch b.index m = some (id', b') →
        (b'.state = .running ∨ b'.state = .staging) → (∀ e ∈ s.migs, e.2.block = id' → e.2.state ≠ .xfer) → entries.length < depth →
        Completes (.pushAccept core slot) s (fun t =>
          groupOf t k = some { g with waitRec := some (.push pc pipe row (acc ||| 2 ^ m) 0) } ∧
          ∃ b'' r, blockOf t id' = some b'' ∧
            b''.shares.find? (·.1 == pipe) = some (pipe, entries ++ [(g.index % max 1 b'.shape.groups, r)]) ∧
            ∀ l, l < 64 → laneOf r l = if l < b'.shape.width then laneOf row l else 0)) ∧
      (∀ gi row rest, pipeOf s b' pipe = some (prod, cons, depth, q) → b'.core = some core → b'.state = .running →
        entries = (gi, row) :: rest → b'.slots[gi]? = some slot → g.block = id' → q < g.queues.length →
        (queueAt g q).entries.length < 16 →
        Completes (.pipeDelivery id' pipe) s (fun t =>
          (∃ g', groupOf t k = some g' ∧ queueAt g' q = { queueAt g q with entries := (queueAt g q).entries ++ [row] } ∧
            (∀ p, p ≠ q → queueAt g' p = queueAt g p) ∧ Kept g g' [] [] [] ∧ g'.run = g.run ∧ g'.status = g.status) ∧
          ∃ b'', blockOf t id' = some b'' ∧ b''.shares.find? (·.1 == pipe) = some (pipe, rest))))

/-- The block-transfer engine (10 R276-R283, R291): a kick's descriptor becomes a request whose chunks it holds, a null request returns
its chunks, and a bad descriptor ends the launch with status 1; of the 16 requests at work the one whose turn it is issues its next
transaction, and goes to the end of the rotation with the last one of a chunk, or takes an answer; a chunk whose bytes are all read is
written and returns, the residency mask with the last; the bump of a scatter gives the row its slot.
One transaction of a request at a time is the model's choice (log 24). -/
def Obligations.TransferEngine : Prop :=
  ∀ (s : State) (core : Nat) (b : Block), s.halted = false → core < 1536 → (∀ f, declared b f ≤ 1024) →
    let col := coreCol core
    -- a kick
    (∀ k blk addr rest, (coreOf s core).kicks = (k, blk, addr) :: rest → blockOf s blk = some b →
      ((btesOf s core).filter (·.gate == 0)).length < 16 → kicksHeld s blk = false →
      (∀ e ∈ resident s core, e.2.recKicks = []) → (∀ r ∈ btesOf s core, r.id ≠ s.reqNo) →
      let x := bufRead b .gbuf addr 64
      let old := (btesOf s core).map (fun r => { r with gate := r.gate - 1 })
      (∀ d, parseDesc x = some d → descOk b d = true →
        (d.op ≠ 3 → Completes (.kickFetch core) s (fun t => (coreOf t core).kicks = rest ∧ .bteTransactionIssue core ∈ t.agenda ∧
          (∃ r, btesOf t core = old.filter (·.gate == 0) ++ [r] ++ old.filter (·.gate != 0) ∧ r.id = s.reqNo ∧ r.block = blk ∧
            r.desc = d ∧ r.next = 0 ∧ r.issued = 0 ∧ r.gate = 0) ∧
          ∃ b', blockOf t blk = some b' ∧ b'.kfet = (b.kfet + 1) % 1024 ∧ b'.bytes = b.bytes ∧ ∀ f ch, ch < 1024 →
            ownerOf b' f ch = if (f, ch) ∈ (descSpans d).flatMap spanChunks then some (2 + s.reqNo) else ownerOf b f ch)) ∧
        (d.op = 3 → b.exited < b.shape.groups → Completes (.kickFetch core) s (fun t => (coreOf t core).kicks = rest ∧
          btesOf t core = old ∧
          ∃ b', blockOf t blk = some b' ∧ b'.kfet = (b.kfet + 1) % 1024 ∧ b'.bytes = b.bytes ∧ ∀ f ch, ch < 1024 →
            ownerOf b' f ch = if f = d.buf ∧ d.nchk % 65536 ≤ ch ∧ ch < d.nchk % 65536 + d.nchk / 65536 % 65536 then none else ownerOf b f ch))) ∧
      (∀ l, parseDesc x = none → launchOf s b.launch = some l → l.handler = false → l.ended = none →
        Completes (.kickFetch core) s (fun t => ∃ l', launchOf t b.launch = some l' ∧ l'.ended = some 1))) ∧
    -- a transaction, or its answer
    (∀ r, nextReq s core = some r → (∀ y ∈ btesOf s core, y.id = r.id → y = r) → blockOf s r.block = some b →
      (r ∈ ((btesOf s core).filter (·.gate == 0)).take 16 ∧ r.stall = none ∧
        (r.answer = none → ∀ y ∈ ((btesOf s core).filter (·.gate == 0)).take 16, y.stall = none → y.answer = none ∧
          (reqBusy (decide (bteOutstanding s core < 512)) y = true → r.turn ≤ y.turn))) ∧
      (r.answer = none → r.again = [] → txEnd r.desc r.next = false → r.desc.op ≤ 1 →
        let d := r.desc
        let va := unitVa d (r.next / 4096)
        let first := pieceStart va (r.next % 4096)
        let n := pieceEnd va (fmtU d.fmt) (r.next % 4096) - first
        let kind : TxKind := if d.op = 0 then .read else .write (storePiece b d r.next)
        ∀ ia leaf a, (∀ u cs bt, u = { s with cores := cs, bte := bt } →
          translate u b.launch ((va + first) % 2 ^ 64) n (if d.op = 0 then .read else .write)
            { who := .bte core r.id r.next, tower := colTower col, ia := 0, va := (va + first) % 2 ^ 64, launch := b.launch, col := col
              layer := coreLayer core, slot := 0xFF, write := d.op != 0, atomic := false, nmo := false, fetch := false
              zf := d.zf, priv := b.priv || (launchOf s b.launch).elim false (·.handler) } r.walked = .ok u ia leaf a) →
        Completes (.bteTransactionIssue core) s (fun t =>
          t.reqs = s.reqs ++ [{ txReq s core r kind ia n leaf none with
            id := s.reqNo, tower := decide (d.op = 0) || homeTower leaf (ia / 64) (colTower col) == colTower col }] ∧
          ∃ n' turn, reqOf t core r.id =
              some { r with next := n', stall := some 4097, cur := r.next, walked := none, issued := r.issued + 1, turn := turn } ∧
            n' = nextTx d r.next ∧ if turnOf { r with next := n' } = turnOf r then turn = r.turn
              else ∀ y ∈ btesOf s core, y.turn < turn)) ∧
      (∀ v, r.answer = some v → r.desc.op = 0 → Completes (.bteTransactionIssue core) s (fun t =>
        reqOf t core r.id = some { r with answer := none, got := mset r.got r.cur v }))) ∧
    (∀ r, reqOf s core r.id = some r →
      -- a landing
      (∀ chunk, chunkReady r chunk = true → blockOf s r.block = some b → b.state = .running → b.exited < b.shape.groups →
        chunk < 1024 → s.strikes = [] →
        let d := r.desc
        let rest := r.chunks.filter (· != chunk)
        let last := d.zf = true ∧ rest = []
        Completes (.chunkLanding core r.id chunk) s (fun t =>
          (∃ b', blockOf t r.block = some b' ∧ ownerOf b' d.buf chunk = none ∧
            (¬ last ∨ d.buf ≠ .gbuf → ∀ i, i < 512 →
              nget b'.bytes (bufKey d.buf (512 * chunk + i)) = destByte r (512 * chunk + i - d.boff) % 256) ∧
            (¬ last → ∀ a, a < bufKey d.buf (512 * chunk) ∨ bufKey d.buf (512 * chunk) + 512 ≤ a →
              nget b'.bytes a = nget b.bytes a) ∧
            (last → ∀ i, i < maskBytes d →
              nget b'.bytes (bufKey .gbuf (d.auxa + i)) = packNat 1 (fun j => bit (resBit r (8 * i + j))) 8)) ∧
          reqOf t core r.id = if rest = [] then none else some { r with chunks := rest })) ∧
      -- the bump of a scatter
      (∀ v, r.phase = 1 → r.answer = some v → Completes (.scatterBumpReturn core r.id) s (fun t =>
        reqOf t core r.id = some { r with answer := none, phase := 2, slot := v } ∧ .bteTransactionIssue core ∈ t.agenda)))

/-- `xkick`, `xstage`, `xwait` and `xtest` (10 R277, R278, 11 R322, 17 R486-R489): a kick joins its core's queue; a stage hands the
destination chunks of its entries to the engine side and releases them as requests in order; a wait goes on when its selected chunks
are all on the thread side, else its group waits; a test tells it. A chunk found returned by a wide request is acquired. -/
def Obligations.TransferInstructions : Prop :=
  ∀ (s : State) (ct : Ctl) (c : Ctx) (b : Block), issueCtx s 0 false = some c → ct.plain = true → c.g.super = false →
    blockOf s c.g.block = some b →
    (∀ (base : Fin 128) (k : BitVec 12),
      let a := (sreg c.g base.val % 2 ^ 32 + 64 * k.toNat) % 2 ^ 32
      Ready s c false [] [.s base.val] [] → (coreOf s c.core).kicks.length < 64 → b.recKicks = [] → a + 64 ≤ 512 * b.shape.gbuf →
      ownerOf b .gbuf (a / 512) = none → (uncommitted s c.g = true → bufRead b .gbuf a 1 ≠ 1 ∧ bufRead b .gbuf a 1 ≠ 2) →
      Completes (.xkick ct base k) s (fun t => Done s t c ct.e [] [] [] (fun _ => True) ∧ .kickFetch c.core ∈ t.agenda ∧
        (coreOf t c.core).kicks = (coreOf s c.core).kicks ++ [(c.key, c.g.block, a)])) ∧
    (let ds := nextStage s b;
      Ready s c false [] [] [] → b.stage < 63 → ownedDest b ds = none → (∀ d ∈ ds, descOk (takeChunks b ds) d = true) →
      (∀ f, declared b f ≤ 1024) →
      Completes (.xstage ct) s (fun t =>
        DoneBlock s { t with bte := s.bte, reqNo := s.reqNo } c ct.e [] [] (fun b' => b'.stage = b.stage + 1 ∧ b'.bytes = b.bytes ∧
          ∀ f ch, ch < 1024 → ownerOf b' f ch =
            if (f, ch) ∈ (ds.flatMap descSpans).flatMap spanChunks then some 0 else ownerOf b f ch) (fun _ => True) ∧
        (∃ rs, btesOf t c.core = btesOf s c.core ++ rs ∧ rs.map (·.desc) = ds ∧ ∀ r ∈ rs, r.block = c.g.block ∧ r.next = 0) ∧
        ∀ k, k ≠ c.core → btesOf t k = btesOf s k)) ∧
    (∀ (f : Buf) (sf : Fin 128) (cnt : BitVec 10) (m : Option (Fin 128)), (m = none ∨ cnt.toNat < 64) →
      let picked (i : Nat) : Bool := decide (i ≤ cnt.toNat) && m.elim true (fun r => (sreg c.g r.val).testBit i)
      let ch (i : Nat) := sreg c.g sf.val % 2 ^ 16 + i
      let reads : List AReg := .s sf.val :: m.elim [] (fun r => [.s r.val])
      let all : Prop := ∀ i, picked i = true → ownerOf b f (ch i) = none
      let marked : Prop := ∃ i, picked i = true ∧ ownerOf b f (ch i) = none ∧ mget b.returned (chunkKey f (ch i)) ≠ none
      (∀ i, picked i = true → ch i < declared b f) →
      (Ready s c false [] reads [] → ct.e = true → c.r.count = 0 →
        (all → Completes (.xwait ct f sf cnt m) s (fun t =>
          (¬ marked → Done s t c ct.e [] [] [] (fun _ => True)) ∧
          (marked → (∃ g', groupOf t c.key = some g' ∧ Kept c.g g' [] [] [] ∧ GoesOn c ct.e g') ∧
            ∀ line x, line < 2 ^ 46 → l1Get t (coreCol c.core) line = some x → x.st ≠ .u))) ∧
        (¬ all → Completes (.xwait ct f sf cnt m) s (fun t => ∃ g' cs, groupOf t c.key = some g' ∧ Kept c.g g' [] [] [] ∧
          g'.run = some c.r ∧ g'.status = .waiting (.xwait f cs) ∧ ∀ n, n ∈ cs ↔ ∃ i, picked i = true ∧ n = ch i))) ∧
      (∀ d : Fin 128, Ready s c false [] (reads ++ [.s d.val]) [] → Completes (.xtest ct d f sf cnt m) s (fun t =>
        (∃ g', groupOf t c.key = some g' ∧ Kept c.g g' [] [d.val] [] ∧ GoesOn c ct.e g' ∧
          (all → sreg g' d.val = 1) ∧ (¬ all → sreg g' d.val = 0)) ∧
        (¬ marked → OnlyGroup s t c.key) ∧
        (marked → ∀ line x, line < 2 ^ 46 → l1Get t (coreCol c.core) line = some x → x.st ≠ .u))))

/-- `mma`, MMA_COMPLETE and `mmov` (13 R388, R389, 17 R474-R485): an `mma` whose operands pass the checks joins its core's queue and
takes its accumulator chunks; when its last busy cycle is done, each accumulator of its rows holds what its k-blocks leave, one after
another and each rounding twice, and the chunks return; `mmov` moves accumulator words to and from vector registers.
When operands are read is the model's reading (log 21), and so is the trap of stride 0 (log 26). -/
def Obligations.MatrixUnit : Prop :=
  ∀ (s : State) (b : Block),
    (∀ (ct : Ctl) (c : Ctx), issueCtx s ct.pred.toNat ct.neg = some c → c.g.super = false → blockOf s c.g.block = some b →
      (∀ (z : Bool) (f : EFmt) (acc : Fin 128) (x y : Fin 64),
        let core := coreOf s c.core
        let regs : List AReg := ([acc.val, 2 * x.val, 2 * y.val] ++ if mmaScaled f then [2 * x.val + 1, 2 * y.val + 1] else []).map .s
        let d := sreg c.g acc.val
        let hi (r : Fin 64) := if mmaScaled f then sreg c.g (2 * r.val + 1) else 0
        Ready s c false [] regs [] →
        (c.mask = 0 → Completes (.mma ct z f acc x y) s (fun t => Done s t c ct.e [] [] [] (fun g' => g'.mctx = c.g.mctx))) ∧
        (c.mask ≠ 0 → (∀ m, c.g.mctx = some m → m.state = 3 ∧ c.key ∉ core.mmas) → core.mmas.length < 4 →
          (c.g.exempt ≠ 0 ∨ core.charge + 15 < budgetValue s c.core) → 0 < c.g.width → d % 512 = 0 → d < 2 ^ 19 →
          d + 256 * c.g.width ≤ 512 * b.shape.cbuf → descCheck b f (sreg c.g (2 * x.val)) (hi x) (laneList c.mask) = none →
          descCheck b f (sreg c.g (2 * y.val)) (hi y) (List.range 64) = none →
          (∀ ch, d ≤ 512 * ch → 512 * ch < d + 256 * c.g.width → ownerOf b .cbuf ch = none ∨ ownerOf b .cbuf ch = some 1) →
          Completes (.mma ct z f acc x y) s (fun t =>
            DoneBlock s t c ct.e [] [] (fun b' => b'.bytes = b.bytes ∧ ∀ f' ch, ch < 1024 → ownerOf b' f' ch =
              if f' = .cbuf ∧ d ≤ 512 * ch ∧ 512 * ch < d + 256 * c.g.width then some 1 else ownerOf b f' ch) (fun g' =>
              ∃ m, g'.mctx = some m ∧ m.z = z ∧ m.fmt = f ∧ m.acc = w64 d ∧ m.a0 = w64 (sreg c.g (2 * x.val)) ∧ m.a1 = w64 (hi x) ∧
                m.b0 = w64 (sreg c.g (2 * y.val)) ∧ m.b1 = w64 (hi y) ∧ m.mask = c.mask ∧ m.written = m.done ∧ m.state = 1 ∧
                m.done = (List.range 4).map (fun r => if (laneList c.mask).any (fun l => l / 16 == r) then 0 else mmaK f / 8)) ∧
            (coreOf t c.core).mmas = core.mmas ++ [c.key]))) ∧
      (∀ (dir : MmovDir) (cnt : MmovCount) (base : Fin 128) (j0 : BitVec 6),
        let n := cnt.val
        let at_ (l : Nat) := sreg c.g base.val % 2 ^ 19 + 256 * l + 4 * j0.toNat
        let rows := (List.range n).map (dir.reg + ·)
        j0.toNat + n ≤ 64 → sreg c.g base.val % 4 = 0 → (∀ l ∈ laneList c.mask, at_ l + 4 * n ≤ 512 * b.shape.cbuf ∧
          ∀ i, i < n → ownerOf b .cbuf ((at_ l + 4 * i) / 512) = none) →
        (∀ r, dir = .ld r → Ready s c true [] [.s base.val] rows → Completes (.mmov ct dir cnt base j0) s (fun t =>
          Done s t c ct.e rows [] [] (fun g' => ∀ i, i < n → ∀ l, l < 64 → laneOf (vreg g' (r.val + i)) l =
            if inMask c.mask l then w32 (bufRead b .cbuf (at_ l + 4 * i) 4) else laneOf (vreg c.g (r.val + i)) l))) ∧
        (∀ r last, dir = .st r last → Ready s c true [] (.s base.val :: rows.map .v) [] → Completes (.mmov ct dir cnt base j0) s (fun t =>
          DoneBlock s t c ct.e (if last then rows else []) [] (fun b' => b'.owner = b.owner ∧
            (∀ l ∈ laneList c.mask, ∀ i, i < n → bufRead b' .cbuf (at_ l + 4 * i) 4 = (laneOf (vreg c.g (r.val + i)) l).toNat) ∧
            (∀ a, (∀ l ∈ laneList c.mask, a < bufKey .cbuf (at_ l) ∨ bufKey .cbuf (at_ l) + 4 * n ≤ a) →
              nget b'.bytes a = nget b.bytes a))
            (fun g' => last = true → ∀ q ∈ rows, vreg g' q = 0))))) ∧
    -- the end of a product
    (∀ (core k : Nat) (g : Group) (m : MCtx), (coreOf s core).mmas = [k] → keyCore k = core → groupOf s k = some g →
      g.mctx = some m → blockOf s g.block = some b → g.width ≤ 64 → m.acc.toNat + 256 * g.width ≤ 2 ^ 19 → 0 < g.width →
      m.done = List.replicate 4 (mmaK m.fmt / 8) →
      (∀ x ∈ descBytes m.fmt m.a0.toNat m.a1.toNat (laneList m.mask), x.1 + x.2 ≤ 2 ^ 20) →
      (∀ x ∈ descBytes m.fmt m.b0.toNat m.b1.toNat (List.range 64), x.1 + x.2 ≤ 2 ^ 20) →
      let at_ (i n : Nat) := m.acc.toNat + 256 * i + 4 * n
      -- an accumulator after the k-blocks that are not yet in cbuf
      let sum (i n : Nat) : Nat :=
        let lo := (m.written[i / 16]?).getD 0
        ((List.range (mmaK m.fmt / 8 - lo)).map (lo + ·)).foldl
          (fun v kb => kbAcc (if m.z && kb == 0 then 0 else v) (kbSum b m i n kb) % 2 ^ 32) (bufRead b .cbuf (at_ i n) 4)
      Completes (.mmaComplete core) s (fun t => (coreOf t core).mmas = [] ∧ groupOf t k = some { g with mctx := none } ∧
        ∃ b', blockOf t g.block = some b' ∧
          (∀ i, i < g.width → ∀ n, n < 64 → bufRead b' .cbuf (at_ i n) 4 =
            if inMask m.mask i then sum i n else bufRead b .cbuf (at_ i n) 4) ∧
          (∀ a, a < bufKey .cbuf (at_ 0 0) ∨ bufKey .cbuf (at_ g.width 0) ≤ a → nget b'.bytes a = nget b.bytes a) ∧
          (∀ ch, m.acc.toNat < 512 * ch + 512 → 512 * ch < m.acc.toNat + 256 * g.width → ownerOf b' .cbuf ch = none)))

/-- `nmo` (05 R139, 17 R490-R492): with every command's translation at hand in HBM4E, inside its range's scope and its bank's queue, it
sends one command a beat of 16 lanes with the operation, the scalar and the lanes' elements, or one command a lane with the values to
compare and to write, whose old word the destination awaits; nothing else changes. -/
def Obligations.BankSideCommands : Prop :=
  ∀ (s : State) (ct : Ctl) (op : NmoOp) (base : Fin 128) (c : Ctx) (ia : Nat → Nat) (leaf : Nat → Leaf),
    issueCtx s ct.pred.toNat ct.neg = some c → (Instr.nmo ct op base).wf = true → c.g.pendingOrd = [] → uncommitted s c.g = false →
    let va := sreg c.g base.val
    let scope := (prefixM c.pre 0).scope.getD .pkg
    -- a command of `n` bytes at an offset of the base
    let sound (offset n j : Nat) : Prop := (va + offset) % 2 ^ 64 % n = 0 ∧
      (∃ r, laneXlate c s ((va + offset) % 2 ^ 64) n .write true true = .ok s (ia j) (leaf j) r ∧ scopeCode scope ≤ r.atsc) ∧
      isHbm ((leaf j).pa52 (ia j)) = true ∧ (leaf j).repl = false ∧ bankCount s (bankOf ((leaf j).pa52 (ia j))) < 16
    let sent (t : State) (srcs : List Opnd) (cmds : List BankCmd) (post : Group → Prop) : Prop :=
      t.bankCmds = s.bankCmds ++ cmds ∧ t.reqNo = s.reqNo + cmds.length ∧
      OnlyGroup s { t with bankCmds := s.bankCmds, reqNo := s.reqNo } c.key ∧
      ∃ g', groupOf t c.key = some g' ∧ Kept c.g { g' with awaiting := c.g.awaiting } (srcs.flatMap Opnd.frees) [] [] ∧
        GoesOn c ct.e g' ∧ Popped c (srcs.flatMap Opnd.pops) g' ∧ post g'
    let elementwise (k : NmoKind) (x : Src) (a : Option (Fin 128)) : Prop :=
      let beats := (List.range 4).filter (fun g => (laneList c.mask).any (fun l => l / 16 == g))
      Ready s c true [⟨x, false⟩] (.s base.val :: a.elim [] (fun r => [.s r.val])) [] → (∀ g ∈ beats, sound (64 * g) 64 g) →
      Completes (.nmo ct op base) s (fun t => sent t [⟨x, false⟩] (beats.zipIdx.map (fun p =>
        { id := s.reqNo + p.2, group := some c.key, line := ia p.1 / 64, leaf := leaf p.1, op := k
          c := a.elim 0 (fun r => sreg c.g r.val % 2 ^ 32), w := 0, off := 0
          data := BitVec.ofNat 512 (packNat 32 (fun i => v1 (c.vals [⟨x, false⟩] (16 * p.1 + i)) % 2 ^ 32) 16)
          mask := BitVec.ofNat 64 (packNat 4 (fun i => if inMask c.mask (16 * p.1 + i) then 15 else 0) 16)
          dest := .none, launch := groupLaunch s c.g, queued := false })) (fun g' => g'.awaiting = c.g.awaiting))
    let exchange (k : NmoKind) (n : Nat) (d : Fin 384) (x : Src) (w : Reg) : Prop :=
      let srcs : List Opnd := [⟨x, n == 8⟩, ⟨w.toSrc, n == 8⟩]
      let lanes := laneList c.mask
      let rows := (List.range (n / 4)).map (d.val + ·)
      let cmds : List BankCmd := lanes.zipIdx.map (fun p =>
        { id := s.reqNo + p.2, group := some c.key, line := ia p.1 / 64, leaf := leaf p.1, op := k
          c := v1 (c.vals srcs p.1), w := v2 (c.vals srcs p.1), off := ia p.1 % 64, data := 0, mask := byteMask (ia p.1 % 64) n
          dest := .lane d.val p.1 n false, launch := groupLaunch s c.g, queued := false })
      (n = 8 → d.val % 2 = 0) → Ready s c true srcs [.s base.val] rows → (∀ l ∈ lanes, sound (n * l) n l) →
      Completes (.nmo ct op base) s (fun t => sent t srcs cmds (fun g' =>
        g'.awaiting = c.g.awaiting ++ cmds.flatMap (fun b => rows.map (fun r => (AReg.v r, b.id)))))
    match op with
    | .addF32 x => elementwise .addF32 x none
    | .addBf16x2 x => elementwise .addBf16x2 x none
    | .addS32 x => elementwise .addS32 x none
    | .maxF32 x => elementwise .maxF32 x none
    | .maxS32 x => elementwise .maxS32 x none
    | .saccF32 x a => elementwise .saccF32 x (some a)
    | .saccBf16 x a => elementwise .saccBf16 x (some a)
    | .cas32 d x w => exchange .cas32 4 d x w
    | .cas64 d x w => exchange .cas64 8 d x w

/-- Requests at home (11 R309, R310, R315, R317; 16 R452, R455, R459; 04 R106; 01 R31): home answers a load with the line's bytes, takes a
store's bytes or grants the line, performs an atomic operation and answers with the old value, applies a push, sends a peer's
request out, and serves a request that waited for a drain; the other tower obtains the tower-level state it needs; an answer reaches
its register, its request of the transfer engine, or, poisoned, ends its launch with status 2; complete entries of a queue register
land in order.
The order in which requests reach homes is the model's choice (log 3, log 91). -/
def Obligations.HomeEvents : Prop :=
  ∀ (s : State) (r : Req) (h : HomeLine),
    let n := maskLen r.mask
    let old := lineField h.data (maskOff r.mask) n
    let clean := h.poison &&& wordsOf r.mask = 0
    let returned (t : State) : Prop := .loadReturn ∈ t.agenda ∧
      t.rets = s.rets ++ [⟨r.id, r.group, r.dest, some old, r.acquire, r.scope, r.col, r.launch⟩]
    let homeHas (t : State) (x : Line) : Prop := ∃ h', mget t.home r.line = some h' ∧ h'.data = x ∧ h'.dirty = true
    let answered : Prop := r.dest ≠ .none ∧ ∀ f, r.dest ≠ .peer f
    (∀ rest, s.reqs = r :: rest →
      (AtHome s r h → drainFirst r h = none →
        (r.kind = .load → clean → answered → Completes .homeRequest s returned) ∧
        (∀ d, r.kind = .store d → r.dest = .none → r.acquire = false →
          (r.policy = .wt ∨ r.release = true ∨ r.hint = .noAllocate →
            Completes .homeRequest s (fun t => homeHas t (mergeLine r.mask d h.data))) ∧
          (r.policy = .own ∨ r.policy = .winv → r.release = false → (withQuota s r).hint ≠ .noAllocate →
            Completes .homeRequest s (fun t => ∃ x, l1Get t r.col r.line = some x ∧ x.st = .m ∧ x.data = mergeLine r.mask d h.data))) ∧
        ((∃ op x, r.kind = .atomic op x) ∨ (∃ x w, r.kind = .cas x w) → r.policy ≠ .own → clean → answered →
          Completes .homeRequest s (fun t => returned t ∧
            homeHas t (mergeLine r.mask (linePlace (rmwKind r.kind n old) (maskOff r.mask) n) h.data))) ∧
        (∀ d p, r.kind = .push d p → Completes .pushApply s (fun t => homeHas t (mergeLine r.mask d h.data)))) ∧
      (∀ p, r.peer = some p → (∀ d x, r.kind ≠ .push d x) → waitsPeers s r = false → ready s r = true → s.strikes = [] →
        Completes .homeRequest s (fun t =>
        t.reqs = rest ∧ t.peerOut = s.peerOut ++ [(p, r.col, nget s.tags (r.col * 256 + p), r)])) ∧
      (let h := homeGet s r.leaf r.line
       let a := if r.col < 384 then colTower r.col else h.ht
       r.tower = false → r.leaf.repl = false → isHbm (homePa r.leaf r.line) = true →
       stackState s (stackOf (homePa r.leaf r.line)) = 0 → h.ht < 2 →
       Completes .towerRequest s (fun t => (∃ r' ∈ t.reqs, r'.id = r.id ∧ r'.tower = true) ∧
        ∃ h', mget t.home r.line = some h' ∧ (inL2 s r.line = true → holders s (r.line % 2 ^ 46) = [] → h'.data = h.data) ∧
          (treqOf r = .shared → moesiOf h' a ≠ .i) ∧
          (treqOf r = .exclusive → (moesiOf h' a = .m ∨ moesiOf h' a = .e) ∧
            (moesiOf h a ≠ .m → moesiOf h a ≠ .e → moesiOf h' (1 - a) = .i)) ∧
          (treqOf r = .atHome → moesiOf h' h.ht = .m ∧ moesiOf h' (1 - h.ht) = .i)))) ∧
    (∀ rest col n, s.held = (r, .drain col n) :: rest → drained s (r, .drain col n) = true → AtHome { s with held := rest } r h →
      (∀ z, h.lazy = some z → z.1 = col) → h.lazyNo < n → r.kind = .load → clean → answered →
      Completes .drainAck s (fun t => returned t ∧ ∃ h', mget t.home r.line = some h' ∧ h'.lazy = none)) ∧
    (∀ (x : Ret) (rest : List Ret), s.rets = x :: rest →
      (∀ k g v, x.group = some k → groupOf s k = some g → x.value = some v → x.acquire = false → (∃ a ∈ g.awaiting, a.2 = x.id) →
        let kept (g' : Group) (rows scalars : List Nat) : Prop :=
          Kept g { g' with awaiting := g.awaiting, pendingOrd := g.pendingOrd } rows scalars [] ∧
          g'.awaiting = g.awaiting.filter (fun a => a.2 != x.id)
        (∀ d l bytes, x.dest = .lane d l bytes false → bytes = 4 ∨ bytes = 8 ∨ bytes = 16 → l < 64 →
          Completes .loadReturn s (fun t => OnlyGroup s { t with rets := s.rets } k ∧ ∃ g', groupOf t k = some g' ∧
            kept g' ((List.range (bytes / 4)).map (d + ·)) [] ∧ ∀ i, i < bytes / 4 → ∀ j, j < 64 →
              laneOf (vreg g' (d + i)) j = if j = l then w32 (v / 2 ^ (32 * i)) else laneOf (vreg g (d + i)) j)) ∧
        (∀ d bytes, x.dest = .scalar d bytes false → Completes .loadReturn s (fun t =>
          OnlyGroup s { t with rets := s.rets } k ∧ ∃ g', groupOf t k = some g' ∧ kept g' [] [d] ∧ sreg g' d = v % 2 ^ 64))) ∧
      (∀ core q v, x.group = none → x.dest = .bte core q.id → x.value = some v → reqOf s core q.id = some q →
        Completes .loadReturn s (fun t => reqOf t core q.id = some { q with stall := none, answer := some v })) ∧
      (∀ k g l, x.group = some k → groupOf s k = some g → x.value = none → launchOf s x.launch = some l → l.handler = false →
        l.ended = none → Completes .loadReturn s (fun t => ∃ l', launchOf t x.launch = some l' ∧ l'.ended = some 2))) ∧
    (∀ k g, groupOf s k = some g → g.queues.length = 8 → Completes .ldqLand s (fun t => ∃ g', groupOf t k = some g' ∧
      Kept g g' [] [] [] ∧ g'.run = g.run ∧ ∀ q, q < 8 →
        let whole := (queueAt g q).pending.takeWhile (fun p => p.2.1 == 0)
        queueAt g' q = { queueAt g q with
          entries := (queueAt g q).entries ++ whole.map (·.2.2), pending := (queueAt g q).pending.drop whole.length }))

/-- Tasks and futures (08 R211-R219, R225, 18 R500-R505): `spawn` with its descriptor at hand makes the handle of the lowest free entry
of its column, holds one reference to it and creates the task, or returns 0 when no entry is free; `fget` waits for DONE, then
delivers the result; `fpoll` tells it; `fret` and `frel` add and drop a reference in the list and in COUNT; `fset` writes the
result of the task's own entry; `commit` makes a running task committed; a doomed task stops at `commit` or `rclm`. -/
def Obligations.Futures : Prop :=
  ∀ (s : State) (ct : Ctl) (c : Ctx), issueCtx s 0 false = some c → ct.plain = true → sortedKeys s.groups = true →
    let refs (g' : Group) (h : Nat) := refOf g' h
    let others (g' : Group) (h : Nat) : Prop := ∀ j, j ≠ h → refOf g' j = refOf c.g j
    -- spawn
    (∀ (d a x y : Fin 128) (b : Block) (kn : Kernel) (v : Nat) (shape : Shape), c.g.super = false → blockOf s c.g.block = some b →
      kernelOf s b = some kn → kn.maySpawn = true → c.g.fetched = some v → parseTask v c.g.width = some shape →
      Ready s c false [] [.s a.val, .s x.val, .s y.val, .s d.val] [] →
      let col := coreCol c.core
      (freeFuture s col = none → Completes (.spawn ct d a x y) s (fun t => ∃ g', groupOf t c.key = some g' ∧
        Kept c.g g' [] [d.val] [] ∧ GoesOn c ct.e g' ∧ sreg g' d.val = 0)) ∧
      (∀ e, freeFuture s col = some e → b.depth < 8 → listRoom s c.key c.g = true → (engineOf s (colEngine col)).placing = none →
        let k := col * 1024 + e
        let h := 2 ^ 31 + col / 192 * 2 ^ 30 + col % 192 * 2 ^ 22 + e * 2 ^ 12 + (futOf s k).tag * 2 ^ 6 + (b.depth + 1) * 4
        Completes (.spawn ct d a x y) s (fun t =>
          (∃ g', groupOf t c.key = some g' ∧ Kept c.g { g' with refs := c.g.refs } [] [d.val] [] ∧ GoesOn c ct.e g' ∧
            sreg g' d.val = h % 2 ^ 64 ∧ g'.fetched = none ∧ (refOf c.g h = none → refs g' h = some 1 ∧ others g' h)) ∧
          (let f := futOf t k; f.count = 1 ∧ f.tag = (futOf s k).tag ∧ f.depth = b.depth + 1 ∧ f.task = s.blockNo ∧
            (f.state = .queued ∨ f.state = .running)) ∧
          ∃ b', blockOf t s.blockNo = some b' ∧ b'.shape = shape ∧ b'.task = some k ∧ b'.depth = b.depth + 1 ∧
            b'.launch = b.launch ∧ b'.init = [w64 (sreg c.g x.val), w64 (sreg c.g y.val), w64 h]))) ∧
    -- consumers
    (∀ (d hr : Fin 128),
      let v := sreg c.g hr.val % 2 ^ 32
      let k := handleEntry v
      let f := futOf s k
      let noCopy (t : State) : Prop := ∀ line x, line < 2 ^ 46 → l1Get t (coreCol c.core) line = some x → x.st ≠ .u
      handleFault s v = none →
      (ownHandle s c.g v = false → Ready s c false [] [.s hr.val, .s d.val] [] →
        (ct.e = true → c.r.count = 0 →
          (f.state = .done → Completes (.fget ct d hr) s (fun t => noCopy t ∧ ∃ g', groupOf t c.key = some g' ∧
            Kept c.g g' [] [d.val] [] ∧ GoesOn c ct.e g' ∧ sreg g' d.val = f.result.toNat)) ∧
          (f.state ≠ .done → Completes (.fget ct d hr) s (fun t => ∃ g', groupOf t c.key = some g' ∧ Kept c.g g' [] [] [] ∧
            g'.run = some c.r ∧ g'.status = .waiting (.fget v)))) ∧
        (f.state = .done → Completes (.fpoll ct d hr) s (fun t => noCopy t ∧ ∃ g', groupOf t c.key = some g' ∧
          Kept c.g g' [] [d.val] [] ∧ GoesOn c ct.e g' ∧ sreg g' d.val = 1)) ∧
        (f.state ≠ .done → Completes (.fpoll ct d hr) s (fun t => Done s t c ct.e [] [d.val] [] (fun g' => sreg g' d.val = 0)))) ∧
      ((c.g.refs.map (·.1)).Nodup → Ready s c false [] [.s hr.val] [] →
        let changed (t : State) (n : Option Nat) : Prop := ∃ g', groupOf t c.key = some g' ∧
          Kept c.g { g' with refs := c.g.refs } [] [] [] ∧ GoesOn c ct.e g' ∧ refs g' v = n ∧ others g' v
        (f.count < 65535 → ((refOf c.g v).isSome = true ∨ listRoom s c.key c.g = true) → Completes (.fret ct hr) s (fun t =>
          OnlyGroup s { t with futures := s.futures } c.key ∧ futOf t k = { f with count := f.count + 1 } ∧
          (∀ j, j ≠ k → futOf t j = futOf s j) ∧ changed t (some ((refOf c.g v).getD 0 + 1)))) ∧
        (∀ n, refOf c.g v = some n → Completes (.frel ct hr) s (fun t =>
          changed t (if n ≤ 1 then none else some (n - 1)) ∧ (∀ j, j ≠ k → futOf t j = futOf s j) ∧
          (1 < f.count → futOf t k = { f with count := f.count - 1 }) ∧
          (f.count ≤ 1 → f.state = .done → (futOf t k).state = .free ∧ (futOf t k).tag = (f.tag + 1) % 64) ∧
          (f.count ≤ 1 → f.state = .queued ∨ f.state = .running → (futOf t k).state = .doomed))))) ∧
    -- the task's own entry
    (∀ (x : Fin 128) (b : Block), c.g.super = false → blockOf s c.g.block = some b →
      (∀ e, b.task = some e → (futOf s e).task = c.g.block → (futOf s e).state ≠ .free →
        let ends (i : Instr) (f : Future) : Prop := Completes i s (fun t => Done s { t with futures := s.futures } c ct.e [] [] [] (fun _ => True) ∧
          futOf t e = f ∧ ∀ j, j ≠ e → futOf t j = futOf s j)
        let stops (i : Instr) : Prop := Completes i s (fun t => ∃ g', groupOf t c.key = some g' ∧ g'.run = none ∧ g'.status = .ready ∧
          Kept c.g g' [] [] [] ∧ futOf t e = futOf s e)
        (Ready s c false [] [.s x.val] [] → ends (.fset ct x) { futOf s e with result := w64 (sreg c.g x.val) }) ∧
        (Ready s c false [] [] [] →
          ((futOf s e).state ≠ .doomed →
            ends (.commit ct) { futOf s e with state := if (futOf s e).state = .running then .committed else (futOf s e).state } ∧
            ends (.rclm ct) (futOf s e)) ∧
          ((futOf s e).state = .doomed → stops (.commit ct) ∧ stops (.rclm ct)))) ∧
      (b.task = none → Ready s c false [] [] [] → ∀ i, i = .commit ct ∨ i = .rclm ct →
        Completes i s (fun t => Done s t c ct.e [] [] [] (fun _ => True))))

/-- `bar`, `barx`, BARRIER_ARRIVAL, `push` and `qlen` (08 R229-R231, 09 R256, 18 R499, R506-R509): the arrival that completes a block
barrier goes on and begins its next instance, an earlier one waits; `barx` arrives at its object and waits until the phase changes;
an arrival at home sets its member's bit, and the last of all members changes the phase and clears the bits; a push is accepted by
each named consumer with room, or waits; `qlen` counts a queue register's entries. -/
def Obligations.BarriersAndPipes : Prop :=
  ∀ (s : State) (ct : Ctl),
    (∀ (c : Ctx) (b : Block), issueCtx s 0 false = some c → ct.plain = true → c.g.super = false → blockOf s c.g.block = some b →
      (∀ (count : BitVec 5) (id : BitVec 3) (x : Barrier), ct.e = true → c.r.count = 0 → b.barriers[id.toNat]? = some x →
        Ready s c false [] [] [] →
        let waits (t : State) (b' : Block → Prop) : Prop :=
          (∃ g', groupOf t c.key = some g' ∧ Kept c.g g' [] [] [] ∧ g'.run = some c.r ∧ g'.status = .waiting .bar ∧
            g'.waitRec = some (.bar id.toNat x.gen)) ∧ ∃ y, blockOf t c.g.block = some y ∧ b' y
        (c.g.waitRec = none → count.toNat ≤ b.shape.groups → (x.arrived = 0 ∨ x.count = count.toNat) →
          let now := x.arrived ||| 2 ^ c.g.index
          let whole : Prop := popCount now 16 ≠ 0 ∧ popCount now 16 = if count = 0 then b.shape.groups - b.exited else count.toNat
          (whole → Completes (.bar ct count id) s (fun t => DoneBlock s t c ct.e [] [] (fun b' =>
            ∃ y, b'.barriers[id.toNat]? = some y ∧ y.gen = (x.gen + 1) % 256 ∧ y.arrived = 0) (fun _ => True))) ∧
          (¬ whole → Completes (.bar ct count id) s (fun t => waits t (fun b' =>
            ∃ y, b'.barriers[id.toNat]? = some y ∧ y.gen = x.gen ∧ y.arrived = now)))) ∧
        (∀ gen, c.g.waitRec = some (.bar id.toNat gen) → x.gen ≠ gen → Completes (.bar ct count id) s (fun t =>
          Done s t c ct.e [] [] [] (fun g' => g'.waitRec = none)))) ∧
      (∀ (a : Fin 128) (m : Member), ct.e = true → c.r.count = 0 →
        Ready s c false [] (.s a.val :: (match m with | .s n => [.s n.val] | .imm _ => [])) [] →
        let va := sreg c.g a.val
        (∀ ia leaf r, c.g.waitRec = none → va % 128 = 0 → uncommitted s c.g = false → laneXlate c s va 128 .write true false = .ok s ia leaf r →
          leaf.repl = false → isHbm (leaf.pa52 ia) = true → Completes (.barx ct a m) s (fun t =>
            .barrierArrival ∈ t.agenda ∧
            (∃ z, t.arrivals = s.arrivals ++ [z] ∧ z.who = .group c.key ∧ z.ia = ia ∧ z.leaf = leaf ∧ z.stamp = t.dtc ∧
              z.peer = none ∧ z.member = match m with | .s n => sreg c.g n.val | .imm i => immVal i) ∧
            ∃ g', groupOf t c.key = some g' ∧ Kept c.g g' [] [] [] ∧ g'.run = some c.r ∧ g'.status = .waiting .barx)) ∧
        (∀ v ia leaf phase peer told, c.g.waitRec = some (.barx v ia leaf phase peer told) →
          told = true ∨ (peer = false ∧ objPhase s leaf ia ≠ phase) → Completes (.barx ct a m) s (fun t =>
            (∀ line x, line < 2 ^ 46 → l1Get t (coreCol c.core) line = some x → x.st ≠ .u) ∧
            ∃ g', groupOf t c.key = some g' ∧ Kept c.g g' [] [] [] ∧ GoesOn c ct.e g' ∧ g'.waitRec = none))) ∧
      (∀ (d : Fin 128) (q : Fin 8), Ready s c false [] [.s d.val] [] → Completes (.qlen ct d q) s (fun t =>
        Done s t c ct.e [] [d.val] [] (fun g' => let y := queueAt c.g q.val
          sreg g' d.val = (y.entries.length + y.pending.length * 2 ^ 8 + (if y.pipe then 2 ^ 16 else 0) +
            (if y.entries = [] ∧ queueDry s c.g q.val = true then 2 ^ 17 else 0)) % 2 ^ 64)))) ∧
    (∀ (c : Ctx) (b : Block) (v : Src) (mask : BitVec 8) (pipe : BitVec 4) (cons depth q : Nat) (ids : Nat → Nat) (bs : Nat → Block)
        (held : Nat → List (Nat × Row)),
      issueCtx s ct.pred.toNat ct.neg = some c → ct.e = true → c.r.count = 0 → c.g.super = false → blockOf s c.g.block = some b →
      c.g.waitRec = none → sortedKeys s.blocks = true → isGang s b = true → b.task = none → pipeOf s b pipe.toNat = some (b.member, cons, depth, q) →
      let want := if mask = 0 then cons else mask.toNat
      want &&& cons = want → want < 256 → Ready s c false [⟨v, false⟩] [] [] →
      (∀ m, m < 8 → want.testBit m = true → memberBlock s b.launch b.index m = some (ids m, bs m) ∧ blockOf s (ids m) = some (bs m) ∧
        ((bs m).state = .running ∨ (bs m).state = .staging) ∧ (∀ e ∈ s.migs, e.2.block = ids m → e.2.state ≠ .xfer) ∧
        (bs m).shares.find? (·.1 == pipe.toNat) = some (pipe.toNat, held m)) →
      let room (m : Nat) : Prop := (held m).length < depth
      let given (t : State) (m : Nat) : Prop := ∃ b' r, blockOf t (ids m) = some b' ∧
        b'.shares.find? (·.1 == pipe.toNat) = some (pipe.toNat, held m ++ [(c.g.index % max 1 (bs m).shape.groups, r)]) ∧
        ∀ l, l < 64 → laneOf r l = if l < (bs m).shape.width ∧ inMask c.mask l = true then w32 (v1 (c.vals [⟨v, false⟩] l)) else 0
      ((∀ m, m < 8 → want.testBit m = true → room m) → Completes (.push ct v mask pipe) s (fun t =>
        OnlyGroup s { t with blocks := s.blocks } c.key ∧ (∀ m, m < 8 → want.testBit m = true → given t m) ∧
        ∃ g', groupOf t c.key = some g' ∧ Kept c.g g' ((⟨v, false⟩ : Opnd).frees) [] [] ∧ GoesOn c ct.e g' ∧
          Popped c ((⟨v, false⟩ : Opnd).pops) g')) ∧
      ((∃ m, m < 8 ∧ want.testBit m = true ∧ ¬ room m) → Completes (.push ct v mask pipe) s (fun t =>
        (∀ m, m < 8 → want.testBit m = true → room m → given t m) ∧
        ∃ g' row got left, groupOf t c.key = some g' ∧ Kept c.g g' [] [] [] ∧ g'.run = some c.r ∧ g'.status = .waiting .push ∧
          g'.waitRec = some (.push c.pc pipe.toNat row got left) ∧
          ∀ m, m < 8 → (left.testBit m = true ↔ want.testBit m = true ∧ ¬ room m)))) ∧
    (∀ (a : Arrival) (k : Nat) (g : Group), s.arrivals = [a] → arrivalHeld s a = false → a.who = .group k → a.peer = none →
      groupOf s k = some g → refuses s (homePa a.leaf (a.ia / 64)) = none → holders s (a.ia / 64) = [] → holders s (a.ia / 64 + 1) = [] →
      (∀ i, i < 2 → inL2 s (a.ia / 64 + i) = true ∨ (mget s.home (a.ia / 64 + i) = none ∧
        let h := homeGet s a.leaf (a.ia / 64 + i)
        s.home.length + 1 < min 16 (l2Quota s h.ht h.cls))) →
      let object (t : State) := (homeGet t a.leaf (a.ia / 64)).data.toNat + (homeGet t a.leaf (a.ia / 64 + 1)).data.toNat * 2 ^ 512
      let x := object s
      let n := objFld x 0 1
      let now := objFld x 2 2 ||| 2 ^ a.member
      (homeGet s a.leaf (a.ia / 64)).poison = 0 → (homeGet s a.leaf (a.ia / 64 + 1)).poison = 0 → objMalformed x a.member = false →
      (objFld x 2 2).testBit a.member = false →
      Completes .barrierArrival s (fun t => t.arrivals = [] ∧
        groupOf t k = some { g with waitRec := some (.barx (w64 a.va) a.ia a.leaf (x.testBit 8) false false) } ∧
        (now &&& (2 ^ n - 1) = 2 ^ n - 1 → objFld (object t) 2 2 = 0 ∧ (object t).testBit 8 = !x.testBit 8) ∧
        (now &&& (2 ^ n - 1) ≠ 2 ^ n - 1 → objFld (object t) 2 2 = now ∧ (object t).testBit 8 = x.testBit 8)))

/-- `trap` and `eret` (09 R258-R263, 18 R510, R511): a trap records cause, subcode, lane, mask, program counter and address, and the group
goes on at its trap entry, each lane's meeting address kept; with no entry it ends the launch with status 1; inside a handler it
freezes the group, for which a supervisor is due. With an empty stream mask `trap` does nothing. The last handler lane's `eret` ends
the handler: its lanes take TPC, meeting addresses return, and the trapped lanes resume at TPC from TLANE; an earlier lane's `eret`
holds its lanes. -/
def Obligations.TrapAndReturn : Prop :=
  ∀ (s : State) (ct : Ctl) (c : Ctx),
    (∀ code : BitVec 12, issueCtx s ct.pred.toNat ct.neg = some c → Ready s c false [] [] [] →
      let tr : Trap := ⟨1, 0x70, firstLane c.mask, c.mask, c.tpc, w64 code.toNat⟩
      (c.mask = 0 → Completes (.trap ct code) s (fun t => Done s t c ct.e [] [] [] (fun _ => True))) ∧
      (c.mask ≠ 0 →
        (∀ entry, trapsTo s c entry → Completes (.trap ct code) s (fun t =>
          OnlyGroup s { t with mgmt := s.mgmt } c.key ∧ ∃ g', groupOf t c.key = some g' ∧ Entered c entry tr g')) ∧
        (∀ b k l, c.g.super = false → c.g.handler = none → blockOf s c.g.block = some b → kernelOf s b = some k → k.trapEntry = 0 →
          launchOf s b.launch = some l → l.handler = false → l.ended = none → Completes (.trap ct code) s (fun t =>
            ∃ l', launchOf t b.launch = some l' ∧ l'.ended = some 1)) ∧
        (c.g.super = false → c.g.handler.isSome = true → Completes (.trap ct code) s (fun t =>
          (∃ g', groupOf t c.key = some g' ∧ g'.status = .frozen 0x1F ∧ g'.run = none ∧ g'.trap = c.g.trap ∧ g'.trap2 = some tr) ∧
          (coreOf t (keyCore c.key)).frozen = (coreOf s (keyCore c.key)).frozen ++ [c.key] ∧
          .supervisorStart (keyCore c.key) ∈ t.agenda)))) ∧
    (∀ h, issueCtx s 0 false = some c → ct.plain = true → ct.e = true → c.g.handler = some h → Ready s c false [] [] [] →
      let stays : Prop := ∃ l, l < 64 ∧ (laneAt c.g l).live = true ∧ inMask h.lanes l = true ∧ inMask h.returned l = false ∧
        inMask c.r.active l = false
      let back : LaneMask := h.active &&& liveMask c.g
      Completes (.eret ct) s (fun t => OnlyGroup s t c.key ∧ ∃ g', groupOf t c.key = some g' ∧ g'.status = .ready ∧
        Kept c.g { g' with handler := c.g.handler, lanes := c.g.lanes } [] [] [] ∧ g'.lanes.length = c.g.lanes.length ∧
        (stays → g'.run = none ∧ g'.lanes = c.g.lanes ∧ g'.handler = some { h with returned := h.returned ||| c.r.active }) ∧
        (¬ stays → g'.handler = none ∧ g'.exempt = 0 ∧ g'.latch = h.latch ∧
          g'.run = (if back = 0 then none else some ⟨back, c.g.trap.pc, h.count, c.g.trap.lane, none⟩) ∧
          ∀ l, l < c.g.lanes.length → (laneAt g' l).live = (laneAt c.g l).live ∧ (laneAt g' l).meet = (laneAt c.g l).kept ∧
            (laneAt g' l).pc = if inMask h.lanes l && (laneAt c.g l).live then c.g.trap.pc else (laneAt c.g l).pc)))

/-- `csrr` and `csrw` (18 R512-R516, 07 R189, 09 R262, 13 R386): a read delivers the register and changes nothing else, but that time goes
on when DTC is read; a write takes effect as its register's rules say, or is discarded. -/
def Obligations.ControlRegisters : Prop :=
  ∀ (s : State) (ct : Ctl) (c : Ctx) (n : BitVec 12), issueCtx s 0 false = some c → ct.plain = true → csrKind n.toNat ≠ none →
    (∀ d : Fin 128, Ready s c false [] [.s d.val] [] →
      (n.toNat ≠ 0x040 → Completes (.csrr ct d n) s (fun t => Done s t c ct.e [] [d.val] [] (fun g' => g'.frnd = c.g.frnd ∧
        ∀ v, controlValue s c n.toNat = some v → sreg g' d.val = v % 2 ^ 64))) ∧
      (n.toNat = 0x040 → Completes (.csrr ct d n) s (fun t => s.dtc.toNat ≤ t.dtc.toNat ∧
        Done s { t with dtc := s.dtc, freeCount := s.freeCount } c ct.e [] [d.val] [] (fun g' => sreg g' d.val = t.dtc.toNat)))) ∧
    (∀ x : Fin 128, Ready s c false [] [.s x.val] [] → (csrKind n.toNat = some .priv → privileged s c.g = true) →
      let v := sreg c.g x.val
      let core := coreOf s c.core
      Completes (.csrw ct x n) s (fun t => OnlyGroup s t c.key ∧ ∃ g', groupOf t c.key = some g' ∧
        Kept c.g { g' with trap := c.g.trap } [] [] [] ∧ GoesOn c ct.e g' ∧
        -- BUDGET
        (coreOf t c.core).pendValue = (if n.toNat = 0x010 ∧ v % 256 ≤ core.allot ∧ (core.clamp = true → v % 256 ≤ 48) then some (v % 256)
          else core.pendValue) ∧
        -- TLANE
        g'.trap = (if n.toNat = 0x032 ∧ c.g.handler ≠ none ∧
            (v % 2 ^ 32 = 64 ∨ (v % 2 ^ 32 < 64 ∧ inMask c.g.trap.mask (v % 2 ^ 32) = true)) then { c.g.trap with lane := v % 2 ^ 32 }
          else c.g.trap) ∧
        -- FRND
        g'.frnd = (if n.toNat = 0x041 ∧ v % 8 < 6 then
            ⟨BitVec.ofNat 32 (v / 2 ^ 32), BitVec.ofNat 16 (v / 2 ^ 16), BitVec.ofNat 5 (v / 2 ^ 11), BitVec.ofNat 5 (v / 2 ^ 6),
              BitVec.ofNat 3 v⟩
          else c.g.frnd) ∧
        -- PERF and PERFSEL
        (∀ i, i < 16 → nget (coreOf t c.core).perfsel i = (if n.toNat = 0x090 + i then v / 2 ^ 31 % 2 * 2 ^ 31 + v % 256
          else nget core.perfsel i)) ∧
        (∀ i, i < 16 → (nget core.perfsel i).testBit 31 = false → n.toNat = 0x080 + i → nget (coreOf t c.core).perf i = v)))

/-- `wsync`, `rinv` and `halt` (04 R104, R114, 18 R517-R519): `wsync` cleans the column's U copies and the dirty lines of HBM4E at home,
empties the leaf caches and marks the walks under way; `rinv` drops the range registers held for the launches it names; each then
goes on, or waits for what is on its way. `halt` halts the part and records where, unless it is halted. -/
def Obligations.SystemInstructions : Prop :=
  ∀ (s : State) (ct : Ctl) (c : Ctx), issueCtx s 0 false = some c → ct.plain = true → privileged s c.g = true →
    let ends (t : State) (why : Nat → GStatus) : Prop := ∃ g', groupOf t c.key = some g' ∧ (∀ n, sreg g' n = sreg c.g n) ∧ (∀ n, preg g' n = preg c.g n) ∧
      (GoesOn c ct.e g' ∨ ((∃ n, g'.status = why n) ∧ GoesOn c ct.e (if ct.e then { g' with status := .ready } else g')))
    (Ready s c false [] [] [] → Completes (.wsync ct) s (fun t => ends t (fun n => .waiting (.wsync n)) ∧ t.leaves = [] ∧ (∀ w ∈ t.walks, w.marked = true) ∧
      (∀ line x, line < 2 ^ 46 → l1Get t (coreCol c.core) line = some x → x.st = .u → x.dirty = 0) ∧
      ∀ k h, mget t.home k = some h → isHbm h.pa = true → h.dirty = false)) ∧
    (∀ x : Fin 128, Ready s c false [] [.s x.val] [] →
      let code := sreg c.g x.val % 2 ^ 32
      let named (l : Launch) : Prop := code = 0xFFFFFFFF ∨ (l.handler = false ∧ l.cmd.toNat = code)
      ((∃ e ∈ s.launches, named e.2) → Completes (.rinv ct x) s (fun t => ends t (fun n => .waiting (.drain n true false false)) ∧ ∀ i l, launchOf s i = some l →
        (named l → launchOf t i = some { l with ranges := none }) ∧ (¬ named l → launchOf t i = some l))) ∧
      ((∀ e ∈ s.launches, ¬ named e.2) → Completes (.rinv ct x) s (fun t => Done s t c ct.e [] [] [] (fun _ => True))) ∧
      (s.halted = false → Completes (.halt ct x) s (fun t => t.halted = true ∧
        mreg t 0x20 = 2 ^ 63 + coreLayer c.core * 2 ^ 48 + coreCol c.core * 2 ^ 32 + code ∧ (mreg t 0x30100).testBit 7 = true ∧
        Done s { t with halted := s.halted, mgmt := s.mgmt, msix := s.msix } c ct.e [] [] [] (fun _ => True))) ∧
      (s.halted = true → Completes (.halt ct x) s (fun t => Done s t c ct.e [] [] [] (fun _ => True))))

/-- No unprivileged group executes a privileged instruction (18 R496, R512, R517-R519): a `csrw` of a privileged register, `wsync`, `rinv`
and `halt` take cause 0x06 at the first lane of the active mask, with nothing else changed. -/
def Obligations.PrivilegedInstructionsTrap : Prop :=
  ∀ (s : State) (ct : Ctl) (c : Ctx) (x : Fin 128) (n : BitVec 12) (i : Instr) (entry : Word64), issueCtx s 0 false = some c →
    c.r.start < 64 → c.r.count < 24 → privileged s c.g = false → csrKind n.toNat = some .priv → trapsTo s c entry →
    i = .csrw ct x n ∨ i = .wsync ct ∨ i = .rinv ct x ∨ i = .halt ct x →
    ∃ t g', exec i s = .next t ∧ OnlyGroup s { t with mgmt := s.mgmt } c.key ∧ t.halted = s.halted ∧ groupOf t c.key = some g' ∧
      (∀ j, (coreOf t j).pendValue = (coreOf s j).pendValue ∧ (coreOf t j).perfsel = (coreOf s j).perfsel) ∧
      Entered c entry ⟨6, 0, firstLane c.r.active, c.r.active, c.tpc, 0⟩ g'

/-- What a step does (12 R331-R333, R348): where a group holds a core's issue slot and the parcels at its pc decode to an instruction, the
step is that instruction's execution with `cur` set to it; where two short instructions pair, it is the pair's; where the parcels do
not decode, the group takes the trap of the fault. A step with an event due is that event's execution, and a step in which cycles pass, or
nothing is to do, answers the state that says so.
The field `cur` and the order of steps are the model's own (log 3, log 4). -/
def Obligations.StepRunsDecoded : Prop :=
  ∀ s : State,
    (∀ core slot u g r p q i n, nextWork s = .issue core slot u → groupOf u (gkey core slot) = some g → g.run = some r →
      r.pc.toNat % 4 = 0 → ParcelsAt u (gkey core slot) g r.pc.toNat p q →
      decodeAt (r.pre.map (·.1)) p q = .instr i n → beginsPair r p = false →
      step s = exec i { u with cur := some ⟨core, slot, r.pc, 4 * n⟩ }) ∧
    (∀ core slot u g r p w i, nextWork s = .issue core slot u → groupOf u (gkey core slot) = some g → g.run = some r →
      ParcelAt u (gkey core slot) g r.pc.toNat p → ParcelAt u (gkey core slot) g (r.pc.toNat + 4) w →
      decodeAt none p 0 = .instr i 1 → beginsPair r p = true →
      (w.toNat % 4 ≠ 0 → step s = exec i { u with cur := some ⟨core, slot, r.pc, 4⟩ }) ∧
      ∀ j a b, w.toNat % 4 = 0 → decodeAt none w 0 = .instr j 1 → pairFn i = some a → pairFn j = some b →
        step s = issuePair { u with cur := some ⟨core, slot, r.pc, 8⟩ } a b) ∧
    (∀ core slot u g r p q cause sub, nextWork s = .issue core slot u → groupOf u (gkey core slot) = some g → g.run = some r →
      r.pc.toNat % 4 = 0 → r.start < 64 → ParcelsAt u (gkey core slot) g r.pc.toNat p q →
      decodeAt (r.pre.map (·.1)) p q = .fault cause sub →
      step s = .next (decodeTrap u (gkey core slot) g r p (faultMask g r p) cause sub)) ∧
    (∀ i u, nextWork s = .event i u → step s = exec i u) ∧
    (∀ u, nextWork s = .pass u → step s = .next u) ∧
    (nextWork s = .idle → step s = .next s)

/-- Words of the encoding tables (12 R331-R344, R356, R357): the parcels of the example `iadd.s32 v4, v4, v9`, `xor.z32 v7, v7, v1` and
`iadd.s64 s3, s3, #-8`; the all-zero parcel is a short `nop` with E 0; `exit` guarded by !p2; a prefix that names rounding rz; and three
words that decode to nothing: a first parcel without its second, a second parcel, and opcode 0x3FF. -/
def Obligations.DecodeWords : Prop :=
  decodeTableWord 32 0x40121080 = some (.iaddShort ⟨.s32, 0, false, 9, 4, false⟩) ∧
  decodeTableWord 32 0xC0021CD4 = some (.xorShort ⟨.z32, 0, false, 1, 7, true⟩) ∧
  decodeTableWord 64 0x7F8FFE0F18304086 = some (.iadd ⟨true, 0, false⟩ false ⟨.s64, .s 3, .s 3, .imm (-8)⟩) ∧
  decodeTableWord 32 0 = some (.nopShort 0 0 false) ∧
  decodeTableWord 64 0x000000030009003E = some (.exit ⟨true, 2, true⟩) ∧
  decodeTableWord 32 0x00000009 = some (.pfx ⟨0, 0, 0, false, false, 0, 0, 0, 0, 1, false⟩) ∧
  decodeTableWord 64 0x0000000000000082 = none ∧ decodeTableWord 64 0x0000000300000003 = none ∧
  decodeTableWord 64 0x0000000300001FFA = none

/-- Encoding and decoding agree (12 R336-R345): the decoder reads from the parcels that the encoder gives a well-formed
instruction, whatever parcel follows them, that instruction and its number of parcels. -/
def Obligations.RoundTrip : Prop :=
  ∀ (i : Instr) (p : Word), i.wf = true → encode i ≠ [] →
    decodeAt none ((encode i).headD 0) ((encode i).tail.headD p) = .instr i (encode i).length

/-- No step breaks the canonical form of memory: addresses strictly rising and no byte listed that an unlisted address reads as.
An unlisted address reads 0, the model's choice (log 1). -/
def Obligations.StepKeepsMemoryCanonical : Prop :=
  ∀ s t : State, s.memOk → step s = .next t → t.memOk

/-- A byte written to memory is read back, every other byte stays, and the canonical form is kept.
An unlisted address reads 0, the model's choice (log 1). -/
def Obligations.ByteReadsBack : Prop :=
  ∀ (s : State) (a b : Nat) (x : Byte), s.memOk →
    readByte (writeByte s a x) a = x ∧ (b ≠ a → readByte (writeByte s a x) b = readByte s b) ∧ (writeByte s a x).memOk

/-- The state after reset (01 R17, R20, 02 R33, R53, 03 R58, 05 R138, 06 R161, 07 R189, R208): memory is canonical; no launch, block, group or
command is there; every column's limit is 560 mW, trip points are 105, 95 and 85 degrees, and 110, 100 and 90 in the base die; the stacks
are ONLINE; DIFFMAX is 32 and DIFFTHR 8; SDCFG, SDWT and TKCFG have the values of their maps; ALLOT and VALUE of a core are 96; and
the firmware does not run. -/
def Obligations.ResetState : Prop :=
  State.reset.memOk ∧ State.reset.dtc = 0 ∧ State.reset.groups = [] ∧ State.reset.blocks = [] ∧ State.reset.launches = [] ∧
  State.reset.cmds = [] ∧ State.reset.halted = false ∧ fwRunning State.reset = false ∧
  (∀ c, c < 384 → colLimit State.reset c = 560) ∧
  (∀ c i, (c = .core ∨ c = .bank) → (sensorOf State.reset c i).shdPt = 105 ∧ (sensorOf State.reset c i).thrPt = 95 ∧
    (sensorOf State.reset c i).advPt = 85) ∧
  (∀ i, (sensorOf State.reset .base i).shdPt = 110 ∧ (sensorOf State.reset .base i).thrPt = 100 ∧
    (sensorOf State.reset .base i).advPt = 90) ∧
  (∀ n, n < 8 → stackState State.reset n = 0) ∧
  (∀ t, t < 2 → mreg State.reset (aDist t 0) = 0x2008 ∧ mreg State.reset (aSheep t 0) = 64 * 65536 + 7 ∧
    mreg State.reset (aSheep t 8) = 0x00121344 ∧ mreg State.reset (aTask t 0) = 0x401) ∧
  (∀ c, (coreOf State.reset c).allot = 96 ∧ (coreOf State.reset c).value = 96 ∧ (coreOf State.reset c).charge = 0) ∧
  keyGen State.reset 0 ≠ 0 ∧ ∀ k, k ≠ 0 → keyGen State.reset k = 0

/-- While the part is halted, by `halt` or thermally, no core issues an instruction and no cycle of a core passes (18 R519, 01 R25). -/
def Obligations.HaltedPartIssuesNothing : Prop :=
  ∀ s : State, s.halted = true ∨ s.thermal = true →
    (∀ core slot u, nextWork s ≠ .issue core slot u) ∧ ∀ u, nextWork s ≠ .pass u

/-- Translation by range registers (04 R102, R103): the lowest-numbered register with V 1 and BASE ≤ va < LIMIT gives IA = (va − BASE +
OFFSET) mod 2^52, where it covers the access's bytes and allows its kind; bytes beyond LIMIT, a kind that is not allowed, a register for
privileged groups and an address in no range give the faults of R103. -/
def Obligations.RangeTranslation : Prop :=
  ∀ (rs : List RangeReg) (va n : Nat) (k : AKind) (priv : Bool),
    let covers (r : RangeReg) : Bool := r.v && decide (r.base.toNat ≤ va) && decide (va < r.limit.toNat)
    let allows (r : RangeReg) : Bool := (match k with
      | .read => r.r
      | .write => r.w
      | .fetch => r.x);
    (∀ (i : Nat) r, rs[i]? = some r → covers r = true → (∀ (j : Nat) x, j < i → rs[j]? = some x → covers x = false) →
      (va + n ≤ r.limit.toNat → allows r = true → (r.privOnly = true → priv = true) →
        rangeXlate rs va n k priv = .ok ((va - r.base.toNat + r.offset.toNat) % 2 ^ 52) r) ∧
      (r.limit.toNat < va + n → rangeXlate rs va n k priv = .trap 0x10 0x03) ∧
      (va + n ≤ r.limit.toNat → allows r = false → rangeXlate rs va n k priv = .trap 0x10 0x02) ∧
      (va + n ≤ r.limit.toNat → allows r = true → r.privOnly = true → priv = false →
        rangeXlate rs va n k priv = .trap 0x06 0)) ∧
    ((∀ r ∈ rs, covers r = false) → rangeXlate rs va n k priv = .trap 0x10 0x01)

/-- Rows and predicates (09 R250, 14 R393): a group is placed with no row mapped; a row that is not mapped reads 0 in every lane; a write
maps the row, writes the lanes of its mask, leaves the others of a mapped row, or 0 in them in a new one, and changes no other row; p0
reads all-true and a write of it changes nothing. -/
def Obligations.RowsAndPredicates : Prop :=
  (∀ block index width entry init pipes since, (freshGroup block index width entry init pipes since).vregs = []) ∧
  ∀ (g : Group) (n : Nat) (m : LaneMask) (f : Nat → Word),
    (mget g.vregs n = none → ∀ l, l < 64 → laneOf (vreg g n) l = 0) ∧
    (mget (writeLanes g n m f).vregs n).isSome = true ∧
    (∀ l, l < 64 → laneOf (vreg (writeLanes g n m f) n) l = if inMask m l then f l
      else if (mget g.vregs n).isSome then laneOf (vreg g n) l else 0) ∧
    (∀ j, j ≠ n → mget (writeLanes g n m f).vregs j = mget g.vregs j) ∧
    (∀ l, l < 64 → inMask (preg g 0) l = true) ∧ (∀ x, setPreg g 0 x = g)

/-- Selection of a run (09 R245, R246), for a group outside a handler: a lane at its nonzero meeting register is held, unless all live lanes
with that meeting register are there, when each is released with its register 0; the run's pc is the lowest among the live lanes
that are not held, and its active mask those of them at it; where a lane is live, the mask is not empty. -/
def Obligations.RunSelection : Prop :=
  ∀ g : Group, g.handler = none → g.lanes.length ≤ 64 → ∀ r, (startRun g).run = some r →
    let stays (l : Nat) : Prop := (laneAt g l).live = true ∧ (laneAt g l).meet ≠ 0 ∧ (laneAt g l).pc = (laneAt g l).meet ∧
      ∃ j, j < 64 ∧ (laneAt g j).live = true ∧ (laneAt g j).meet = (laneAt g l).meet ∧ (laneAt g j).pc ≠ (laneAt g j).meet;
    (∀ l, l < 64 → (inMask r.active l = true ↔ (laneAt g l).live = true ∧ ¬ stays l ∧ (laneAt g l).pc = r.pc)) ∧
    (∀ l, l < 64 → (laneAt g l).live = true → ¬ stays l → r.pc.toNat ≤ (laneAt g l).pc.toNat) ∧
    (∀ l, l < g.lanes.length →
      ((laneAt g l).live = true ∧ (laneAt g l).pc = (laneAt g l).meet ∧ ¬ stays l →
        laneAt (startRun g) l = { laneAt g l with meet := 0 }) ∧
      (¬ ((laneAt g l).live = true ∧ (laneAt g l).pc = (laneAt g l).meet ∧ ¬ stays l) → laneAt (startRun g) l = laneAt g l)) ∧
    ((∃ l, l < 64 ∧ (laneAt g l).live = true) → r.active ≠ 0)

/-- Each word has one meaning (12 R334-R345, R355): parcels that decode to an instruction, prefixes apart, decode to a well-formed one, which
the encoder encodes as those same parcels. -/
def Obligations.DecodedIsCanonical : Prop :=
  ∀ (p q : Word) (i : Instr) (n : Nat), decodeAt none p q = .instr i n → (∀ x, i ≠ .pfx x) →
    i.wf = true ∧ encode i = if n = 1 then [p] else [p, q]

end
end

