-- ==== Sys2Proof/Laws/Bits.lean ====
section
/-! SUPPORT. Laws of packing, rows of lanes, lane masks and lines. -/

namespace Sys2Proof.Machine

theorem packNat_lt (w : Nat) (f : Nat → Nat) (n : Nat) : packNat w f n < 2 ^ (w * n) := by
  induction n with
  | zero => simp [packNat]
  | succ n ih =>
    unfold packNat
    have h : f n % 2 ^ w ≤ 2 ^ w - 1 := by have := Nat.mod_lt (f n) (Nat.two_pow_pos w); omega
    have h2 : f n % 2 ^ w * 2 ^ (w * n) ≤ (2 ^ w - 1) * 2 ^ (w * n) := Nat.mul_le_mul_right _ h
    have h3 : (2 ^ w - 1) * 2 ^ (w * n) = 2 ^ (w * (n + 1)) - 2 ^ (w * n) := by
      rw [Nat.sub_mul, Nat.one_mul, Nat.mul_succ, Nat.pow_add, Nat.mul_comm (2 ^ w)]
    have h4 : 2 ^ (w * n) ≤ 2 ^ (w * (n + 1)) := Nat.pow_le_pow_right (by decide) (Nat.mul_le_mul_left _ (Nat.le_succ n))
    omega

/-- An element of a packed number. -/
theorem packNat_get (w : Nat) (f : Nat → Nat) (n l : Nat) (h : l < n) : packNat w f n / 2 ^ (w * l) % 2 ^ w = f l % 2 ^ w := by
  induction n with
  | zero => omega
  | succ n ih =>
    unfold packNat
    by_cases hl : l = n
    · subst hl
      rw [Nat.add_mul_div_right _ _ (Nat.two_pow_pos _), Nat.div_eq_of_lt (packNat_lt w f l), Nat.zero_add, Nat.mod_mod]
    · have hl' : l < n := by omega
      have e : 2 ^ (w * n) = 2 ^ (w * l) * (2 ^ w * 2 ^ (w * (n - l - 1))) := by
        rw [← Nat.pow_add, ← Nat.pow_add]
        obtain ⟨d, rfl⟩ : ∃ d, n = l + 1 + d := ⟨n - l - 1, by omega⟩
        rw [show l + 1 + d - l - 1 = d by omega]
        congr 1
        rw [Nat.mul_add, Nat.mul_add, Nat.mul_one, Nat.add_assoc]
      rw [e, show f n % 2 ^ w * (2 ^ (w * l) * (2 ^ w * 2 ^ (w * (n - l - 1)))) =
          (f n % 2 ^ w * 2 ^ (w * (n - l - 1)) * 2 ^ w) * 2 ^ (w * l) by ac_rfl,
        Nat.add_mul_div_right _ _ (Nat.two_pow_pos _), Nat.add_mul_mod_self_right]
      exact ih hl'

theorem laneOf_rowOf (f : Nat → Word) (l : Nat) (h : l < 64) : laneOf (rowOf f) l = f l := by
  apply BitVec.eq_of_toNat_eq
  unfold laneOf rowOf
  rw [BitVec.extractLsb'_toNat, BitVec.toNat_ofNat, Nat.shiftRight_eq_div_pow, Nat.mod_eq_of_lt (packNat_lt 32 _ 64),
    packNat_get 32 _ 64 l h]
  exact Nat.mod_eq_of_lt (f l).isLt

/-- A written row takes the lanes of the mask and keeps the others. -/
theorem laneOf_blendRow (m : LaneMask) (f : Nat → Word) (old : Row) (l : Nat) (h : l < 64) :
    laneOf (blendRow m f old) l = if inMask m l then f l else laneOf old l := laneOf_rowOf _ l h

theorem inMask_maskOf (p : Nat → Bool) (l : Nat) (h : l < 64) : inMask (maskOf p) l = p l := by
  unfold inMask maskOf
  have h1 := packNat_get 1 (fun l => bit (p l)) 64 l h
  have h2 := packNat_lt 1 (fun l => bit (p l)) 64
  rw [BitVec.getLsbD_ofNat, Nat.testBit_eq_decide_div_mod_eq]
  rw [Nat.one_mul] at h1
  simp only [Nat.pow_one] at h1
  rw [h1]
  cases p l <;> simp [bit, h]

theorem inMask_ge (m : LaneMask) (l : Nat) (h : 64 ≤ l) : inMask m l = false := BitVec.getLsbD_of_ge _ _ h

/-- The lanes of a mask, and only they, are in its list. -/
theorem mem_laneList (m : LaneMask) (l : Nat) : l ∈ laneList m ↔ inMask m l = true := by
  unfold laneList
  rw [List.mem_filter, List.mem_range]
  constructor
  · exact fun h => h.2
  · intro h
    refine ⟨?_, h⟩
    by_cases hl : l < 64
    · exact hl
    · rw [inMask_ge m l (by omega)] at h
      cases h

theorem byteOf_lineOf (f : Nat → Byte) (i : Nat) (h : i < 64) : byteOf (lineOf f) i = f i := by
  apply BitVec.eq_of_toNat_eq
  unfold byteOf lineOf
  rw [BitVec.extractLsb'_toNat, BitVec.toNat_ofNat, Nat.shiftRight_eq_div_pow, Nat.mod_eq_of_lt (packNat_lt 8 _ 64),
    packNat_get 8 _ 64 i h]
  exact Nat.mod_eq_of_lt (f i).isLt

theorem byteOf_mergeLine (m : BitVec 64) (new old : Line) (i : Nat) (h : i < 64) :
    byteOf (mergeLine m new old) i = if m.getLsbD i then byteOf new i else byteOf old i := byteOf_lineOf _ i h

end Sys2Proof.Machine
end

