-- ==== Sys2Proof/Laws/Maps.lean ====
section
/-! SUPPORT. Sorted maps: what is read after a write, and that writes keep the keys rising. -/

namespace Sys2Proof.Machine

variable {α : Type}

@[simp] theorem mget_mset_self (m : List (Nat × α)) (k : Nat) (x : α) : mget (mset m k x) k = some x := by
  induction m with
  | nil => simp [mset, mget]
  | cons e m ih =>
    obtain ⟨j, y⟩ := e
    unfold mset
    split
    · simp [mget]
    · split
      · simp [mget]
      · simp_all [mget]; omega

theorem mget_mset_ne (m : List (Nat × α)) {k j : Nat} (x : α) (h : k ≠ j) : mget (mset m k x) j = mget m j := by
  induction m with
  | nil => simp [mset, mget, h]
  | cons e m ih =>
    obtain ⟨i, y⟩ := e
    unfold mset
    split
    · simp [mget, h]
    · split
      · simp_all [mget]
      · simp [mget, ih]

theorem mget_mdel_ne (m : List (Nat × α)) {k j : Nat} (h : k ≠ j) : mget (mdel m k) j = mget m j := by
  induction m with
  | nil => rfl
  | cons e m ih =>
    obtain ⟨i, y⟩ := e
    unfold mdel
    split
    · simp_all [mget]
    · simp [mget, ih]

@[simp] theorem mgetD_mset_self (m : List (Nat × α)) (k : Nat) (x d : α) : mgetD (mset m k x) k d = x := by
  simp [mgetD]

theorem mgetD_mset_ne (m : List (Nat × α)) {k j : Nat} (x d : α) (h : k ≠ j) : mgetD (mset m k x) j d = mgetD m j d := by
  simp [mgetD, mget_mset_ne m x h]

theorem mget_mupd_self (m : List (Nat × α)) (k : Nat) (f : α → α) : mget (mupd m k f) k = (mget m k).map f := by
  unfold mupd
  cases h : mget m k <;> simp [h]

theorem mget_mupd_ne (m : List (Nat × α)) {k j : Nat} (f : α → α) (h : k ≠ j) : mget (mupd m k f) j = mget m j := by
  unfold mupd
  cases mget m k
  · rfl
  · exact mget_mset_ne m _ h

/-- Reading a map whose entries are mapped in place. -/
theorem mget_mapValues (g : Nat → α → α) (m : List (Nat × α)) (k : Nat) :
    mget (m.map (fun e => (e.1, g e.1 e.2))) k = (mget m k).map (g k) := by
  induction m with
  | nil => rfl
  | cons e m ih =>
    obtain ⟨j, y⟩ := e
    simp only [List.map_cons, mget]
    split
    · simp_all
    · exact ih

/-- Keys at or above a bound. -/
theorem sortedKeys_cons {k : Nat} {x : α} {m : List (Nat × α)} :
    sortedKeys ((k, x) :: m) = true ↔ (∀ e ∈ m.head?, k < e.1) ∧ sortedKeys m = true := by
  cases m with
  | nil => simp [sortedKeys]
  | cons e m => obtain ⟨j, y⟩ := e; simp [sortedKeys]

theorem head?_mset (m : List (Nat × α)) (k : Nat) (x : α) (e : Nat × α) (h : e ∈ (mset m k x).head?) :
    e = (k, x) ∨ (e ∈ m.head? ∧ e.1 < k) := by
  cases m with
  | nil => simp_all [mset]
  | cons a m =>
    obtain ⟨j, y⟩ := a
    unfold mset at h
    split at h
    · left; simp_all
    · split at h
      · left; simp_all
      · right
        simp at h
        subst h
        refine ⟨by simp, ?_⟩
        simp only
        omega

theorem sortedKeys_mset (m : List (Nat × α)) (k : Nat) (x : α) (h : sortedKeys m = true) :
    sortedKeys (mset m k x) = true := by
  induction m with
  | nil => rfl
  | cons e m ih =>
    obtain ⟨j, y⟩ := e
    have h' := sortedKeys_cons.mp h
    unfold mset
    split
    · exact sortedKeys_cons.mpr ⟨by simpa, h⟩
    · split
      · rename_i hk; subst hk; exact sortedKeys_cons.mpr h'
      · refine sortedKeys_cons.mpr ⟨?_, ih h'.2⟩
        intro e he
        rcases head?_mset m k x e he with rfl | ⟨he, _⟩
        · simp only; omega
        · exact h'.1 e he

/-- In a sorted map no later entry has the first key or one below it. -/
theorem mget_eq_none_of_lt (m : List (Nat × α)) (k : Nat) (h : sortedKeys m = true) (hk : ∀ e ∈ m.head?, k < e.1) :
    mget m k = none := by
  induction m with
  | nil => rfl
  | cons e m ih =>
    obtain ⟨j, y⟩ := e
    have h' := sortedKeys_cons.mp h
    have hj : k < j := by simpa using hk
    have : j ≠ k := by omega
    simp only [mget, this, if_false]
    exact ih h'.2 (fun e he => Nat.lt_trans hj (h'.1 e he))

@[simp] theorem mget_mdel_self (m : List (Nat × α)) (k : Nat) : mget (mdel m k) k = none := by
  induction m with
  | nil => rfl
  | cons e m ih =>
    obtain ⟨j, y⟩ := e
    unfold mdel
    split
    · exact ih
    · rename_i hk; simp [mget, hk, ih]

theorem mem_mdel {m : List (Nat × α)} {k : Nat} {e : Nat × α} (h : e ∈ mdel m k) : e ∈ m := by
  induction m with
  | nil => exact h
  | cons a m ih =>
    obtain ⟨j, y⟩ := a
    unfold mdel at h
    split at h
    · exact List.mem_cons_of_mem _ (ih h)
    · rcases List.mem_cons.mp h with rfl | h
      · exact List.mem_cons_self
      · exact List.mem_cons_of_mem _ (ih h)

/-- In a sorted map every later key is above the first. -/
theorem lt_of_mem_sorted {k : Nat} {x : α} {m : List (Nat × α)} (h : sortedKeys ((k, x) :: m) = true) : ∀ e ∈ m, k < e.1 := by
  induction m generalizing k x with
  | nil => simp
  | cons a m ih =>
    obtain ⟨j, y⟩ := a
    have h' := sortedKeys_cons.mp h
    have hj : k < j := h'.1 (j, y) (by simp)
    intro e he
    rcases List.mem_cons.mp he with rfl | he
    · exact hj
    · exact Nat.lt_trans hj (ih h'.2 e he)

theorem sortedKeys_mdel (m : List (Nat × α)) (k : Nat) (h : sortedKeys m = true) : sortedKeys (mdel m k) = true := by
  induction m with
  | nil => rfl
  | cons e m ih =>
    obtain ⟨j, y⟩ := e
    have h' := sortedKeys_cons.mp h
    unfold mdel
    split
    · exact ih h'.2
    · refine sortedKeys_cons.mpr ⟨?_, ih h'.2⟩
      intro e he
      exact lt_of_mem_sorted h e (mem_mdel (List.mem_of_mem_head? he))

end Sys2Proof.Machine
end

