-- ==== Sys2Proof/Laws/State.lean ====
section
/-! SUPPORT. What each named update of the state leaves alone: one lemma per field. -/

namespace Sys2Proof.Machine

/-! ### setCore -/

@[simp] theorem setCore_mem (s : State) (c : Nat) (x : Core) : (setCore s c x).mem = s.mem := rfl
@[simp] theorem setCore_poison (s : State) (c : Nat) (x : Core) : (setCore s c x).poison = s.poison := rfl
@[simp] theorem setCore_keyTags (s : State) (c : Nat) (x : Core) : (setCore s c x).keyTags = s.keyTags := rfl
@[simp] theorem setCore_l1 (s : State) (c : Nat) (x : Core) : (setCore s c x).l1 = s.l1 := rfl
@[simp] theorem setCore_home (s : State) (c : Nat) (x : Core) : (setCore s c x).home = s.home := rfl
@[simp] theorem setCore_dead (s : State) (c : Nat) (x : Core) : (setCore s c x).dead = s.dead := rfl
@[simp] theorem setCore_keys (s : State) (c : Nat) (x : Core) : (setCore s c x).keys = s.keys := rfl
@[simp] theorem setCore_leaves (s : State) (c : Nat) (x : Core) : (setCore s c x).leaves = s.leaves := rfl
@[simp] theorem setCore_walks (s : State) (c : Nat) (x : Core) : (setCore s c x).walks = s.walks := rfl
@[simp] theorem setCore_parks (s : State) (c : Nat) (x : Core) : (setCore s c x).parks = s.parks := rfl
@[simp] theorem setCore_parkWait (s : State) (c : Nat) (x : Core) : (setCore s c x).parkWait = s.parkWait := rfl
@[simp] theorem setCore_frecs (s : State) (c : Nat) (x : Core) : (setCore s c x).frecs = s.frecs := rfl
@[simp] theorem setCore_noparks (s : State) (c : Nat) (x : Core) : (setCore s c x).noparks = s.noparks := rfl
@[simp] theorem setCore_hists (s : State) (c : Nat) (x : Core) : (setCore s c x).hists = s.hists := rfl
@[simp] theorem setCore_reqs (s : State) (c : Nat) (x : Core) : (setCore s c x).reqs = s.reqs := rfl
@[simp] theorem setCore_held (s : State) (c : Nat) (x : Core) : (setCore s c x).held = s.held := rfl
@[simp] theorem setCore_peerOut (s : State) (c : Nat) (x : Core) : (setCore s c x).peerOut = s.peerOut := rfl
@[simp] theorem setCore_flits (s : State) (c : Nat) (x : Core) : (setCore s c x).flits = s.flits := rfl
@[simp] theorem setCore_links (s : State) (c : Nat) (x : Core) : (setCore s c x).links = s.links := rfl
@[simp] theorem setCore_tags (s : State) (c : Nat) (x : Core) : (setCore s c x).tags = s.tags := rfl
@[simp] theorem setCore_hostErrors (s : State) (c : Nat) (x : Core) : (setCore s c x).hostErrors = s.hostErrors := rfl
@[simp] theorem setCore_bankCmds (s : State) (c : Nat) (x : Core) : (setCore s c x).bankCmds = s.bankCmds := rfl
@[simp] theorem setCore_rets (s : State) (c : Nat) (x : Core) : (setCore s c x).rets = s.rets := rfl
@[simp] theorem setCore_reqNo (s : State) (c : Nat) (x : Core) : (setCore s c x).reqNo = s.reqNo := rfl
@[simp] theorem setCore_groups (s : State) (c : Nat) (x : Core) : (setCore s c x).groups = s.groups := rfl
@[simp] theorem setCore_bte (s : State) (c : Nat) (x : Core) : (setCore s c x).bte = s.bte := rfl
@[simp] theorem setCore_blocks (s : State) (c : Nat) (x : Core) : (setCore s c x).blocks = s.blocks := rfl
@[simp] theorem setCore_blockNo (s : State) (c : Nat) (x : Core) : (setCore s c x).blockNo = s.blockNo := rfl
@[simp] theorem setCore_launches (s : State) (c : Nat) (x : Core) : (setCore s c x).launches = s.launches := rfl
@[simp] theorem setCore_futures (s : State) (c : Nat) (x : Core) : (setCore s c x).futures = s.futures := rfl
@[simp] theorem setCore_mgmt (s : State) (c : Nat) (x : Core) : (setCore s c x).mgmt = s.mgmt := rfl
@[simp] theorem setCore_engines (s : State) (c : Nat) (x : Core) : (setCore s c x).engines = s.engines := rfl
@[simp] theorem setCore_entNo (s : State) (c : Nat) (x : Core) : (setCore s c x).entNo = s.entNo := rfl
@[simp] theorem setCore_dealtTo (s : State) (c : Nat) (x : Core) : (setCore s c x).dealtTo = s.dealtTo := rfl
@[simp] theorem setCore_transit (s : State) (c : Nat) (x : Core) : (setCore s c x).transit = s.transit := rfl
@[simp] theorem setCore_moves (s : State) (c : Nat) (x : Core) : (setCore s c x).moves = s.moves := rfl
@[simp] theorem setCore_saves (s : State) (c : Nat) (x : Core) : (setCore s c x).saves = s.saves := rfl
@[simp] theorem setCore_goats (s : State) (c : Nat) (x : Core) : (setCore s c x).goats = s.goats := rfl
@[simp] theorem setCore_arrivals (s : State) (c : Nat) (x : Core) : (setCore s c x).arrivals = s.arrivals := rfl
@[simp] theorem setCore_barWaits (s : State) (c : Nat) (x : Core) : (setCore s c x).barWaits = s.barWaits := rfl
@[simp] theorem setCore_migs (s : State) (c : Nat) (x : Core) : (setCore s c x).migs = s.migs := rfl
@[simp] theorem setCore_redirs (s : State) (c : Nat) (x : Core) : (setCore s c x).redirs = s.redirs := rfl
@[simp] theorem setCore_evac (s : State) (c : Nat) (x : Core) : (setCore s c x).evac = s.evac := rfl
@[simp] theorem setCore_cmds (s : State) (c : Nat) (x : Core) : (setCore s c x).cmds = s.cmds := rfl
@[simp] theorem setCore_pendDec (s : State) (c : Nat) (x : Core) : (setCore s c x).pendDec = s.pendDec := rfl
@[simp] theorem setCore_relWait (s : State) (c : Nat) (x : Core) : (setCore s c x).relWait = s.relWait := rfl
@[simp] theorem setCore_lastQueue (s : State) (c : Nat) (x : Core) : (setCore s c x).lastQueue = s.lastQueue := rfl
@[simp] theorem setCore_copy (s : State) (c : Nat) (x : Core) : (setCore s c x).copy = s.copy := rfl
@[simp] theorem setCore_copyQueue (s : State) (c : Nat) (x : Core) : (setCore s c x).copyQueue = s.copyQueue := rfl
@[simp] theorem setCore_ttIns (s : State) (c : Nat) (x : Core) : (setCore s c x).ttIns = s.ttIns := rfl
@[simp] theorem setCore_ttPrev (s : State) (c : Nat) (x : Core) : (setCore s c x).ttPrev = s.ttPrev := rfl
@[simp] theorem setCore_ttPre (s : State) (c : Nat) (x : Core) : (setCore s c x).ttPre = s.ttPre := rfl
@[simp] theorem setCore_ttSlot (s : State) (c : Nat) (x : Core) : (setCore s c x).ttSlot = s.ttSlot := rfl
@[simp] theorem setCore_keyLoads (s : State) (c : Nat) (x : Core) : (setCore s c x).keyLoads = s.keyLoads := rfl
@[simp] theorem setCore_spdm (s : State) (c : Nat) (x : Core) : (setCore s c x).spdm = s.spdm := rfl
@[simp] theorem setCore_out (s : State) (c : Nat) (x : Core) : (setCore s c x).out = s.out := rfl
@[simp] theorem setCore_bi (s : State) (c : Nat) (x : Core) : (setCore s c x).bi = s.bi := rfl
@[simp] theorem setCore_sensors (s : State) (c : Nat) (x : Core) : (setCore s c x).sensors = s.sensors := rfl
@[simp] theorem setCore_hbmStacks (s : State) (c : Nat) (x : Core) : (setCore s c x).hbmStacks = s.hbmStacks := rfl
@[simp] theorem setCore_image (s : State) (c : Nat) (x : Core) : (setCore s c x).image = s.image := rfl
@[simp] theorem setCore_seen (s : State) (c : Nat) (x : Core) : (setCore s c x).seen = s.seen := rfl
@[simp] theorem setCore_joining (s : State) (c : Nat) (x : Core) : (setCore s c x).joining = s.joining := rfl
@[simp] theorem setCore_peers (s : State) (c : Nat) (x : Core) : (setCore s c x).peers = s.peers := rfl
@[simp] theorem setCore_sweeps (s : State) (c : Nat) (x : Core) : (setCore s c x).sweeps = s.sweeps := rfl
@[simp] theorem setCore_ide (s : State) (c : Nat) (x : Core) : (setCore s c x).ide = s.ide := rfl
@[simp] theorem setCore_hdm (s : State) (c : Nat) (x : Core) : (setCore s c x).hdm = s.hdm := rfl
@[simp] theorem setCore_thermal (s : State) (c : Nat) (x : Core) : (setCore s c x).thermal = s.thermal := rfl
@[simp] theorem setCore_tree (s : State) (c : Nat) (x : Core) : (setCore s c x).tree = s.tree := rfl
@[simp] theorem setCore_treeMsgs (s : State) (c : Nat) (x : Core) : (setCore s c x).treeMsgs = s.treeMsgs := rfl
@[simp] theorem setCore_bbox (s : State) (c : Nat) (x : Core) : (setCore s c x).bbox = s.bbox := rfl
@[simp] theorem setCore_msix (s : State) (c : Nat) (x : Core) : (setCore s c x).msix = s.msix := rfl
@[simp] theorem setCore_dtc (s : State) (c : Nat) (x : Core) : (setCore s c x).dtc = s.dtc := rfl
@[simp] theorem setCore_halted (s : State) (c : Nat) (x : Core) : (setCore s c x).halted = s.halted := rfl
@[simp] theorem setCore_strikes (s : State) (c : Nat) (x : Core) : (setCore s c x).strikes = s.strikes := rfl
@[simp] theorem setCore_freeCount (s : State) (c : Nat) (x : Core) : (setCore s c x).freeCount = s.freeCount := rfl
@[simp] theorem setCore_agenda (s : State) (c : Nat) (x : Core) : (setCore s c x).agenda = s.agenda := rfl
@[simp] theorem setCore_cur (s : State) (c : Nat) (x : Core) : (setCore s c x).cur = s.cur := rfl
@[simp] theorem setCore_turn (s : State) (c : Nat) (x : Core) : (setCore s c x).turn = s.turn := rfl
@[simp] theorem setCore_flip (s : State) (c : Nat) (x : Core) : (setCore s c x).flip = s.flip := rfl

/-! ### updCore -/

@[simp] theorem updCore_mem (s : State) (c : Nat) (f : Core → Core) : (updCore s c f).mem = s.mem := rfl
@[simp] theorem updCore_poison (s : State) (c : Nat) (f : Core → Core) : (updCore s c f).poison = s.poison := rfl
@[simp] theorem updCore_keyTags (s : State) (c : Nat) (f : Core → Core) : (updCore s c f).keyTags = s.keyTags := rfl
@[simp] theorem updCore_l1 (s : State) (c : Nat) (f : Core → Core) : (updCore s c f).l1 = s.l1 := rfl
@[simp] theorem updCore_home (s : State) (c : Nat) (f : Core → Core) : (updCore s c f).home = s.home := rfl
@[simp] theorem updCore_dead (s : State) (c : Nat) (f : Core → Core) : (updCore s c f).dead = s.dead := rfl
@[simp] theorem updCore_keys (s : State) (c : Nat) (f : Core → Core) : (updCore s c f).keys = s.keys := rfl
@[simp] theorem updCore_leaves (s : State) (c : Nat) (f : Core → Core) : (updCore s c f).leaves = s.leaves := rfl
@[simp] theorem updCore_walks (s : State) (c : Nat) (f : Core → Core) : (updCore s c f).walks = s.walks := rfl
@[simp] theorem updCore_parks (s : State) (c : Nat) (f : Core → Core) : (updCore s c f).parks = s.parks := rfl
@[simp] theorem updCore_parkWait (s : State) (c : Nat) (f : Core → Core) : (updCore s c f).parkWait = s.parkWait := rfl
@[simp] theorem updCore_frecs (s : State) (c : Nat) (f : Core → Core) : (updCore s c f).frecs = s.frecs := rfl
@[simp] theorem updCore_noparks (s : State) (c : Nat) (f : Core → Core) : (updCore s c f).noparks = s.noparks := rfl
@[simp] theorem updCore_hists (s : State) (c : Nat) (f : Core → Core) : (updCore s c f).hists = s.hists := rfl
@[simp] theorem updCore_reqs (s : State) (c : Nat) (f : Core → Core) : (updCore s c f).reqs = s.reqs := rfl
@[simp] theorem updCore_held (s : State) (c : Nat) (f : Core → Core) : (updCore s c f).held = s.held := rfl
@[simp] theorem updCore_peerOut (s : State) (c : Nat) (f : Core → Core) : (updCore s c f).peerOut = s.peerOut := rfl
@[simp] theorem updCore_flits (s : State) (c : Nat) (f : Core → Core) : (updCore s c f).flits = s.flits := rfl
@[simp] theorem updCore_links (s : State) (c : Nat) (f : Core → Core) : (updCore s c f).links = s.links := rfl
@[simp] theorem updCore_tags (s : State) (c : Nat) (f : Core → Core) : (updCore s c f).tags = s.tags := rfl
@[simp] theorem updCore_hostErrors (s : State) (c : Nat) (f : Core → Core) : (updCore s c f).hostErrors = s.hostErrors := rfl
@[simp] theorem updCore_bankCmds (s : State) (c : Nat) (f : Core → Core) : (updCore s c f).bankCmds = s.bankCmds := rfl
@[simp] theorem updCore_rets (s : State) (c : Nat) (f : Core → Core) : (updCore s c f).rets = s.rets := rfl
@[simp] theorem updCore_reqNo (s : State) (c : Nat) (f : Core → Core) : (updCore s c f).reqNo = s.reqNo := rfl
@[simp] theorem updCore_groups (s : State) (c : Nat) (f : Core → Core) : (updCore s c f).groups = s.groups := rfl
@[simp] theorem updCore_bte (s : State) (c : Nat) (f : Core → Core) : (updCore s c f).bte = s.bte := rfl
@[simp] theorem updCore_blocks (s : State) (c : Nat) (f : Core → Core) : (updCore s c f).blocks = s.blocks := rfl
@[simp] theorem updCore_blockNo (s : State) (c : Nat) (f : Core → Core) : (updCore s c f).blockNo = s.blockNo := rfl
@[simp] theorem updCore_launches (s : State) (c : Nat) (f : Core → Core) : (updCore s c f).launches = s.launches := rfl
@[simp] theorem updCore_futures (s : State) (c : Nat) (f : Core → Core) : (updCore s c f).futures = s.futures := rfl
@[simp] theorem updCore_mgmt (s : State) (c : Nat) (f : Core → Core) : (updCore s c f).mgmt = s.mgmt := rfl
@[simp] theorem updCore_engines (s : State) (c : Nat) (f : Core → Core) : (updCore s c f).engines = s.engines := rfl
@[simp] theorem updCore_entNo (s : State) (c : Nat) (f : Core → Core) : (updCore s c f).entNo = s.entNo := rfl
@[simp] theorem updCore_dealtTo (s : State) (c : Nat) (f : Core → Core) : (updCore s c f).dealtTo = s.dealtTo := rfl
@[simp] theorem updCore_transit (s : State) (c : Nat) (f : Core → Core) : (updCore s c f).transit = s.transit := rfl
@[simp] theorem updCore_moves (s : State) (c : Nat) (f : Core → Core) : (updCore s c f).moves = s.moves := rfl
@[simp] theorem updCore_saves (s : State) (c : Nat) (f : Core → Core) : (updCore s c f).saves = s.saves := rfl
@[simp] theorem updCore_goats (s : State) (c : Nat) (f : Core → Core) : (updCore s c f).goats = s.goats := rfl
@[simp] theorem updCore_arrivals (s : State) (c : Nat) (f : Core → Core) : (updCore s c f).arrivals = s.arrivals := rfl
@[simp] theorem updCore_barWaits (s : State) (c : Nat) (f : Core → Core) : (updCore s c f).barWaits = s.barWaits := rfl
@[simp] theorem updCore_migs (s : State) (c : Nat) (f : Core → Core) : (updCore s c f).migs = s.migs := rfl
@[simp] theorem updCore_redirs (s : State) (c : Nat) (f : Core → Core) : (updCore s c f).redirs = s.redirs := rfl
@[simp] theorem updCore_evac (s : State) (c : Nat) (f : Core → Core) : (updCore s c f).evac = s.evac := rfl
@[simp] theorem updCore_cmds (s : State) (c : Nat) (f : Core → Core) : (updCore s c f).cmds = s.cmds := rfl
@[simp] theorem updCore_pendDec (s : State) (c : Nat) (f : Core → Core) : (updCore s c f).pendDec = s.pendDec := rfl
@[simp] theorem updCore_relWait (s : State) (c : Nat) (f : Core → Core) : (updCore s c f).relWait = s.relWait := rfl
@[simp] theorem updCore_lastQueue (s : State) (c : Nat) (f : Core → Core) : (updCore s c f).lastQueue = s.lastQueue := rfl
@[simp] theorem updCore_copy (s : State) (c : Nat) (f : Core → Core) : (updCore s c f).copy = s.copy := rfl
@[simp] theorem updCore_copyQueue (s : State) (c : Nat) (f : Core → Core) : (updCore s c f).copyQueue = s.copyQueue := rfl
@[simp] theorem updCore_ttIns (s : State) (c : Nat) (f : Core → Core) : (updCore s c f).ttIns = s.ttIns := rfl
@[simp] theorem updCore_ttPrev (s : State) (c : Nat) (f : Core → Core) : (updCore s c f).ttPrev = s.ttPrev := rfl
@[simp] theorem updCore_ttPre (s : State) (c : Nat) (f : Core → Core) : (updCore s c f).ttPre = s.ttPre := rfl
@[simp] theorem updCore_ttSlot (s : State) (c : Nat) (f : Core → Core) : (updCore s c f).ttSlot = s.ttSlot := rfl
@[simp] theorem updCore_keyLoads (s : State) (c : Nat) (f : Core → Core) : (updCore s c f).keyLoads = s.keyLoads := rfl
@[simp] theorem updCore_spdm (s : State) (c : Nat) (f : Core → Core) : (updCore s c f).spdm = s.spdm := rfl
@[simp] theorem updCore_out (s : State) (c : Nat) (f : Core → Core) : (updCore s c f).out = s.out := rfl
@[simp] theorem updCore_bi (s : State) (c : Nat) (f : Core → Core) : (updCore s c f).bi = s.bi := rfl
@[simp] theorem updCore_sensors (s : State) (c : Nat) (f : Core → Core) : (updCore s c f).sensors = s.sensors := rfl
@[simp] theorem updCore_hbmStacks (s : State) (c : Nat) (f : Core → Core) : (updCore s c f).hbmStacks = s.hbmStacks := rfl
@[simp] theorem updCore_image (s : State) (c : Nat) (f : Core → Core) : (updCore s c f).image = s.image := rfl
@[simp] theorem updCore_seen (s : State) (c : Nat) (f : Core → Core) : (updCore s c f).seen = s.seen := rfl
@[simp] theorem updCore_joining (s : State) (c : Nat) (f : Core → Core) : (updCore s c f).joining = s.joining := rfl
@[simp] theorem updCore_peers (s : State) (c : Nat) (f : Core → Core) : (updCore s c f).peers = s.peers := rfl
@[simp] theorem updCore_sweeps (s : State) (c : Nat) (f : Core → Core) : (updCore s c f).sweeps = s.sweeps := rfl
@[simp] theorem updCore_ide (s : State) (c : Nat) (f : Core → Core) : (updCore s c f).ide = s.ide := rfl
@[simp] theorem updCore_hdm (s : State) (c : Nat) (f : Core → Core) : (updCore s c f).hdm = s.hdm := rfl
@[simp] theorem updCore_thermal (s : State) (c : Nat) (f : Core → Core) : (updCore s c f).thermal = s.thermal := rfl
@[simp] theorem updCore_tree (s : State) (c : Nat) (f : Core → Core) : (updCore s c f).tree = s.tree := rfl
@[simp] theorem updCore_treeMsgs (s : State) (c : Nat) (f : Core → Core) : (updCore s c f).treeMsgs = s.treeMsgs := rfl
@[simp] theorem updCore_bbox (s : State) (c : Nat) (f : Core → Core) : (updCore s c f).bbox = s.bbox := rfl
@[simp] theorem updCore_msix (s : State) (c : Nat) (f : Core → Core) : (updCore s c f).msix = s.msix := rfl
@[simp] theorem updCore_dtc (s : State) (c : Nat) (f : Core → Core) : (updCore s c f).dtc = s.dtc := rfl
@[simp] theorem updCore_halted (s : State) (c : Nat) (f : Core → Core) : (updCore s c f).halted = s.halted := rfl
@[simp] theorem updCore_strikes (s : State) (c : Nat) (f : Core → Core) : (updCore s c f).strikes = s.strikes := rfl
@[simp] theorem updCore_freeCount (s : State) (c : Nat) (f : Core → Core) : (updCore s c f).freeCount = s.freeCount := rfl
@[simp] theorem updCore_agenda (s : State) (c : Nat) (f : Core → Core) : (updCore s c f).agenda = s.agenda := rfl
@[simp] theorem updCore_cur (s : State) (c : Nat) (f : Core → Core) : (updCore s c f).cur = s.cur := rfl
@[simp] theorem updCore_turn (s : State) (c : Nat) (f : Core → Core) : (updCore s c f).turn = s.turn := rfl
@[simp] theorem updCore_flip (s : State) (c : Nat) (f : Core → Core) : (updCore s c f).flip = s.flip := rfl

/-! ### setGroup -/

@[simp] theorem setGroup_mem (s : State) (k : Nat) (g : Group) : (setGroup s k g).mem = s.mem := rfl
@[simp] theorem setGroup_poison (s : State) (k : Nat) (g : Group) : (setGroup s k g).poison = s.poison := rfl
@[simp] theorem setGroup_keyTags (s : State) (k : Nat) (g : Group) : (setGroup s k g).keyTags = s.keyTags := rfl
@[simp] theorem setGroup_l1 (s : State) (k : Nat) (g : Group) : (setGroup s k g).l1 = s.l1 := rfl
@[simp] theorem setGroup_home (s : State) (k : Nat) (g : Group) : (setGroup s k g).home = s.home := rfl
@[simp] theorem setGroup_dead (s : State) (k : Nat) (g : Group) : (setGroup s k g).dead = s.dead := rfl
@[simp] theorem setGroup_keys (s : State) (k : Nat) (g : Group) : (setGroup s k g).keys = s.keys := rfl
@[simp] theorem setGroup_leaves (s : State) (k : Nat) (g : Group) : (setGroup s k g).leaves = s.leaves := rfl
@[simp] theorem setGroup_walks (s : State) (k : Nat) (g : Group) : (setGroup s k g).walks = s.walks := rfl
@[simp] theorem setGroup_parks (s : State) (k : Nat) (g : Group) : (setGroup s k g).parks = s.parks := rfl
@[simp] theorem setGroup_parkWait (s : State) (k : Nat) (g : Group) : (setGroup s k g).parkWait = s.parkWait := rfl
@[simp] theorem setGroup_frecs (s : State) (k : Nat) (g : Group) : (setGroup s k g).frecs = s.frecs := rfl
@[simp] theorem setGroup_noparks (s : State) (k : Nat) (g : Group) : (setGroup s k g).noparks = s.noparks := rfl
@[simp] theorem setGroup_hists (s : State) (k : Nat) (g : Group) : (setGroup s k g).hists = s.hists := rfl
@[simp] theorem setGroup_reqs (s : State) (k : Nat) (g : Group) : (setGroup s k g).reqs = s.reqs := rfl
@[simp] theorem setGroup_held (s : State) (k : Nat) (g : Group) : (setGroup s k g).held = s.held := rfl
@[simp] theorem setGroup_peerOut (s : State) (k : Nat) (g : Group) : (setGroup s k g).peerOut = s.peerOut := rfl
@[simp] theorem setGroup_flits (s : State) (k : Nat) (g : Group) : (setGroup s k g).flits = s.flits := rfl
@[simp] theorem setGroup_links (s : State) (k : Nat) (g : Group) : (setGroup s k g).links = s.links := rfl
@[simp] theorem setGroup_tags (s : State) (k : Nat) (g : Group) : (setGroup s k g).tags = s.tags := rfl
@[simp] theorem setGroup_hostErrors (s : State) (k : Nat) (g : Group) : (setGroup s k g).hostErrors = s.hostErrors := rfl
@[simp] theorem setGroup_bankCmds (s : State) (k : Nat) (g : Group) : (setGroup s k g).bankCmds = s.bankCmds := rfl
@[simp] theorem setGroup_rets (s : State) (k : Nat) (g : Group) : (setGroup s k g).rets = s.rets := rfl
@[simp] theorem setGroup_reqNo (s : State) (k : Nat) (g : Group) : (setGroup s k g).reqNo = s.reqNo := rfl
@[simp] theorem setGroup_cores (s : State) (k : Nat) (g : Group) : (setGroup s k g).cores = s.cores := rfl
@[simp] theorem setGroup_bte (s : State) (k : Nat) (g : Group) : (setGroup s k g).bte = s.bte := rfl
@[simp] theorem setGroup_blocks (s : State) (k : Nat) (g : Group) : (setGroup s k g).blocks = s.blocks := rfl
@[simp] theorem setGroup_blockNo (s : State) (k : Nat) (g : Group) : (setGroup s k g).blockNo = s.blockNo := rfl
@[simp] theorem setGroup_launches (s : State) (k : Nat) (g : Group) : (setGroup s k g).launches = s.launches := rfl
@[simp] theorem setGroup_futures (s : State) (k : Nat) (g : Group) : (setGroup s k g).futures = s.futures := rfl
@[simp] theorem setGroup_mgmt (s : State) (k : Nat) (g : Group) : (setGroup s k g).mgmt = s.mgmt := rfl
@[simp] theorem setGroup_engines (s : State) (k : Nat) (g : Group) : (setGroup s k g).engines = s.engines := rfl
@[simp] theorem setGroup_entNo (s : State) (k : Nat) (g : Group) : (setGroup s k g).entNo = s.entNo := rfl
@[simp] theorem setGroup_dealtTo (s : State) (k : Nat) (g : Group) : (setGroup s k g).dealtTo = s.dealtTo := rfl
@[simp] theorem setGroup_transit (s : State) (k : Nat) (g : Group) : (setGroup s k g).transit = s.transit := rfl
@[simp] theorem setGroup_moves (s : State) (k : Nat) (g : Group) : (setGroup s k g).moves = s.moves := rfl
@[simp] theorem setGroup_saves (s : State) (k : Nat) (g : Group) : (setGroup s k g).saves = s.saves := rfl
@[simp] theorem setGroup_goats (s : State) (k : Nat) (g : Group) : (setGroup s k g).goats = s.goats := rfl
@[simp] theorem setGroup_arrivals (s : State) (k : Nat) (g : Group) : (setGroup s k g).arrivals = s.arrivals := rfl
@[simp] theorem setGroup_barWaits (s : State) (k : Nat) (g : Group) : (setGroup s k g).barWaits = s.barWaits := rfl
@[simp] theorem setGroup_migs (s : State) (k : Nat) (g : Group) : (setGroup s k g).migs = s.migs := rfl
@[simp] theorem setGroup_redirs (s : State) (k : Nat) (g : Group) : (setGroup s k g).redirs = s.redirs := rfl
@[simp] theorem setGroup_evac (s : State) (k : Nat) (g : Group) : (setGroup s k g).evac = s.evac := rfl
@[simp] theorem setGroup_cmds (s : State) (k : Nat) (g : Group) : (setGroup s k g).cmds = s.cmds := rfl
@[simp] theorem setGroup_pendDec (s : State) (k : Nat) (g : Group) : (setGroup s k g).pendDec = s.pendDec := rfl
@[simp] theorem setGroup_relWait (s : State) (k : Nat) (g : Group) : (setGroup s k g).relWait = s.relWait := rfl
@[simp] theorem setGroup_lastQueue (s : State) (k : Nat) (g : Group) : (setGroup s k g).lastQueue = s.lastQueue := rfl
@[simp] theorem setGroup_copy (s : State) (k : Nat) (g : Group) : (setGroup s k g).copy = s.copy := rfl
@[simp] theorem setGroup_copyQueue (s : State) (k : Nat) (g : Group) : (setGroup s k g).copyQueue = s.copyQueue := rfl
@[simp] theorem setGroup_ttIns (s : State) (k : Nat) (g : Group) : (setGroup s k g).ttIns = s.ttIns := rfl
@[simp] theorem setGroup_ttPrev (s : State) (k : Nat) (g : Group) : (setGroup s k g).ttPrev = s.ttPrev := rfl
@[simp] theorem setGroup_ttPre (s : State) (k : Nat) (g : Group) : (setGroup s k g).ttPre = s.ttPre := rfl
@[simp] theorem setGroup_ttSlot (s : State) (k : Nat) (g : Group) : (setGroup s k g).ttSlot = s.ttSlot := rfl
@[simp] theorem setGroup_keyLoads (s : State) (k : Nat) (g : Group) : (setGroup s k g).keyLoads = s.keyLoads := rfl
@[simp] theorem setGroup_spdm (s : State) (k : Nat) (g : Group) : (setGroup s k g).spdm = s.spdm := rfl
@[simp] theorem setGroup_out (s : State) (k : Nat) (g : Group) : (setGroup s k g).out = s.out := rfl
@[simp] theorem setGroup_bi (s : State) (k : Nat) (g : Group) : (setGroup s k g).bi = s.bi := rfl
@[simp] theorem setGroup_sensors (s : State) (k : Nat) (g : Group) : (setGroup s k g).sensors = s.sensors := rfl
@[simp] theorem setGroup_hbmStacks (s : State) (k : Nat) (g : Group) : (setGroup s k g).hbmStacks = s.hbmStacks := rfl
@[simp] theorem setGroup_image (s : State) (k : Nat) (g : Group) : (setGroup s k g).image = s.image := rfl
@[simp] theorem setGroup_seen (s : State) (k : Nat) (g : Group) : (setGroup s k g).seen = s.seen := rfl
@[simp] theorem setGroup_joining (s : State) (k : Nat) (g : Group) : (setGroup s k g).joining = s.joining := rfl
@[simp] theorem setGroup_peers (s : State) (k : Nat) (g : Group) : (setGroup s k g).peers = s.peers := rfl
@[simp] theorem setGroup_sweeps (s : State) (k : Nat) (g : Group) : (setGroup s k g).sweeps = s.sweeps := rfl
@[simp] theorem setGroup_ide (s : State) (k : Nat) (g : Group) : (setGroup s k g).ide = s.ide := rfl
@[simp] theorem setGroup_hdm (s : State) (k : Nat) (g : Group) : (setGroup s k g).hdm = s.hdm := rfl
@[simp] theorem setGroup_thermal (s : State) (k : Nat) (g : Group) : (setGroup s k g).thermal = s.thermal := rfl
@[simp] theorem setGroup_tree (s : State) (k : Nat) (g : Group) : (setGroup s k g).tree = s.tree := rfl
@[simp] theorem setGroup_treeMsgs (s : State) (k : Nat) (g : Group) : (setGroup s k g).treeMsgs = s.treeMsgs := rfl
@[simp] theorem setGroup_bbox (s : State) (k : Nat) (g : Group) : (setGroup s k g).bbox = s.bbox := rfl
@[simp] theorem setGroup_msix (s : State) (k : Nat) (g : Group) : (setGroup s k g).msix = s.msix := rfl
@[simp] theorem setGroup_dtc (s : State) (k : Nat) (g : Group) : (setGroup s k g).dtc = s.dtc := rfl
@[simp] theorem setGroup_halted (s : State) (k : Nat) (g : Group) : (setGroup s k g).halted = s.halted := rfl
@[simp] theorem setGroup_strikes (s : State) (k : Nat) (g : Group) : (setGroup s k g).strikes = s.strikes := rfl
@[simp] theorem setGroup_freeCount (s : State) (k : Nat) (g : Group) : (setGroup s k g).freeCount = s.freeCount := rfl
@[simp] theorem setGroup_agenda (s : State) (k : Nat) (g : Group) : (setGroup s k g).agenda = s.agenda := rfl
@[simp] theorem setGroup_cur (s : State) (k : Nat) (g : Group) : (setGroup s k g).cur = s.cur := rfl
@[simp] theorem setGroup_turn (s : State) (k : Nat) (g : Group) : (setGroup s k g).turn = s.turn := rfl
@[simp] theorem setGroup_flip (s : State) (k : Nat) (g : Group) : (setGroup s k g).flip = s.flip := rfl

/-! ### updGroup -/

@[simp] theorem updGroup_mem (s : State) (k : Nat) (f : Group → Group) : (updGroup s k f).mem = s.mem := rfl
@[simp] theorem updGroup_poison (s : State) (k : Nat) (f : Group → Group) : (updGroup s k f).poison = s.poison := rfl
@[simp] theorem updGroup_keyTags (s : State) (k : Nat) (f : Group → Group) : (updGroup s k f).keyTags = s.keyTags := rfl
@[simp] theorem updGroup_l1 (s : State) (k : Nat) (f : Group → Group) : (updGroup s k f).l1 = s.l1 := rfl
@[simp] theorem updGroup_home (s : State) (k : Nat) (f : Group → Group) : (updGroup s k f).home = s.home := rfl
@[simp] theorem updGroup_dead (s : State) (k : Nat) (f : Group → Group) : (updGroup s k f).dead = s.dead := rfl
@[simp] theorem updGroup_keys (s : State) (k : Nat) (f : Group → Group) : (updGroup s k f).keys = s.keys := rfl
@[simp] theorem updGroup_leaves (s : State) (k : Nat) (f : Group → Group) : (updGroup s k f).leaves = s.leaves := rfl
@[simp] theorem updGroup_walks (s : State) (k : Nat) (f : Group → Group) : (updGroup s k f).walks = s.walks := rfl
@[simp] theorem updGroup_parks (s : State) (k : Nat) (f : Group → Group) : (updGroup s k f).parks = s.parks := rfl
@[simp] theorem updGroup_parkWait (s : State) (k : Nat) (f : Group → Group) : (updGroup s k f).parkWait = s.parkWait := rfl
@[simp] theorem updGroup_frecs (s : State) (k : Nat) (f : Group → Group) : (updGroup s k f).frecs = s.frecs := rfl
@[simp] theorem updGroup_noparks (s : State) (k : Nat) (f : Group → Group) : (updGroup s k f).noparks = s.noparks := rfl
@[simp] theorem updGroup_hists (s : State) (k : Nat) (f : Group → Group) : (updGroup s k f).hists = s.hists := rfl
@[simp] theorem updGroup_reqs (s : State) (k : Nat) (f : Group → Group) : (updGroup s k f).reqs = s.reqs := rfl
@[simp] theorem updGroup_held (s : State) (k : Nat) (f : Group → Group) : (updGroup s k f).held = s.held := rfl
@[simp] theorem updGroup_peerOut (s : State) (k : Nat) (f : Group → Group) : (updGroup s k f).peerOut = s.peerOut := rfl
@[simp] theorem updGroup_flits (s : State) (k : Nat) (f : Group → Group) : (updGroup s k f).flits = s.flits := rfl
@[simp] theorem updGroup_links (s : State) (k : Nat) (f : Group → Group) : (updGroup s k f).links = s.links := rfl
@[simp] theorem updGroup_tags (s : State) (k : Nat) (f : Group → Group) : (updGroup s k f).tags = s.tags := rfl
@[simp] theorem updGroup_hostErrors (s : State) (k : Nat) (f : Group → Group) : (updGroup s k f).hostErrors = s.hostErrors := rfl
@[simp] theorem updGroup_bankCmds (s : State) (k : Nat) (f : Group → Group) : (updGroup s k f).bankCmds = s.bankCmds := rfl
@[simp] theorem updGroup_rets (s : State) (k : Nat) (f : Group → Group) : (updGroup s k f).rets = s.rets := rfl
@[simp] theorem updGroup_reqNo (s : State) (k : Nat) (f : Group → Group) : (updGroup s k f).reqNo = s.reqNo := rfl
@[simp] theorem updGroup_cores (s : State) (k : Nat) (f : Group → Group) : (updGroup s k f).cores = s.cores := rfl
@[simp] theorem updGroup_bte (s : State) (k : Nat) (f : Group → Group) : (updGroup s k f).bte = s.bte := rfl
@[simp] theorem updGroup_blocks (s : State) (k : Nat) (f : Group → Group) : (updGroup s k f).blocks = s.blocks := rfl
@[simp] theorem updGroup_blockNo (s : State) (k : Nat) (f : Group → Group) : (updGroup s k f).blockNo = s.blockNo := rfl
@[simp] theorem updGroup_launches (s : State) (k : Nat) (f : Group → Group) : (updGroup s k f).launches = s.launches := rfl
@[simp] theorem updGroup_futures (s : State) (k : Nat) (f : Group → Group) : (updGroup s k f).futures = s.futures := rfl
@[simp] theorem updGroup_mgmt (s : State) (k : Nat) (f : Group → Group) : (updGroup s k f).mgmt = s.mgmt := rfl
@[simp] theorem updGroup_engines (s : State) (k : Nat) (f : Group → Group) : (updGroup s k f).engines = s.engines := rfl
@[simp] theorem updGroup_entNo (s : State) (k : Nat) (f : Group → Group) : (updGroup s k f).entNo = s.entNo := rfl
@[simp] theorem updGroup_dealtTo (s : State) (k : Nat) (f : Group → Group) : (updGroup s k f).dealtTo = s.dealtTo := rfl
@[simp] theorem updGroup_transit (s : State) (k : Nat) (f : Group → Group) : (updGroup s k f).transit = s.transit := rfl
@[simp] theorem updGroup_moves (s : State) (k : Nat) (f : Group → Group) : (updGroup s k f).moves = s.moves := rfl
@[simp] theorem updGroup_saves (s : State) (k : Nat) (f : Group → Group) : (updGroup s k f).saves = s.saves := rfl
@[simp] theorem updGroup_goats (s : State) (k : Nat) (f : Group → Group) : (updGroup s k f).goats = s.goats := rfl
@[simp] theorem updGroup_arrivals (s : State) (k : Nat) (f : Group → Group) : (updGroup s k f).arrivals = s.arrivals := rfl
@[simp] theorem updGroup_barWaits (s : State) (k : Nat) (f : Group → Group) : (updGroup s k f).barWaits = s.barWaits := rfl
@[simp] theorem updGroup_migs (s : State) (k : Nat) (f : Group → Group) : (updGroup s k f).migs = s.migs := rfl
@[simp] theorem updGroup_redirs (s : State) (k : Nat) (f : Group → Group) : (updGroup s k f).redirs = s.redirs := rfl
@[simp] theorem updGroup_evac (s : State) (k : Nat) (f : Group → Group) : (updGroup s k f).evac = s.evac := rfl
@[simp] theorem updGroup_cmds (s : State) (k : Nat) (f : Group → Group) : (updGroup s k f).cmds = s.cmds := rfl
@[simp] theorem updGroup_pendDec (s : State) (k : Nat) (f : Group → Group) : (updGroup s k f).pendDec = s.pendDec := rfl
@[simp] theorem updGroup_relWait (s : State) (k : Nat) (f : Group → Group) : (updGroup s k f).relWait = s.relWait := rfl
@[simp] theorem updGroup_lastQueue (s : State) (k : Nat) (f : Group → Group) : (updGroup s k f).lastQueue = s.lastQueue := rfl
@[simp] theorem updGroup_copy (s : State) (k : Nat) (f : Group → Group) : (updGroup s k f).copy = s.copy := rfl
@[simp] theorem updGroup_copyQueue (s : State) (k : Nat) (f : Group → Group) : (updGroup s k f).copyQueue = s.copyQueue := rfl
@[simp] theorem updGroup_ttIns (s : State) (k : Nat) (f : Group → Group) : (updGroup s k f).ttIns = s.ttIns := rfl
@[simp] theorem updGroup_ttPrev (s : State) (k : Nat) (f : Group → Group) : (updGroup s k f).ttPrev = s.ttPrev := rfl
@[simp] theorem updGroup_ttPre (s : State) (k : Nat) (f : Group → Group) : (updGroup s k f).ttPre = s.ttPre := rfl
@[simp] theorem updGroup_ttSlot (s : State) (k : Nat) (f : Group → Group) : (updGroup s k f).ttSlot = s.ttSlot := rfl
@[simp] theorem updGroup_keyLoads (s : State) (k : Nat) (f : Group → Group) : (updGroup s k f).keyLoads = s.keyLoads := rfl
@[simp] theorem updGroup_spdm (s : State) (k : Nat) (f : Group → Group) : (updGroup s k f).spdm = s.spdm := rfl
@[simp] theorem updGroup_out (s : State) (k : Nat) (f : Group → Group) : (updGroup s k f).out = s.out := rfl
@[simp] theorem updGroup_bi (s : State) (k : Nat) (f : Group → Group) : (updGroup s k f).bi = s.bi := rfl
@[simp] theorem updGroup_sensors (s : State) (k : Nat) (f : Group → Group) : (updGroup s k f).sensors = s.sensors := rfl
@[simp] theorem updGroup_hbmStacks (s : State) (k : Nat) (f : Group → Group) : (updGroup s k f).hbmStacks = s.hbmStacks := rfl
@[simp] theorem updGroup_image (s : State) (k : Nat) (f : Group → Group) : (updGroup s k f).image = s.image := rfl
@[simp] theorem updGroup_seen (s : State) (k : Nat) (f : Group → Group) : (updGroup s k f).seen = s.seen := rfl
@[simp] theorem updGroup_joining (s : State) (k : Nat) (f : Group → Group) : (updGroup s k f).joining = s.joining := rfl
@[simp] theorem updGroup_peers (s : State) (k : Nat) (f : Group → Group) : (updGroup s k f).peers = s.peers := rfl
@[simp] theorem updGroup_sweeps (s : State) (k : Nat) (f : Group → Group) : (updGroup s k f).sweeps = s.sweeps := rfl
@[simp] theorem updGroup_ide (s : State) (k : Nat) (f : Group → Group) : (updGroup s k f).ide = s.ide := rfl
@[simp] theorem updGroup_hdm (s : State) (k : Nat) (f : Group → Group) : (updGroup s k f).hdm = s.hdm := rfl
@[simp] theorem updGroup_thermal (s : State) (k : Nat) (f : Group → Group) : (updGroup s k f).thermal = s.thermal := rfl
@[simp] theorem updGroup_tree (s : State) (k : Nat) (f : Group → Group) : (updGroup s k f).tree = s.tree := rfl
@[simp] theorem updGroup_treeMsgs (s : State) (k : Nat) (f : Group → Group) : (updGroup s k f).treeMsgs = s.treeMsgs := rfl
@[simp] theorem updGroup_bbox (s : State) (k : Nat) (f : Group → Group) : (updGroup s k f).bbox = s.bbox := rfl
@[simp] theorem updGroup_msix (s : State) (k : Nat) (f : Group → Group) : (updGroup s k f).msix = s.msix := rfl
@[simp] theorem updGroup_dtc (s : State) (k : Nat) (f : Group → Group) : (updGroup s k f).dtc = s.dtc := rfl
@[simp] theorem updGroup_halted (s : State) (k : Nat) (f : Group → Group) : (updGroup s k f).halted = s.halted := rfl
@[simp] theorem updGroup_strikes (s : State) (k : Nat) (f : Group → Group) : (updGroup s k f).strikes = s.strikes := rfl
@[simp] theorem updGroup_freeCount (s : State) (k : Nat) (f : Group → Group) : (updGroup s k f).freeCount = s.freeCount := rfl
@[simp] theorem updGroup_agenda (s : State) (k : Nat) (f : Group → Group) : (updGroup s k f).agenda = s.agenda := rfl
@[simp] theorem updGroup_cur (s : State) (k : Nat) (f : Group → Group) : (updGroup s k f).cur = s.cur := rfl
@[simp] theorem updGroup_turn (s : State) (k : Nat) (f : Group → Group) : (updGroup s k f).turn = s.turn := rfl
@[simp] theorem updGroup_flip (s : State) (k : Nat) (f : Group → Group) : (updGroup s k f).flip = s.flip := rfl

/-! ### setBlock -/

@[simp] theorem setBlock_mem (s : State) (b : Nat) (x : Block) : (setBlock s b x).mem = s.mem := rfl
@[simp] theorem setBlock_poison (s : State) (b : Nat) (x : Block) : (setBlock s b x).poison = s.poison := rfl
@[simp] theorem setBlock_keyTags (s : State) (b : Nat) (x : Block) : (setBlock s b x).keyTags = s.keyTags := rfl
@[simp] theorem setBlock_l1 (s : State) (b : Nat) (x : Block) : (setBlock s b x).l1 = s.l1 := rfl
@[simp] theorem setBlock_home (s : State) (b : Nat) (x : Block) : (setBlock s b x).home = s.home := rfl
@[simp] theorem setBlock_dead (s : State) (b : Nat) (x : Block) : (setBlock s b x).dead = s.dead := rfl
@[simp] theorem setBlock_keys (s : State) (b : Nat) (x : Block) : (setBlock s b x).keys = s.keys := rfl
@[simp] theorem setBlock_leaves (s : State) (b : Nat) (x : Block) : (setBlock s b x).leaves = s.leaves := rfl
@[simp] theorem setBlock_walks (s : State) (b : Nat) (x : Block) : (setBlock s b x).walks = s.walks := rfl
@[simp] theorem setBlock_parks (s : State) (b : Nat) (x : Block) : (setBlock s b x).parks = s.parks := rfl
@[simp] theorem setBlock_parkWait (s : State) (b : Nat) (x : Block) : (setBlock s b x).parkWait = s.parkWait := rfl
@[simp] theorem setBlock_frecs (s : State) (b : Nat) (x : Block) : (setBlock s b x).frecs = s.frecs := rfl
@[simp] theorem setBlock_noparks (s : State) (b : Nat) (x : Block) : (setBlock s b x).noparks = s.noparks := rfl
@[simp] theorem setBlock_hists (s : State) (b : Nat) (x : Block) : (setBlock s b x).hists = s.hists := rfl
@[simp] theorem setBlock_reqs (s : State) (b : Nat) (x : Block) : (setBlock s b x).reqs = s.reqs := rfl
@[simp] theorem setBlock_held (s : State) (b : Nat) (x : Block) : (setBlock s b x).held = s.held := rfl
@[simp] theorem setBlock_peerOut (s : State) (b : Nat) (x : Block) : (setBlock s b x).peerOut = s.peerOut := rfl
@[simp] theorem setBlock_flits (s : State) (b : Nat) (x : Block) : (setBlock s b x).flits = s.flits := rfl
@[simp] theorem setBlock_links (s : State) (b : Nat) (x : Block) : (setBlock s b x).links = s.links := rfl
@[simp] theorem setBlock_tags (s : State) (b : Nat) (x : Block) : (setBlock s b x).tags = s.tags := rfl
@[simp] theorem setBlock_hostErrors (s : State) (b : Nat) (x : Block) : (setBlock s b x).hostErrors = s.hostErrors := rfl
@[simp] theorem setBlock_bankCmds (s : State) (b : Nat) (x : Block) : (setBlock s b x).bankCmds = s.bankCmds := rfl
@[simp] theorem setBlock_rets (s : State) (b : Nat) (x : Block) : (setBlock s b x).rets = s.rets := rfl
@[simp] theorem setBlock_reqNo (s : State) (b : Nat) (x : Block) : (setBlock s b x).reqNo = s.reqNo := rfl
@[simp] theorem setBlock_groups (s : State) (b : Nat) (x : Block) : (setBlock s b x).groups = s.groups := rfl
@[simp] theorem setBlock_cores (s : State) (b : Nat) (x : Block) : (setBlock s b x).cores = s.cores := rfl
@[simp] theorem setBlock_bte (s : State) (b : Nat) (x : Block) : (setBlock s b x).bte = s.bte := rfl
@[simp] theorem setBlock_blockNo (s : State) (b : Nat) (x : Block) : (setBlock s b x).blockNo = s.blockNo := rfl
@[simp] theorem setBlock_launches (s : State) (b : Nat) (x : Block) : (setBlock s b x).launches = s.launches := rfl
@[simp] theorem setBlock_futures (s : State) (b : Nat) (x : Block) : (setBlock s b x).futures = s.futures := rfl
@[simp] theorem setBlock_mgmt (s : State) (b : Nat) (x : Block) : (setBlock s b x).mgmt = s.mgmt := rfl
@[simp] theorem setBlock_engines (s : State) (b : Nat) (x : Block) : (setBlock s b x).engines = s.engines := rfl
@[simp] theorem setBlock_entNo (s : State) (b : Nat) (x : Block) : (setBlock s b x).entNo = s.entNo := rfl
@[simp] theorem setBlock_dealtTo (s : State) (b : Nat) (x : Block) : (setBlock s b x).dealtTo = s.dealtTo := rfl
@[simp] theorem setBlock_transit (s : State) (b : Nat) (x : Block) : (setBlock s b x).transit = s.transit := rfl
@[simp] theorem setBlock_moves (s : State) (b : Nat) (x : Block) : (setBlock s b x).moves = s.moves := rfl
@[simp] theorem setBlock_saves (s : State) (b : Nat) (x : Block) : (setBlock s b x).saves = s.saves := rfl
@[simp] theorem setBlock_goats (s : State) (b : Nat) (x : Block) : (setBlock s b x).goats = s.goats := rfl
@[simp] theorem setBlock_arrivals (s : State) (b : Nat) (x : Block) : (setBlock s b x).arrivals = s.arrivals := rfl
@[simp] theorem setBlock_barWaits (s : State) (b : Nat) (x : Block) : (setBlock s b x).barWaits = s.barWaits := rfl
@[simp] theorem setBlock_migs (s : State) (b : Nat) (x : Block) : (setBlock s b x).migs = s.migs := rfl
@[simp] theorem setBlock_redirs (s : State) (b : Nat) (x : Block) : (setBlock s b x).redirs = s.redirs := rfl
@[simp] theorem setBlock_evac (s : State) (b : Nat) (x : Block) : (setBlock s b x).evac = s.evac := rfl
@[simp] theorem setBlock_cmds (s : State) (b : Nat) (x : Block) : (setBlock s b x).cmds = s.cmds := rfl
@[simp] theorem setBlock_pendDec (s : State) (b : Nat) (x : Block) : (setBlock s b x).pendDec = s.pendDec := rfl
@[simp] theorem setBlock_relWait (s : State) (b : Nat) (x : Block) : (setBlock s b x).relWait = s.relWait := rfl
@[simp] theorem setBlock_lastQueue (s : State) (b : Nat) (x : Block) : (setBlock s b x).lastQueue = s.lastQueue := rfl
@[simp] theorem setBlock_copy (s : State) (b : Nat) (x : Block) : (setBlock s b x).copy = s.copy := rfl
@[simp] theorem setBlock_copyQueue (s : State) (b : Nat) (x : Block) : (setBlock s b x).copyQueue = s.copyQueue := rfl
@[simp] theorem setBlock_ttIns (s : State) (b : Nat) (x : Block) : (setBlock s b x).ttIns = s.ttIns := rfl
@[simp] theorem setBlock_ttPrev (s : State) (b : Nat) (x : Block) : (setBlock s b x).ttPrev = s.ttPrev := rfl
@[simp] theorem setBlock_ttPre (s : State) (b : Nat) (x : Block) : (setBlock s b x).ttPre = s.ttPre := rfl
@[simp] theorem setBlock_ttSlot (s : State) (b : Nat) (x : Block) : (setBlock s b x).ttSlot = s.ttSlot := rfl
@[simp] theorem setBlock_keyLoads (s : State) (b : Nat) (x : Block) : (setBlock s b x).keyLoads = s.keyLoads := rfl
@[simp] theorem setBlock_spdm (s : State) (b : Nat) (x : Block) : (setBlock s b x).spdm = s.spdm := rfl
@[simp] theorem setBlock_out (s : State) (b : Nat) (x : Block) : (setBlock s b x).out = s.out := rfl
@[simp] theorem setBlock_bi (s : State) (b : Nat) (x : Block) : (setBlock s b x).bi = s.bi := rfl
@[simp] theorem setBlock_sensors (s : State) (b : Nat) (x : Block) : (setBlock s b x).sensors = s.sensors := rfl
@[simp] theorem setBlock_hbmStacks (s : State) (b : Nat) (x : Block) : (setBlock s b x).hbmStacks = s.hbmStacks := rfl
@[simp] theorem setBlock_image (s : State) (b : Nat) (x : Block) : (setBlock s b x).image = s.image := rfl
@[simp] theorem setBlock_seen (s : State) (b : Nat) (x : Block) : (setBlock s b x).seen = s.seen := rfl
@[simp] theorem setBlock_joining (s : State) (b : Nat) (x : Block) : (setBlock s b x).joining = s.joining := rfl
@[simp] theorem setBlock_peers (s : State) (b : Nat) (x : Block) : (setBlock s b x).peers = s.peers := rfl
@[simp] theorem setBlock_sweeps (s : State) (b : Nat) (x : Block) : (setBlock s b x).sweeps = s.sweeps := rfl
@[simp] theorem setBlock_ide (s : State) (b : Nat) (x : Block) : (setBlock s b x).ide = s.ide := rfl
@[simp] theorem setBlock_hdm (s : State) (b : Nat) (x : Block) : (setBlock s b x).hdm = s.hdm := rfl
@[simp] theorem setBlock_thermal (s : State) (b : Nat) (x : Block) : (setBlock s b x).thermal = s.thermal := rfl
@[simp] theorem setBlock_tree (s : State) (b : Nat) (x : Block) : (setBlock s b x).tree = s.tree := rfl
@[simp] theorem setBlock_treeMsgs (s : State) (b : Nat) (x : Block) : (setBlock s b x).treeMsgs = s.treeMsgs := rfl
@[simp] theorem setBlock_bbox (s : State) (b : Nat) (x : Block) : (setBlock s b x).bbox = s.bbox := rfl
@[simp] theorem setBlock_msix (s : State) (b : Nat) (x : Block) : (setBlock s b x).msix = s.msix := rfl
@[simp] theorem setBlock_dtc (s : State) (b : Nat) (x : Block) : (setBlock s b x).dtc = s.dtc := rfl
@[simp] theorem setBlock_halted (s : State) (b : Nat) (x : Block) : (setBlock s b x).halted = s.halted := rfl
@[simp] theorem setBlock_strikes (s : State) (b : Nat) (x : Block) : (setBlock s b x).strikes = s.strikes := rfl
@[simp] theorem setBlock_freeCount (s : State) (b : Nat) (x : Block) : (setBlock s b x).freeCount = s.freeCount := rfl
@[simp] theorem setBlock_agenda (s : State) (b : Nat) (x : Block) : (setBlock s b x).agenda = s.agenda := rfl
@[simp] theorem setBlock_cur (s : State) (b : Nat) (x : Block) : (setBlock s b x).cur = s.cur := rfl
@[simp] theorem setBlock_turn (s : State) (b : Nat) (x : Block) : (setBlock s b x).turn = s.turn := rfl
@[simp] theorem setBlock_flip (s : State) (b : Nat) (x : Block) : (setBlock s b x).flip = s.flip := rfl

/-! ### updBlock -/

@[simp] theorem updBlock_mem (s : State) (b : Nat) (f : Block → Block) : (updBlock s b f).mem = s.mem := rfl
@[simp] theorem updBlock_poison (s : State) (b : Nat) (f : Block → Block) : (updBlock s b f).poison = s.poison := rfl
@[simp] theorem updBlock_keyTags (s : State) (b : Nat) (f : Block → Block) : (updBlock s b f).keyTags = s.keyTags := rfl
@[simp] theorem updBlock_l1 (s : State) (b : Nat) (f : Block → Block) : (updBlock s b f).l1 = s.l1 := rfl
@[simp] theorem updBlock_home (s : State) (b : Nat) (f : Block → Block) : (updBlock s b f).home = s.home := rfl
@[simp] theorem updBlock_dead (s : State) (b : Nat) (f : Block → Block) : (updBlock s b f).dead = s.dead := rfl
@[simp] theorem updBlock_keys (s : State) (b : Nat) (f : Block → Block) : (updBlock s b f).keys = s.keys := rfl
@[simp] theorem updBlock_leaves (s : State) (b : Nat) (f : Block → Block) : (updBlock s b f).leaves = s.leaves := rfl
@[simp] theorem updBlock_walks (s : State) (b : Nat) (f : Block → Block) : (updBlock s b f).walks = s.walks := rfl
@[simp] theorem updBlock_parks (s : State) (b : Nat) (f : Block → Block) : (updBlock s b f).parks = s.parks := rfl
@[simp] theorem updBlock_parkWait (s : State) (b : Nat) (f : Block → Block) : (updBlock s b f).parkWait = s.parkWait := rfl
@[simp] theorem updBlock_frecs (s : State) (b : Nat) (f : Block → Block) : (updBlock s b f).frecs = s.frecs := rfl
@[simp] theorem updBlock_noparks (s : State) (b : Nat) (f : Block → Block) : (updBlock s b f).noparks = s.noparks := rfl
@[simp] theorem updBlock_hists (s : State) (b : Nat) (f : Block → Block) : (updBlock s b f).hists = s.hists := rfl
@[simp] theorem updBlock_reqs (s : State) (b : Nat) (f : Block → Block) : (updBlock s b f).reqs = s.reqs := rfl
@[simp] theorem updBlock_held (s : State) (b : Nat) (f : Block → Block) : (updBlock s b f).held = s.held := rfl
@[simp] theorem updBlock_peerOut (s : State) (b : Nat) (f : Block → Block) : (updBlock s b f).peerOut = s.peerOut := rfl
@[simp] theorem updBlock_flits (s : State) (b : Nat) (f : Block → Block) : (updBlock s b f).flits = s.flits := rfl
@[simp] theorem updBlock_links (s : State) (b : Nat) (f : Block → Block) : (updBlock s b f).links = s.links := rfl
@[simp] theorem updBlock_tags (s : State) (b : Nat) (f : Block → Block) : (updBlock s b f).tags = s.tags := rfl
@[simp] theorem updBlock_hostErrors (s : State) (b : Nat) (f : Block → Block) : (updBlock s b f).hostErrors = s.hostErrors := rfl
@[simp] theorem updBlock_bankCmds (s : State) (b : Nat) (f : Block → Block) : (updBlock s b f).bankCmds = s.bankCmds := rfl
@[simp] theorem updBlock_rets (s : State) (b : Nat) (f : Block → Block) : (updBlock s b f).rets = s.rets := rfl
@[simp] theorem updBlock_reqNo (s : State) (b : Nat) (f : Block → Block) : (updBlock s b f).reqNo = s.reqNo := rfl
@[simp] theorem updBlock_groups (s : State) (b : Nat) (f : Block → Block) : (updBlock s b f).groups = s.groups := rfl
@[simp] theorem updBlock_cores (s : State) (b : Nat) (f : Block → Block) : (updBlock s b f).cores = s.cores := rfl
@[simp] theorem updBlock_bte (s : State) (b : Nat) (f : Block → Block) : (updBlock s b f).bte = s.bte := rfl
@[simp] theorem updBlock_blockNo (s : State) (b : Nat) (f : Block → Block) : (updBlock s b f).blockNo = s.blockNo := rfl
@[simp] theorem updBlock_launches (s : State) (b : Nat) (f : Block → Block) : (updBlock s b f).launches = s.launches := rfl
@[simp] theorem updBlock_futures (s : State) (b : Nat) (f : Block → Block) : (updBlock s b f).futures = s.futures := rfl
@[simp] theorem updBlock_mgmt (s : State) (b : Nat) (f : Block → Block) : (updBlock s b f).mgmt = s.mgmt := rfl
@[simp] theorem updBlock_engines (s : State) (b : Nat) (f : Block → Block) : (updBlock s b f).engines = s.engines := rfl
@[simp] theorem updBlock_entNo (s : State) (b : Nat) (f : Block → Block) : (updBlock s b f).entNo = s.entNo := rfl
@[simp] theorem updBlock_dealtTo (s : State) (b : Nat) (f : Block → Block) : (updBlock s b f).dealtTo = s.dealtTo := rfl
@[simp] theorem updBlock_transit (s : State) (b : Nat) (f : Block → Block) : (updBlock s b f).transit = s.transit := rfl
@[simp] theorem updBlock_moves (s : State) (b : Nat) (f : Block → Block) : (updBlock s b f).moves = s.moves := rfl
@[simp] theorem updBlock_saves (s : State) (b : Nat) (f : Block → Block) : (updBlock s b f).saves = s.saves := rfl
@[simp] theorem updBlock_goats (s : State) (b : Nat) (f : Block → Block) : (updBlock s b f).goats = s.goats := rfl
@[simp] theorem updBlock_arrivals (s : State) (b : Nat) (f : Block → Block) : (updBlock s b f).arrivals = s.arrivals := rfl
@[simp] theorem updBlock_barWaits (s : State) (b : Nat) (f : Block → Block) : (updBlock s b f).barWaits = s.barWaits := rfl
@[simp] theorem updBlock_migs (s : State) (b : Nat) (f : Block → Block) : (updBlock s b f).migs = s.migs := rfl
@[simp] theorem updBlock_redirs (s : State) (b : Nat) (f : Block → Block) : (updBlock s b f).redirs = s.redirs := rfl
@[simp] theorem updBlock_evac (s : State) (b : Nat) (f : Block → Block) : (updBlock s b f).evac = s.evac := rfl
@[simp] theorem updBlock_cmds (s : State) (b : Nat) (f : Block → Block) : (updBlock s b f).cmds = s.cmds := rfl
@[simp] theorem updBlock_pendDec (s : State) (b : Nat) (f : Block → Block) : (updBlock s b f).pendDec = s.pendDec := rfl
@[simp] theorem updBlock_relWait (s : State) (b : Nat) (f : Block → Block) : (updBlock s b f).relWait = s.relWait := rfl
@[simp] theorem updBlock_lastQueue (s : State) (b : Nat) (f : Block → Block) : (updBlock s b f).lastQueue = s.lastQueue := rfl
@[simp] theorem updBlock_copy (s : State) (b : Nat) (f : Block → Block) : (updBlock s b f).copy = s.copy := rfl
@[simp] theorem updBlock_copyQueue (s : State) (b : Nat) (f : Block → Block) : (updBlock s b f).copyQueue = s.copyQueue := rfl
@[simp] theorem updBlock_ttIns (s : State) (b : Nat) (f : Block → Block) : (updBlock s b f).ttIns = s.ttIns := rfl
@[simp] theorem updBlock_ttPrev (s : State) (b : Nat) (f : Block → Block) : (updBlock s b f).ttPrev = s.ttPrev := rfl
@[simp] theorem updBlock_ttPre (s : State) (b : Nat) (f : Block → Block) : (updBlock s b f).ttPre = s.ttPre := rfl
@[simp] theorem updBlock_ttSlot (s : State) (b : Nat) (f : Block → Block) : (updBlock s b f).ttSlot = s.ttSlot := rfl
@[simp] theorem updBlock_keyLoads (s : State) (b : Nat) (f : Block → Block) : (updBlock s b f).keyLoads = s.keyLoads := rfl
@[simp] theorem updBlock_spdm (s : State) (b : Nat) (f : Block → Block) : (updBlock s b f).spdm = s.spdm := rfl
@[simp] theorem updBlock_out (s : State) (b : Nat) (f : Block → Block) : (updBlock s b f).out = s.out := rfl
@[simp] theorem updBlock_bi (s : State) (b : Nat) (f : Block → Block) : (updBlock s b f).bi = s.bi := rfl
@[simp] theorem updBlock_sensors (s : State) (b : Nat) (f : Block → Block) : (updBlock s b f).sensors = s.sensors := rfl
@[simp] theorem updBlock_hbmStacks (s : State) (b : Nat) (f : Block → Block) : (updBlock s b f).hbmStacks = s.hbmStacks := rfl
@[simp] theorem updBlock_image (s : State) (b : Nat) (f : Block → Block) : (updBlock s b f).image = s.image := rfl
@[simp] theorem updBlock_seen (s : State) (b : Nat) (f : Block → Block) : (updBlock s b f).seen = s.seen := rfl
@[simp] theorem updBlock_joining (s : State) (b : Nat) (f : Block → Block) : (updBlock s b f).joining = s.joining := rfl
@[simp] theorem updBlock_peers (s : State) (b : Nat) (f : Block → Block) : (updBlock s b f).peers = s.peers := rfl
@[simp] theorem updBlock_sweeps (s : State) (b : Nat) (f : Block → Block) : (updBlock s b f).sweeps = s.sweeps := rfl
@[simp] theorem updBlock_ide (s : State) (b : Nat) (f : Block → Block) : (updBlock s b f).ide = s.ide := rfl
@[simp] theorem updBlock_hdm (s : State) (b : Nat) (f : Block → Block) : (updBlock s b f).hdm = s.hdm := rfl
@[simp] theorem updBlock_thermal (s : State) (b : Nat) (f : Block → Block) : (updBlock s b f).thermal = s.thermal := rfl
@[simp] theorem updBlock_tree (s : State) (b : Nat) (f : Block → Block) : (updBlock s b f).tree = s.tree := rfl
@[simp] theorem updBlock_treeMsgs (s : State) (b : Nat) (f : Block → Block) : (updBlock s b f).treeMsgs = s.treeMsgs := rfl
@[simp] theorem updBlock_bbox (s : State) (b : Nat) (f : Block → Block) : (updBlock s b f).bbox = s.bbox := rfl
@[simp] theorem updBlock_msix (s : State) (b : Nat) (f : Block → Block) : (updBlock s b f).msix = s.msix := rfl
@[simp] theorem updBlock_dtc (s : State) (b : Nat) (f : Block → Block) : (updBlock s b f).dtc = s.dtc := rfl
@[simp] theorem updBlock_halted (s : State) (b : Nat) (f : Block → Block) : (updBlock s b f).halted = s.halted := rfl
@[simp] theorem updBlock_strikes (s : State) (b : Nat) (f : Block → Block) : (updBlock s b f).strikes = s.strikes := rfl
@[simp] theorem updBlock_freeCount (s : State) (b : Nat) (f : Block → Block) : (updBlock s b f).freeCount = s.freeCount := rfl
@[simp] theorem updBlock_agenda (s : State) (b : Nat) (f : Block → Block) : (updBlock s b f).agenda = s.agenda := rfl
@[simp] theorem updBlock_cur (s : State) (b : Nat) (f : Block → Block) : (updBlock s b f).cur = s.cur := rfl
@[simp] theorem updBlock_turn (s : State) (b : Nat) (f : Block → Block) : (updBlock s b f).turn = s.turn := rfl
@[simp] theorem updBlock_flip (s : State) (b : Nat) (f : Block → Block) : (updBlock s b f).flip = s.flip := rfl

/-! ### updLaunch -/

@[simp] theorem updLaunch_mem (s : State) (l : Nat) (f : Launch → Launch) : (updLaunch s l f).mem = s.mem := rfl
@[simp] theorem updLaunch_poison (s : State) (l : Nat) (f : Launch → Launch) : (updLaunch s l f).poison = s.poison := rfl
@[simp] theorem updLaunch_keyTags (s : State) (l : Nat) (f : Launch → Launch) : (updLaunch s l f).keyTags = s.keyTags := rfl
@[simp] theorem updLaunch_l1 (s : State) (l : Nat) (f : Launch → Launch) : (updLaunch s l f).l1 = s.l1 := rfl
@[simp] theorem updLaunch_home (s : State) (l : Nat) (f : Launch → Launch) : (updLaunch s l f).home = s.home := rfl
@[simp] theorem updLaunch_dead (s : State) (l : Nat) (f : Launch → Launch) : (updLaunch s l f).dead = s.dead := rfl
@[simp] theorem updLaunch_keys (s : State) (l : Nat) (f : Launch → Launch) : (updLaunch s l f).keys = s.keys := rfl
@[simp] theorem updLaunch_leaves (s : State) (l : Nat) (f : Launch → Launch) : (updLaunch s l f).leaves = s.leaves := rfl
@[simp] theorem updLaunch_walks (s : State) (l : Nat) (f : Launch → Launch) : (updLaunch s l f).walks = s.walks := rfl
@[simp] theorem updLaunch_parks (s : State) (l : Nat) (f : Launch → Launch) : (updLaunch s l f).parks = s.parks := rfl
@[simp] theorem updLaunch_parkWait (s : State) (l : Nat) (f : Launch → Launch) : (updLaunch s l f).parkWait = s.parkWait := rfl
@[simp] theorem updLaunch_frecs (s : State) (l : Nat) (f : Launch → Launch) : (updLaunch s l f).frecs = s.frecs := rfl
@[simp] theorem updLaunch_noparks (s : State) (l : Nat) (f : Launch → Launch) : (updLaunch s l f).noparks = s.noparks := rfl
@[simp] theorem updLaunch_hists (s : State) (l : Nat) (f : Launch → Launch) : (updLaunch s l f).hists = s.hists := rfl
@[simp] theorem updLaunch_reqs (s : State) (l : Nat) (f : Launch → Launch) : (updLaunch s l f).reqs = s.reqs := rfl
@[simp] theorem updLaunch_held (s : State) (l : Nat) (f : Launch → Launch) : (updLaunch s l f).held = s.held := rfl
@[simp] theorem updLaunch_peerOut (s : State) (l : Nat) (f : Launch → Launch) : (updLaunch s l f).peerOut = s.peerOut := rfl
@[simp] theorem updLaunch_flits (s : State) (l : Nat) (f : Launch → Launch) : (updLaunch s l f).flits = s.flits := rfl
@[simp] theorem updLaunch_links (s : State) (l : Nat) (f : Launch → Launch) : (updLaunch s l f).links = s.links := rfl
@[simp] theorem updLaunch_tags (s : State) (l : Nat) (f : Launch → Launch) : (updLaunch s l f).tags = s.tags := rfl
@[simp] theorem updLaunch_hostErrors (s : State) (l : Nat) (f : Launch → Launch) : (updLaunch s l f).hostErrors = s.hostErrors := rfl
@[simp] theorem updLaunch_bankCmds (s : State) (l : Nat) (f : Launch → Launch) : (updLaunch s l f).bankCmds = s.bankCmds := rfl
@[simp] theorem updLaunch_rets (s : State) (l : Nat) (f : Launch → Launch) : (updLaunch s l f).rets = s.rets := rfl
@[simp] theorem updLaunch_reqNo (s : State) (l : Nat) (f : Launch → Launch) : (updLaunch s l f).reqNo = s.reqNo := rfl
@[simp] theorem updLaunch_groups (s : State) (l : Nat) (f : Launch → Launch) : (updLaunch s l f).groups = s.groups := rfl
@[simp] theorem updLaunch_cores (s : State) (l : Nat) (f : Launch → Launch) : (updLaunch s l f).cores = s.cores := rfl
@[simp] theorem updLaunch_bte (s : State) (l : Nat) (f : Launch → Launch) : (updLaunch s l f).bte = s.bte := rfl
@[simp] theorem updLaunch_blocks (s : State) (l : Nat) (f : Launch → Launch) : (updLaunch s l f).blocks = s.blocks := rfl
@[simp] theorem updLaunch_blockNo (s : State) (l : Nat) (f : Launch → Launch) : (updLaunch s l f).blockNo = s.blockNo := rfl
@[simp] theorem updLaunch_futures (s : State) (l : Nat) (f : Launch → Launch) : (updLaunch s l f).futures = s.futures := rfl
@[simp] theorem updLaunch_mgmt (s : State) (l : Nat) (f : Launch → Launch) : (updLaunch s l f).mgmt = s.mgmt := rfl
@[simp] theorem updLaunch_engines (s : State) (l : Nat) (f : Launch → Launch) : (updLaunch s l f).engines = s.engines := rfl
@[simp] theorem updLaunch_entNo (s : State) (l : Nat) (f : Launch → Launch) : (updLaunch s l f).entNo = s.entNo := rfl
@[simp] theorem updLaunch_dealtTo (s : State) (l : Nat) (f : Launch → Launch) : (updLaunch s l f).dealtTo = s.dealtTo := rfl
@[simp] theorem updLaunch_transit (s : State) (l : Nat) (f : Launch → Launch) : (updLaunch s l f).transit = s.transit := rfl
@[simp] theorem updLaunch_moves (s : State) (l : Nat) (f : Launch → Launch) : (updLaunch s l f).moves = s.moves := rfl
@[simp] theorem updLaunch_saves (s : State) (l : Nat) (f : Launch → Launch) : (updLaunch s l f).saves = s.saves := rfl
@[simp] theorem updLaunch_goats (s : State) (l : Nat) (f : Launch → Launch) : (updLaunch s l f).goats = s.goats := rfl
@[simp] theorem updLaunch_arrivals (s : State) (l : Nat) (f : Launch → Launch) : (updLaunch s l f).arrivals = s.arrivals := rfl
@[simp] theorem updLaunch_barWaits (s : State) (l : Nat) (f : Launch → Launch) : (updLaunch s l f).barWaits = s.barWaits := rfl
@[simp] theorem updLaunch_migs (s : State) (l : Nat) (f : Launch → Launch) : (updLaunch s l f).migs = s.migs := rfl
@[simp] theorem updLaunch_redirs (s : State) (l : Nat) (f : Launch → Launch) : (updLaunch s l f).redirs = s.redirs := rfl
@[simp] theorem updLaunch_evac (s : State) (l : Nat) (f : Launch → Launch) : (updLaunch s l f).evac = s.evac := rfl
@[simp] theorem updLaunch_cmds (s : State) (l : Nat) (f : Launch → Launch) : (updLaunch s l f).cmds = s.cmds := rfl
@[simp] theorem updLaunch_pendDec (s : State) (l : Nat) (f : Launch → Launch) : (updLaunch s l f).pendDec = s.pendDec := rfl
@[simp] theorem updLaunch_relWait (s : State) (l : Nat) (f : Launch → Launch) : (updLaunch s l f).relWait = s.relWait := rfl
@[simp] theorem updLaunch_lastQueue (s : State) (l : Nat) (f : Launch → Launch) : (updLaunch s l f).lastQueue = s.lastQueue := rfl
@[simp] theorem updLaunch_copy (s : State) (l : Nat) (f : Launch → Launch) : (updLaunch s l f).copy = s.copy := rfl
@[simp] theorem updLaunch_copyQueue (s : State) (l : Nat) (f : Launch → Launch) : (updLaunch s l f).copyQueue = s.copyQueue := rfl
@[simp] theorem updLaunch_ttIns (s : State) (l : Nat) (f : Launch → Launch) : (updLaunch s l f).ttIns = s.ttIns := rfl
@[simp] theorem updLaunch_ttPrev (s : State) (l : Nat) (f : Launch → Launch) : (updLaunch s l f).ttPrev = s.ttPrev := rfl
@[simp] theorem updLaunch_ttPre (s : State) (l : Nat) (f : Launch → Launch) : (updLaunch s l f).ttPre = s.ttPre := rfl
@[simp] theorem updLaunch_ttSlot (s : State) (l : Nat) (f : Launch → Launch) : (updLaunch s l f).ttSlot = s.ttSlot := rfl
@[simp] theorem updLaunch_keyLoads (s : State) (l : Nat) (f : Launch → Launch) : (updLaunch s l f).keyLoads = s.keyLoads := rfl
@[simp] theorem updLaunch_spdm (s : State) (l : Nat) (f : Launch → Launch) : (updLaunch s l f).spdm = s.spdm := rfl
@[simp] theorem updLaunch_out (s : State) (l : Nat) (f : Launch → Launch) : (updLaunch s l f).out = s.out := rfl
@[simp] theorem updLaunch_bi (s : State) (l : Nat) (f : Launch → Launch) : (updLaunch s l f).bi = s.bi := rfl
@[simp] theorem updLaunch_sensors (s : State) (l : Nat) (f : Launch → Launch) : (updLaunch s l f).sensors = s.sensors := rfl
@[simp] theorem updLaunch_hbmStacks (s : State) (l : Nat) (f : Launch → Launch) : (updLaunch s l f).hbmStacks = s.hbmStacks := rfl
@[simp] theorem updLaunch_image (s : State) (l : Nat) (f : Launch → Launch) : (updLaunch s l f).image = s.image := rfl
@[simp] theorem updLaunch_seen (s : State) (l : Nat) (f : Launch → Launch) : (updLaunch s l f).seen = s.seen := rfl
@[simp] theorem updLaunch_joining (s : State) (l : Nat) (f : Launch → Launch) : (updLaunch s l f).joining = s.joining := rfl
@[simp] theorem updLaunch_peers (s : State) (l : Nat) (f : Launch → Launch) : (updLaunch s l f).peers = s.peers := rfl
@[simp] theorem updLaunch_sweeps (s : State) (l : Nat) (f : Launch → Launch) : (updLaunch s l f).sweeps = s.sweeps := rfl
@[simp] theorem updLaunch_ide (s : State) (l : Nat) (f : Launch → Launch) : (updLaunch s l f).ide = s.ide := rfl
@[simp] theorem updLaunch_hdm (s : State) (l : Nat) (f : Launch → Launch) : (updLaunch s l f).hdm = s.hdm := rfl
@[simp] theorem updLaunch_thermal (s : State) (l : Nat) (f : Launch → Launch) : (updLaunch s l f).thermal = s.thermal := rfl
@[simp] theorem updLaunch_tree (s : State) (l : Nat) (f : Launch → Launch) : (updLaunch s l f).tree = s.tree := rfl
@[simp] theorem updLaunch_treeMsgs (s : State) (l : Nat) (f : Launch → Launch) : (updLaunch s l f).treeMsgs = s.treeMsgs := rfl
@[simp] theorem updLaunch_bbox (s : State) (l : Nat) (f : Launch → Launch) : (updLaunch s l f).bbox = s.bbox := rfl
@[simp] theorem updLaunch_msix (s : State) (l : Nat) (f : Launch → Launch) : (updLaunch s l f).msix = s.msix := rfl
@[simp] theorem updLaunch_dtc (s : State) (l : Nat) (f : Launch → Launch) : (updLaunch s l f).dtc = s.dtc := rfl
@[simp] theorem updLaunch_halted (s : State) (l : Nat) (f : Launch → Launch) : (updLaunch s l f).halted = s.halted := rfl
@[simp] theorem updLaunch_strikes (s : State) (l : Nat) (f : Launch → Launch) : (updLaunch s l f).strikes = s.strikes := rfl
@[simp] theorem updLaunch_freeCount (s : State) (l : Nat) (f : Launch → Launch) : (updLaunch s l f).freeCount = s.freeCount := rfl
@[simp] theorem updLaunch_agenda (s : State) (l : Nat) (f : Launch → Launch) : (updLaunch s l f).agenda = s.agenda := rfl
@[simp] theorem updLaunch_cur (s : State) (l : Nat) (f : Launch → Launch) : (updLaunch s l f).cur = s.cur := rfl
@[simp] theorem updLaunch_turn (s : State) (l : Nat) (f : Launch → Launch) : (updLaunch s l f).turn = s.turn := rfl
@[simp] theorem updLaunch_flip (s : State) (l : Nat) (f : Launch → Launch) : (updLaunch s l f).flip = s.flip := rfl

/-! ### setBtes -/

@[simp] theorem setBtes_mem (s : State) (c : Nat) (l : List BteReq) : (setBtes s c l).mem = s.mem := rfl
@[simp] theorem setBtes_poison (s : State) (c : Nat) (l : List BteReq) : (setBtes s c l).poison = s.poison := rfl
@[simp] theorem setBtes_keyTags (s : State) (c : Nat) (l : List BteReq) : (setBtes s c l).keyTags = s.keyTags := rfl
@[simp] theorem setBtes_l1 (s : State) (c : Nat) (l : List BteReq) : (setBtes s c l).l1 = s.l1 := rfl
@[simp] theorem setBtes_home (s : State) (c : Nat) (l : List BteReq) : (setBtes s c l).home = s.home := rfl
@[simp] theorem setBtes_dead (s : State) (c : Nat) (l : List BteReq) : (setBtes s c l).dead = s.dead := rfl
@[simp] theorem setBtes_keys (s : State) (c : Nat) (l : List BteReq) : (setBtes s c l).keys = s.keys := rfl
@[simp] theorem setBtes_leaves (s : State) (c : Nat) (l : List BteReq) : (setBtes s c l).leaves = s.leaves := rfl
@[simp] theorem setBtes_walks (s : State) (c : Nat) (l : List BteReq) : (setBtes s c l).walks = s.walks := rfl
@[simp] theorem setBtes_parks (s : State) (c : Nat) (l : List BteReq) : (setBtes s c l).parks = s.parks := rfl
@[simp] theorem setBtes_parkWait (s : State) (c : Nat) (l : List BteReq) : (setBtes s c l).parkWait = s.parkWait := rfl
@[simp] theorem setBtes_frecs (s : State) (c : Nat) (l : List BteReq) : (setBtes s c l).frecs = s.frecs := rfl
@[simp] theorem setBtes_noparks (s : State) (c : Nat) (l : List BteReq) : (setBtes s c l).noparks = s.noparks := rfl
@[simp] theorem setBtes_hists (s : State) (c : Nat) (l : List BteReq) : (setBtes s c l).hists = s.hists := rfl
@[simp] theorem setBtes_reqs (s : State) (c : Nat) (l : List BteReq) : (setBtes s c l).reqs = s.reqs := rfl
@[simp] theorem setBtes_held (s : State) (c : Nat) (l : List BteReq) : (setBtes s c l).held = s.held := rfl
@[simp] theorem setBtes_peerOut (s : State) (c : Nat) (l : List BteReq) : (setBtes s c l).peerOut = s.peerOut := rfl
@[simp] theorem setBtes_flits (s : State) (c : Nat) (l : List BteReq) : (setBtes s c l).flits = s.flits := rfl
@[simp] theorem setBtes_links (s : State) (c : Nat) (l : List BteReq) : (setBtes s c l).links = s.links := rfl
@[simp] theorem setBtes_tags (s : State) (c : Nat) (l : List BteReq) : (setBtes s c l).tags = s.tags := rfl
@[simp] theorem setBtes_hostErrors (s : State) (c : Nat) (l : List BteReq) : (setBtes s c l).hostErrors = s.hostErrors := rfl
@[simp] theorem setBtes_bankCmds (s : State) (c : Nat) (l : List BteReq) : (setBtes s c l).bankCmds = s.bankCmds := rfl
@[simp] theorem setBtes_rets (s : State) (c : Nat) (l : List BteReq) : (setBtes s c l).rets = s.rets := rfl
@[simp] theorem setBtes_reqNo (s : State) (c : Nat) (l : List BteReq) : (setBtes s c l).reqNo = s.reqNo := rfl
@[simp] theorem setBtes_groups (s : State) (c : Nat) (l : List BteReq) : (setBtes s c l).groups = s.groups := rfl
@[simp] theorem setBtes_cores (s : State) (c : Nat) (l : List BteReq) : (setBtes s c l).cores = s.cores := rfl
@[simp] theorem setBtes_blocks (s : State) (c : Nat) (l : List BteReq) : (setBtes s c l).blocks = s.blocks := rfl
@[simp] theorem setBtes_blockNo (s : State) (c : Nat) (l : List BteReq) : (setBtes s c l).blockNo = s.blockNo := rfl
@[simp] theorem setBtes_launches (s : State) (c : Nat) (l : List BteReq) : (setBtes s c l).launches = s.launches := rfl
@[simp] theorem setBtes_futures (s : State) (c : Nat) (l : List BteReq) : (setBtes s c l).futures = s.futures := rfl
@[simp] theorem setBtes_mgmt (s : State) (c : Nat) (l : List BteReq) : (setBtes s c l).mgmt = s.mgmt := rfl
@[simp] theorem setBtes_engines (s : State) (c : Nat) (l : List BteReq) : (setBtes s c l).engines = s.engines := rfl
@[simp] theorem setBtes_entNo (s : State) (c : Nat) (l : List BteReq) : (setBtes s c l).entNo = s.entNo := rfl
@[simp] theorem setBtes_dealtTo (s : State) (c : Nat) (l : List BteReq) : (setBtes s c l).dealtTo = s.dealtTo := rfl
@[simp] theorem setBtes_transit (s : State) (c : Nat) (l : List BteReq) : (setBtes s c l).transit = s.transit := rfl
@[simp] theorem setBtes_moves (s : State) (c : Nat) (l : List BteReq) : (setBtes s c l).moves = s.moves := rfl
@[simp] theorem setBtes_saves (s : State) (c : Nat) (l : List BteReq) : (setBtes s c l).saves = s.saves := rfl
@[simp] theorem setBtes_goats (s : State) (c : Nat) (l : List BteReq) : (setBtes s c l).goats = s.goats := rfl
@[simp] theorem setBtes_arrivals (s : State) (c : Nat) (l : List BteReq) : (setBtes s c l).arrivals = s.arrivals := rfl
@[simp] theorem setBtes_barWaits (s : State) (c : Nat) (l : List BteReq) : (setBtes s c l).barWaits = s.barWaits := rfl
@[simp] theorem setBtes_migs (s : State) (c : Nat) (l : List BteReq) : (setBtes s c l).migs = s.migs := rfl
@[simp] theorem setBtes_redirs (s : State) (c : Nat) (l : List BteReq) : (setBtes s c l).redirs = s.redirs := rfl
@[simp] theorem setBtes_evac (s : State) (c : Nat) (l : List BteReq) : (setBtes s c l).evac = s.evac := rfl
@[simp] theorem setBtes_cmds (s : State) (c : Nat) (l : List BteReq) : (setBtes s c l).cmds = s.cmds := rfl
@[simp] theorem setBtes_pendDec (s : State) (c : Nat) (l : List BteReq) : (setBtes s c l).pendDec = s.pendDec := rfl
@[simp] theorem setBtes_relWait (s : State) (c : Nat) (l : List BteReq) : (setBtes s c l).relWait = s.relWait := rfl
@[simp] theorem setBtes_lastQueue (s : State) (c : Nat) (l : List BteReq) : (setBtes s c l).lastQueue = s.lastQueue := rfl
@[simp] theorem setBtes_copy (s : State) (c : Nat) (l : List BteReq) : (setBtes s c l).copy = s.copy := rfl
@[simp] theorem setBtes_copyQueue (s : State) (c : Nat) (l : List BteReq) : (setBtes s c l).copyQueue = s.copyQueue := rfl
@[simp] theorem setBtes_ttIns (s : State) (c : Nat) (l : List BteReq) : (setBtes s c l).ttIns = s.ttIns := rfl
@[simp] theorem setBtes_ttPrev (s : State) (c : Nat) (l : List BteReq) : (setBtes s c l).ttPrev = s.ttPrev := rfl
@[simp] theorem setBtes_ttPre (s : State) (c : Nat) (l : List BteReq) : (setBtes s c l).ttPre = s.ttPre := rfl
@[simp] theorem setBtes_ttSlot (s : State) (c : Nat) (l : List BteReq) : (setBtes s c l).ttSlot = s.ttSlot := rfl
@[simp] theorem setBtes_keyLoads (s : State) (c : Nat) (l : List BteReq) : (setBtes s c l).keyLoads = s.keyLoads := rfl
@[simp] theorem setBtes_spdm (s : State) (c : Nat) (l : List BteReq) : (setBtes s c l).spdm = s.spdm := rfl
@[simp] theorem setBtes_out (s : State) (c : Nat) (l : List BteReq) : (setBtes s c l).out = s.out := rfl
@[simp] theorem setBtes_bi (s : State) (c : Nat) (l : List BteReq) : (setBtes s c l).bi = s.bi := rfl
@[simp] theorem setBtes_sensors (s : State) (c : Nat) (l : List BteReq) : (setBtes s c l).sensors = s.sensors := rfl
@[simp] theorem setBtes_hbmStacks (s : State) (c : Nat) (l : List BteReq) : (setBtes s c l).hbmStacks = s.hbmStacks := rfl
@[simp] theorem setBtes_image (s : State) (c : Nat) (l : List BteReq) : (setBtes s c l).image = s.image := rfl
@[simp] theorem setBtes_seen (s : State) (c : Nat) (l : List BteReq) : (setBtes s c l).seen = s.seen := rfl
@[simp] theorem setBtes_joining (s : State) (c : Nat) (l : List BteReq) : (setBtes s c l).joining = s.joining := rfl
@[simp] theorem setBtes_peers (s : State) (c : Nat) (l : List BteReq) : (setBtes s c l).peers = s.peers := rfl
@[simp] theorem setBtes_sweeps (s : State) (c : Nat) (l : List BteReq) : (setBtes s c l).sweeps = s.sweeps := rfl
@[simp] theorem setBtes_ide (s : State) (c : Nat) (l : List BteReq) : (setBtes s c l).ide = s.ide := rfl
@[simp] theorem setBtes_hdm (s : State) (c : Nat) (l : List BteReq) : (setBtes s c l).hdm = s.hdm := rfl
@[simp] theorem setBtes_thermal (s : State) (c : Nat) (l : List BteReq) : (setBtes s c l).thermal = s.thermal := rfl
@[simp] theorem setBtes_tree (s : State) (c : Nat) (l : List BteReq) : (setBtes s c l).tree = s.tree := rfl
@[simp] theorem setBtes_treeMsgs (s : State) (c : Nat) (l : List BteReq) : (setBtes s c l).treeMsgs = s.treeMsgs := rfl
@[simp] theorem setBtes_bbox (s : State) (c : Nat) (l : List BteReq) : (setBtes s c l).bbox = s.bbox := rfl
@[simp] theorem setBtes_msix (s : State) (c : Nat) (l : List BteReq) : (setBtes s c l).msix = s.msix := rfl
@[simp] theorem setBtes_dtc (s : State) (c : Nat) (l : List BteReq) : (setBtes s c l).dtc = s.dtc := rfl
@[simp] theorem setBtes_halted (s : State) (c : Nat) (l : List BteReq) : (setBtes s c l).halted = s.halted := rfl
@[simp] theorem setBtes_strikes (s : State) (c : Nat) (l : List BteReq) : (setBtes s c l).strikes = s.strikes := rfl
@[simp] theorem setBtes_freeCount (s : State) (c : Nat) (l : List BteReq) : (setBtes s c l).freeCount = s.freeCount := rfl
@[simp] theorem setBtes_agenda (s : State) (c : Nat) (l : List BteReq) : (setBtes s c l).agenda = s.agenda := rfl
@[simp] theorem setBtes_cur (s : State) (c : Nat) (l : List BteReq) : (setBtes s c l).cur = s.cur := rfl
@[simp] theorem setBtes_turn (s : State) (c : Nat) (l : List BteReq) : (setBtes s c l).turn = s.turn := rfl
@[simp] theorem setBtes_flip (s : State) (c : Nat) (l : List BteReq) : (setBtes s c l).flip = s.flip := rfl

/-! ### updEngine -/

@[simp] theorem updEngine_mem (s : State) (k : Nat) (f : Engine → Engine) : (updEngine s k f).mem = s.mem := rfl
@[simp] theorem updEngine_poison (s : State) (k : Nat) (f : Engine → Engine) : (updEngine s k f).poison = s.poison := rfl
@[simp] theorem updEngine_keyTags (s : State) (k : Nat) (f : Engine → Engine) : (updEngine s k f).keyTags = s.keyTags := rfl
@[simp] theorem updEngine_l1 (s : State) (k : Nat) (f : Engine → Engine) : (updEngine s k f).l1 = s.l1 := rfl
@[simp] theorem updEngine_home (s : State) (k : Nat) (f : Engine → Engine) : (updEngine s k f).home = s.home := rfl
@[simp] theorem updEngine_dead (s : State) (k : Nat) (f : Engine → Engine) : (updEngine s k f).dead = s.dead := rfl
@[simp] theorem updEngine_keys (s : State) (k : Nat) (f : Engine → Engine) : (updEngine s k f).keys = s.keys := rfl
@[simp] theorem updEngine_leaves (s : State) (k : Nat) (f : Engine → Engine) : (updEngine s k f).leaves = s.leaves := rfl
@[simp] theorem updEngine_walks (s : State) (k : Nat) (f : Engine → Engine) : (updEngine s k f).walks = s.walks := rfl
@[simp] theorem updEngine_parks (s : State) (k : Nat) (f : Engine → Engine) : (updEngine s k f).parks = s.parks := rfl
@[simp] theorem updEngine_parkWait (s : State) (k : Nat) (f : Engine → Engine) : (updEngine s k f).parkWait = s.parkWait := rfl
@[simp] theorem updEngine_frecs (s : State) (k : Nat) (f : Engine → Engine) : (updEngine s k f).frecs = s.frecs := rfl
@[simp] theorem updEngine_noparks (s : State) (k : Nat) (f : Engine → Engine) : (updEngine s k f).noparks = s.noparks := rfl
@[simp] theorem updEngine_hists (s : State) (k : Nat) (f : Engine → Engine) : (updEngine s k f).hists = s.hists := rfl
@[simp] theorem updEngine_reqs (s : State) (k : Nat) (f : Engine → Engine) : (updEngine s k f).reqs = s.reqs := rfl
@[simp] theorem updEngine_held (s : State) (k : Nat) (f : Engine → Engine) : (updEngine s k f).held = s.held := rfl
@[simp] theorem updEngine_peerOut (s : State) (k : Nat) (f : Engine → Engine) : (updEngine s k f).peerOut = s.peerOut := rfl
@[simp] theorem updEngine_flits (s : State) (k : Nat) (f : Engine → Engine) : (updEngine s k f).flits = s.flits := rfl
@[simp] theorem updEngine_links (s : State) (k : Nat) (f : Engine → Engine) : (updEngine s k f).links = s.links := rfl
@[simp] theorem updEngine_tags (s : State) (k : Nat) (f : Engine → Engine) : (updEngine s k f).tags = s.tags := rfl
@[simp] theorem updEngine_hostErrors (s : State) (k : Nat) (f : Engine → Engine) : (updEngine s k f).hostErrors = s.hostErrors := rfl
@[simp] theorem updEngine_bankCmds (s : State) (k : Nat) (f : Engine → Engine) : (updEngine s k f).bankCmds = s.bankCmds := rfl
@[simp] theorem updEngine_rets (s : State) (k : Nat) (f : Engine → Engine) : (updEngine s k f).rets = s.rets := rfl
@[simp] theorem updEngine_reqNo (s : State) (k : Nat) (f : Engine → Engine) : (updEngine s k f).reqNo = s.reqNo := rfl
@[simp] theorem updEngine_groups (s : State) (k : Nat) (f : Engine → Engine) : (updEngine s k f).groups = s.groups := rfl
@[simp] theorem updEngine_cores (s : State) (k : Nat) (f : Engine → Engine) : (updEngine s k f).cores = s.cores := rfl
@[simp] theorem updEngine_bte (s : State) (k : Nat) (f : Engine → Engine) : (updEngine s k f).bte = s.bte := rfl
@[simp] theorem updEngine_blocks (s : State) (k : Nat) (f : Engine → Engine) : (updEngine s k f).blocks = s.blocks := rfl
@[simp] theorem updEngine_blockNo (s : State) (k : Nat) (f : Engine → Engine) : (updEngine s k f).blockNo = s.blockNo := rfl
@[simp] theorem updEngine_launches (s : State) (k : Nat) (f : Engine → Engine) : (updEngine s k f).launches = s.launches := rfl
@[simp] theorem updEngine_futures (s : State) (k : Nat) (f : Engine → Engine) : (updEngine s k f).futures = s.futures := rfl
@[simp] theorem updEngine_mgmt (s : State) (k : Nat) (f : Engine → Engine) : (updEngine s k f).mgmt = s.mgmt := rfl
@[simp] theorem updEngine_entNo (s : State) (k : Nat) (f : Engine → Engine) : (updEngine s k f).entNo = s.entNo := rfl
@[simp] theorem updEngine_dealtTo (s : State) (k : Nat) (f : Engine → Engine) : (updEngine s k f).dealtTo = s.dealtTo := rfl
@[simp] theorem updEngine_transit (s : State) (k : Nat) (f : Engine → Engine) : (updEngine s k f).transit = s.transit := rfl
@[simp] theorem updEngine_moves (s : State) (k : Nat) (f : Engine → Engine) : (updEngine s k f).moves = s.moves := rfl
@[simp] theorem updEngine_saves (s : State) (k : Nat) (f : Engine → Engine) : (updEngine s k f).saves = s.saves := rfl
@[simp] theorem updEngine_goats (s : State) (k : Nat) (f : Engine → Engine) : (updEngine s k f).goats = s.goats := rfl
@[simp] theorem updEngine_arrivals (s : State) (k : Nat) (f : Engine → Engine) : (updEngine s k f).arrivals = s.arrivals := rfl
@[simp] theorem updEngine_barWaits (s : State) (k : Nat) (f : Engine → Engine) : (updEngine s k f).barWaits = s.barWaits := rfl
@[simp] theorem updEngine_migs (s : State) (k : Nat) (f : Engine → Engine) : (updEngine s k f).migs = s.migs := rfl
@[simp] theorem updEngine_redirs (s : State) (k : Nat) (f : Engine → Engine) : (updEngine s k f).redirs = s.redirs := rfl
@[simp] theorem updEngine_evac (s : State) (k : Nat) (f : Engine → Engine) : (updEngine s k f).evac = s.evac := rfl
@[simp] theorem updEngine_cmds (s : State) (k : Nat) (f : Engine → Engine) : (updEngine s k f).cmds = s.cmds := rfl
@[simp] theorem updEngine_pendDec (s : State) (k : Nat) (f : Engine → Engine) : (updEngine s k f).pendDec = s.pendDec := rfl
@[simp] theorem updEngine_relWait (s : State) (k : Nat) (f : Engine → Engine) : (updEngine s k f).relWait = s.relWait := rfl
@[simp] theorem updEngine_lastQueue (s : State) (k : Nat) (f : Engine → Engine) : (updEngine s k f).lastQueue = s.lastQueue := rfl
@[simp] theorem updEngine_copy (s : State) (k : Nat) (f : Engine → Engine) : (updEngine s k f).copy = s.copy := rfl
@[simp] theorem updEngine_copyQueue (s : State) (k : Nat) (f : Engine → Engine) : (updEngine s k f).copyQueue = s.copyQueue := rfl
@[simp] theorem updEngine_ttIns (s : State) (k : Nat) (f : Engine → Engine) : (updEngine s k f).ttIns = s.ttIns := rfl
@[simp] theorem updEngine_ttPrev (s : State) (k : Nat) (f : Engine → Engine) : (updEngine s k f).ttPrev = s.ttPrev := rfl
@[simp] theorem updEngine_ttPre (s : State) (k : Nat) (f : Engine → Engine) : (updEngine s k f).ttPre = s.ttPre := rfl
@[simp] theorem updEngine_ttSlot (s : State) (k : Nat) (f : Engine → Engine) : (updEngine s k f).ttSlot = s.ttSlot := rfl
@[simp] theorem updEngine_keyLoads (s : State) (k : Nat) (f : Engine → Engine) : (updEngine s k f).keyLoads = s.keyLoads := rfl
@[simp] theorem updEngine_spdm (s : State) (k : Nat) (f : Engine → Engine) : (updEngine s k f).spdm = s.spdm := rfl
@[simp] theorem updEngine_out (s : State) (k : Nat) (f : Engine → Engine) : (updEngine s k f).out = s.out := rfl
@[simp] theorem updEngine_bi (s : State) (k : Nat) (f : Engine → Engine) : (updEngine s k f).bi = s.bi := rfl
@[simp] theorem updEngine_sensors (s : State) (k : Nat) (f : Engine → Engine) : (updEngine s k f).sensors = s.sensors := rfl
@[simp] theorem updEngine_hbmStacks (s : State) (k : Nat) (f : Engine → Engine) : (updEngine s k f).hbmStacks = s.hbmStacks := rfl
@[simp] theorem updEngine_image (s : State) (k : Nat) (f : Engine → Engine) : (updEngine s k f).image = s.image := rfl
@[simp] theorem updEngine_seen (s : State) (k : Nat) (f : Engine → Engine) : (updEngine s k f).seen = s.seen := rfl
@[simp] theorem updEngine_joining (s : State) (k : Nat) (f : Engine → Engine) : (updEngine s k f).joining = s.joining := rfl
@[simp] theorem updEngine_peers (s : State) (k : Nat) (f : Engine → Engine) : (updEngine s k f).peers = s.peers := rfl
@[simp] theorem updEngine_sweeps (s : State) (k : Nat) (f : Engine → Engine) : (updEngine s k f).sweeps = s.sweeps := rfl
@[simp] theorem updEngine_ide (s : State) (k : Nat) (f : Engine → Engine) : (updEngine s k f).ide = s.ide := rfl
@[simp] theorem updEngine_hdm (s : State) (k : Nat) (f : Engine → Engine) : (updEngine s k f).hdm = s.hdm := rfl
@[simp] theorem updEngine_thermal (s : State) (k : Nat) (f : Engine → Engine) : (updEngine s k f).thermal = s.thermal := rfl
@[simp] theorem updEngine_tree (s : State) (k : Nat) (f : Engine → Engine) : (updEngine s k f).tree = s.tree := rfl
@[simp] theorem updEngine_treeMsgs (s : State) (k : Nat) (f : Engine → Engine) : (updEngine s k f).treeMsgs = s.treeMsgs := rfl
@[simp] theorem updEngine_bbox (s : State) (k : Nat) (f : Engine → Engine) : (updEngine s k f).bbox = s.bbox := rfl
@[simp] theorem updEngine_msix (s : State) (k : Nat) (f : Engine → Engine) : (updEngine s k f).msix = s.msix := rfl
@[simp] theorem updEngine_dtc (s : State) (k : Nat) (f : Engine → Engine) : (updEngine s k f).dtc = s.dtc := rfl
@[simp] theorem updEngine_halted (s : State) (k : Nat) (f : Engine → Engine) : (updEngine s k f).halted = s.halted := rfl
@[simp] theorem updEngine_strikes (s : State) (k : Nat) (f : Engine → Engine) : (updEngine s k f).strikes = s.strikes := rfl
@[simp] theorem updEngine_freeCount (s : State) (k : Nat) (f : Engine → Engine) : (updEngine s k f).freeCount = s.freeCount := rfl
@[simp] theorem updEngine_agenda (s : State) (k : Nat) (f : Engine → Engine) : (updEngine s k f).agenda = s.agenda := rfl
@[simp] theorem updEngine_cur (s : State) (k : Nat) (f : Engine → Engine) : (updEngine s k f).cur = s.cur := rfl
@[simp] theorem updEngine_turn (s : State) (k : Nat) (f : Engine → Engine) : (updEngine s k f).turn = s.turn := rfl
@[simp] theorem updEngine_flip (s : State) (k : Nat) (f : Engine → Engine) : (updEngine s k f).flip = s.flip := rfl

/-! ### setFut -/

@[simp] theorem setFut_mem (s : State) (k : Nat) (f : Future) : (setFut s k f).mem = s.mem := rfl
@[simp] theorem setFut_poison (s : State) (k : Nat) (f : Future) : (setFut s k f).poison = s.poison := rfl
@[simp] theorem setFut_keyTags (s : State) (k : Nat) (f : Future) : (setFut s k f).keyTags = s.keyTags := rfl
@[simp] theorem setFut_l1 (s : State) (k : Nat) (f : Future) : (setFut s k f).l1 = s.l1 := rfl
@[simp] theorem setFut_home (s : State) (k : Nat) (f : Future) : (setFut s k f).home = s.home := rfl
@[simp] theorem setFut_dead (s : State) (k : Nat) (f : Future) : (setFut s k f).dead = s.dead := rfl
@[simp] theorem setFut_keys (s : State) (k : Nat) (f : Future) : (setFut s k f).keys = s.keys := rfl
@[simp] theorem setFut_leaves (s : State) (k : Nat) (f : Future) : (setFut s k f).leaves = s.leaves := rfl
@[simp] theorem setFut_walks (s : State) (k : Nat) (f : Future) : (setFut s k f).walks = s.walks := rfl
@[simp] theorem setFut_parks (s : State) (k : Nat) (f : Future) : (setFut s k f).parks = s.parks := rfl
@[simp] theorem setFut_parkWait (s : State) (k : Nat) (f : Future) : (setFut s k f).parkWait = s.parkWait := rfl
@[simp] theorem setFut_frecs (s : State) (k : Nat) (f : Future) : (setFut s k f).frecs = s.frecs := rfl
@[simp] theorem setFut_noparks (s : State) (k : Nat) (f : Future) : (setFut s k f).noparks = s.noparks := rfl
@[simp] theorem setFut_hists (s : State) (k : Nat) (f : Future) : (setFut s k f).hists = s.hists := rfl
@[simp] theorem setFut_reqs (s : State) (k : Nat) (f : Future) : (setFut s k f).reqs = s.reqs := rfl
@[simp] theorem setFut_held (s : State) (k : Nat) (f : Future) : (setFut s k f).held = s.held := rfl
@[simp] theorem setFut_peerOut (s : State) (k : Nat) (f : Future) : (setFut s k f).peerOut = s.peerOut := rfl
@[simp] theorem setFut_flits (s : State) (k : Nat) (f : Future) : (setFut s k f).flits = s.flits := rfl
@[simp] theorem setFut_links (s : State) (k : Nat) (f : Future) : (setFut s k f).links = s.links := rfl
@[simp] theorem setFut_tags (s : State) (k : Nat) (f : Future) : (setFut s k f).tags = s.tags := rfl
@[simp] theorem setFut_hostErrors (s : State) (k : Nat) (f : Future) : (setFut s k f).hostErrors = s.hostErrors := rfl
@[simp] theorem setFut_bankCmds (s : State) (k : Nat) (f : Future) : (setFut s k f).bankCmds = s.bankCmds := rfl
@[simp] theorem setFut_rets (s : State) (k : Nat) (f : Future) : (setFut s k f).rets = s.rets := rfl
@[simp] theorem setFut_reqNo (s : State) (k : Nat) (f : Future) : (setFut s k f).reqNo = s.reqNo := rfl
@[simp] theorem setFut_groups (s : State) (k : Nat) (f : Future) : (setFut s k f).groups = s.groups := rfl
@[simp] theorem setFut_cores (s : State) (k : Nat) (f : Future) : (setFut s k f).cores = s.cores := rfl
@[simp] theorem setFut_bte (s : State) (k : Nat) (f : Future) : (setFut s k f).bte = s.bte := rfl
@[simp] theorem setFut_blocks (s : State) (k : Nat) (f : Future) : (setFut s k f).blocks = s.blocks := rfl
@[simp] theorem setFut_blockNo (s : State) (k : Nat) (f : Future) : (setFut s k f).blockNo = s.blockNo := rfl
@[simp] theorem setFut_launches (s : State) (k : Nat) (f : Future) : (setFut s k f).launches = s.launches := rfl
@[simp] theorem setFut_mgmt (s : State) (k : Nat) (f : Future) : (setFut s k f).mgmt = s.mgmt := rfl
@[simp] theorem setFut_engines (s : State) (k : Nat) (f : Future) : (setFut s k f).engines = s.engines := rfl
@[simp] theorem setFut_entNo (s : State) (k : Nat) (f : Future) : (setFut s k f).entNo = s.entNo := rfl
@[simp] theorem setFut_dealtTo (s : State) (k : Nat) (f : Future) : (setFut s k f).dealtTo = s.dealtTo := rfl
@[simp] theorem setFut_transit (s : State) (k : Nat) (f : Future) : (setFut s k f).transit = s.transit := rfl
@[simp] theorem setFut_moves (s : State) (k : Nat) (f : Future) : (setFut s k f).moves = s.moves := rfl
@[simp] theorem setFut_saves (s : State) (k : Nat) (f : Future) : (setFut s k f).saves = s.saves := rfl
@[simp] theorem setFut_goats (s : State) (k : Nat) (f : Future) : (setFut s k f).goats = s.goats := rfl
@[simp] theorem setFut_arrivals (s : State) (k : Nat) (f : Future) : (setFut s k f).arrivals = s.arrivals := rfl
@[simp] theorem setFut_barWaits (s : State) (k : Nat) (f : Future) : (setFut s k f).barWaits = s.barWaits := rfl
@[simp] theorem setFut_migs (s : State) (k : Nat) (f : Future) : (setFut s k f).migs = s.migs := rfl
@[simp] theorem setFut_redirs (s : State) (k : Nat) (f : Future) : (setFut s k f).redirs = s.redirs := rfl
@[simp] theorem setFut_evac (s : State) (k : Nat) (f : Future) : (setFut s k f).evac = s.evac := rfl
@[simp] theorem setFut_cmds (s : State) (k : Nat) (f : Future) : (setFut s k f).cmds = s.cmds := rfl
@[simp] theorem setFut_pendDec (s : State) (k : Nat) (f : Future) : (setFut s k f).pendDec = s.pendDec := rfl
@[simp] theorem setFut_relWait (s : State) (k : Nat) (f : Future) : (setFut s k f).relWait = s.relWait := rfl
@[simp] theorem setFut_lastQueue (s : State) (k : Nat) (f : Future) : (setFut s k f).lastQueue = s.lastQueue := rfl
@[simp] theorem setFut_copy (s : State) (k : Nat) (f : Future) : (setFut s k f).copy = s.copy := rfl
@[simp] theorem setFut_copyQueue (s : State) (k : Nat) (f : Future) : (setFut s k f).copyQueue = s.copyQueue := rfl
@[simp] theorem setFut_ttIns (s : State) (k : Nat) (f : Future) : (setFut s k f).ttIns = s.ttIns := rfl
@[simp] theorem setFut_ttPrev (s : State) (k : Nat) (f : Future) : (setFut s k f).ttPrev = s.ttPrev := rfl
@[simp] theorem setFut_ttPre (s : State) (k : Nat) (f : Future) : (setFut s k f).ttPre = s.ttPre := rfl
@[simp] theorem setFut_ttSlot (s : State) (k : Nat) (f : Future) : (setFut s k f).ttSlot = s.ttSlot := rfl
@[simp] theorem setFut_keyLoads (s : State) (k : Nat) (f : Future) : (setFut s k f).keyLoads = s.keyLoads := rfl
@[simp] theorem setFut_spdm (s : State) (k : Nat) (f : Future) : (setFut s k f).spdm = s.spdm := rfl
@[simp] theorem setFut_out (s : State) (k : Nat) (f : Future) : (setFut s k f).out = s.out := rfl
@[simp] theorem setFut_bi (s : State) (k : Nat) (f : Future) : (setFut s k f).bi = s.bi := rfl
@[simp] theorem setFut_sensors (s : State) (k : Nat) (f : Future) : (setFut s k f).sensors = s.sensors := rfl
@[simp] theorem setFut_hbmStacks (s : State) (k : Nat) (f : Future) : (setFut s k f).hbmStacks = s.hbmStacks := rfl
@[simp] theorem setFut_image (s : State) (k : Nat) (f : Future) : (setFut s k f).image = s.image := rfl
@[simp] theorem setFut_seen (s : State) (k : Nat) (f : Future) : (setFut s k f).seen = s.seen := rfl
@[simp] theorem setFut_joining (s : State) (k : Nat) (f : Future) : (setFut s k f).joining = s.joining := rfl
@[simp] theorem setFut_peers (s : State) (k : Nat) (f : Future) : (setFut s k f).peers = s.peers := rfl
@[simp] theorem setFut_sweeps (s : State) (k : Nat) (f : Future) : (setFut s k f).sweeps = s.sweeps := rfl
@[simp] theorem setFut_ide (s : State) (k : Nat) (f : Future) : (setFut s k f).ide = s.ide := rfl
@[simp] theorem setFut_hdm (s : State) (k : Nat) (f : Future) : (setFut s k f).hdm = s.hdm := rfl
@[simp] theorem setFut_thermal (s : State) (k : Nat) (f : Future) : (setFut s k f).thermal = s.thermal := rfl
@[simp] theorem setFut_tree (s : State) (k : Nat) (f : Future) : (setFut s k f).tree = s.tree := rfl
@[simp] theorem setFut_treeMsgs (s : State) (k : Nat) (f : Future) : (setFut s k f).treeMsgs = s.treeMsgs := rfl
@[simp] theorem setFut_bbox (s : State) (k : Nat) (f : Future) : (setFut s k f).bbox = s.bbox := rfl
@[simp] theorem setFut_msix (s : State) (k : Nat) (f : Future) : (setFut s k f).msix = s.msix := rfl
@[simp] theorem setFut_dtc (s : State) (k : Nat) (f : Future) : (setFut s k f).dtc = s.dtc := rfl
@[simp] theorem setFut_halted (s : State) (k : Nat) (f : Future) : (setFut s k f).halted = s.halted := rfl
@[simp] theorem setFut_strikes (s : State) (k : Nat) (f : Future) : (setFut s k f).strikes = s.strikes := rfl
@[simp] theorem setFut_freeCount (s : State) (k : Nat) (f : Future) : (setFut s k f).freeCount = s.freeCount := rfl
@[simp] theorem setFut_agenda (s : State) (k : Nat) (f : Future) : (setFut s k f).agenda = s.agenda := rfl
@[simp] theorem setFut_cur (s : State) (k : Nat) (f : Future) : (setFut s k f).cur = s.cur := rfl
@[simp] theorem setFut_turn (s : State) (k : Nat) (f : Future) : (setFut s k f).turn = s.turn := rfl
@[simp] theorem setFut_flip (s : State) (k : Nat) (f : Future) : (setFut s k f).flip = s.flip := rfl

/-! ### setMreg -/

@[simp] theorem setMreg_mem (s : State) (a v : Nat) : (setMreg s a v).mem = s.mem := rfl
@[simp] theorem setMreg_poison (s : State) (a v : Nat) : (setMreg s a v).poison = s.poison := rfl
@[simp] theorem setMreg_keyTags (s : State) (a v : Nat) : (setMreg s a v).keyTags = s.keyTags := rfl
@[simp] theorem setMreg_l1 (s : State) (a v : Nat) : (setMreg s a v).l1 = s.l1 := rfl
@[simp] theorem setMreg_home (s : State) (a v : Nat) : (setMreg s a v).home = s.home := rfl
@[simp] theorem setMreg_dead (s : State) (a v : Nat) : (setMreg s a v).dead = s.dead := rfl
@[simp] theorem setMreg_keys (s : State) (a v : Nat) : (setMreg s a v).keys = s.keys := rfl
@[simp] theorem setMreg_leaves (s : State) (a v : Nat) : (setMreg s a v).leaves = s.leaves := rfl
@[simp] theorem setMreg_walks (s : State) (a v : Nat) : (setMreg s a v).walks = s.walks := rfl
@[simp] theorem setMreg_parks (s : State) (a v : Nat) : (setMreg s a v).parks = s.parks := rfl
@[simp] theorem setMreg_parkWait (s : State) (a v : Nat) : (setMreg s a v).parkWait = s.parkWait := rfl
@[simp] theorem setMreg_frecs (s : State) (a v : Nat) : (setMreg s a v).frecs = s.frecs := rfl
@[simp] theorem setMreg_noparks (s : State) (a v : Nat) : (setMreg s a v).noparks = s.noparks := rfl
@[simp] theorem setMreg_hists (s : State) (a v : Nat) : (setMreg s a v).hists = s.hists := rfl
@[simp] theorem setMreg_reqs (s : State) (a v : Nat) : (setMreg s a v).reqs = s.reqs := rfl
@[simp] theorem setMreg_held (s : State) (a v : Nat) : (setMreg s a v).held = s.held := rfl
@[simp] theorem setMreg_peerOut (s : State) (a v : Nat) : (setMreg s a v).peerOut = s.peerOut := rfl
@[simp] theorem setMreg_flits (s : State) (a v : Nat) : (setMreg s a v).flits = s.flits := rfl
@[simp] theorem setMreg_links (s : State) (a v : Nat) : (setMreg s a v).links = s.links := rfl
@[simp] theorem setMreg_tags (s : State) (a v : Nat) : (setMreg s a v).tags = s.tags := rfl
@[simp] theorem setMreg_hostErrors (s : State) (a v : Nat) : (setMreg s a v).hostErrors = s.hostErrors := rfl
@[simp] theorem setMreg_bankCmds (s : State) (a v : Nat) : (setMreg s a v).bankCmds = s.bankCmds := rfl
@[simp] theorem setMreg_rets (s : State) (a v : Nat) : (setMreg s a v).rets = s.rets := rfl
@[simp] theorem setMreg_reqNo (s : State) (a v : Nat) : (setMreg s a v).reqNo = s.reqNo := rfl
@[simp] theorem setMreg_groups (s : State) (a v : Nat) : (setMreg s a v).groups = s.groups := rfl
@[simp] theorem setMreg_cores (s : State) (a v : Nat) : (setMreg s a v).cores = s.cores := rfl
@[simp] theorem setMreg_bte (s : State) (a v : Nat) : (setMreg s a v).bte = s.bte := rfl
@[simp] theorem setMreg_blocks (s : State) (a v : Nat) : (setMreg s a v).blocks = s.blocks := rfl
@[simp] theorem setMreg_blockNo (s : State) (a v : Nat) : (setMreg s a v).blockNo = s.blockNo := rfl
@[simp] theorem setMreg_launches (s : State) (a v : Nat) : (setMreg s a v).launches = s.launches := rfl
@[simp] theorem setMreg_futures (s : State) (a v : Nat) : (setMreg s a v).futures = s.futures := rfl
@[simp] theorem setMreg_engines (s : State) (a v : Nat) : (setMreg s a v).engines = s.engines := rfl
@[simp] theorem setMreg_entNo (s : State) (a v : Nat) : (setMreg s a v).entNo = s.entNo := rfl
@[simp] theorem setMreg_dealtTo (s : State) (a v : Nat) : (setMreg s a v).dealtTo = s.dealtTo := rfl
@[simp] theorem setMreg_transit (s : State) (a v : Nat) : (setMreg s a v).transit = s.transit := rfl
@[simp] theorem setMreg_moves (s : State) (a v : Nat) : (setMreg s a v).moves = s.moves := rfl
@[simp] theorem setMreg_saves (s : State) (a v : Nat) : (setMreg s a v).saves = s.saves := rfl
@[simp] theorem setMreg_goats (s : State) (a v : Nat) : (setMreg s a v).goats = s.goats := rfl
@[simp] theorem setMreg_arrivals (s : State) (a v : Nat) : (setMreg s a v).arrivals = s.arrivals := rfl
@[simp] theorem setMreg_barWaits (s : State) (a v : Nat) : (setMreg s a v).barWaits = s.barWaits := rfl
@[simp] theorem setMreg_migs (s : State) (a v : Nat) : (setMreg s a v).migs = s.migs := rfl
@[simp] theorem setMreg_redirs (s : State) (a v : Nat) : (setMreg s a v).redirs = s.redirs := rfl
@[simp] theorem setMreg_evac (s : State) (a v : Nat) : (setMreg s a v).evac = s.evac := rfl
@[simp] theorem setMreg_cmds (s : State) (a v : Nat) : (setMreg s a v).cmds = s.cmds := rfl
@[simp] theorem setMreg_pendDec (s : State) (a v : Nat) : (setMreg s a v).pendDec = s.pendDec := rfl
@[simp] theorem setMreg_relWait (s : State) (a v : Nat) : (setMreg s a v).relWait = s.relWait := rfl
@[simp] theorem setMreg_lastQueue (s : State) (a v : Nat) : (setMreg s a v).lastQueue = s.lastQueue := rfl
@[simp] theorem setMreg_copy (s : State) (a v : Nat) : (setMreg s a v).copy = s.copy := rfl
@[simp] theorem setMreg_copyQueue (s : State) (a v : Nat) : (setMreg s a v).copyQueue = s.copyQueue := rfl
@[simp] theorem setMreg_ttIns (s : State) (a v : Nat) : (setMreg s a v).ttIns = s.ttIns := rfl
@[simp] theorem setMreg_ttPrev (s : State) (a v : Nat) : (setMreg s a v).ttPrev = s.ttPrev := rfl
@[simp] theorem setMreg_ttPre (s : State) (a v : Nat) : (setMreg s a v).ttPre = s.ttPre := rfl
@[simp] theorem setMreg_ttSlot (s : State) (a v : Nat) : (setMreg s a v).ttSlot = s.ttSlot := rfl
@[simp] theorem setMreg_keyLoads (s : State) (a v : Nat) : (setMreg s a v).keyLoads = s.keyLoads := rfl
@[simp] theorem setMreg_spdm (s : State) (a v : Nat) : (setMreg s a v).spdm = s.spdm := rfl
@[simp] theorem setMreg_out (s : State) (a v : Nat) : (setMreg s a v).out = s.out := rfl
@[simp] theorem setMreg_bi (s : State) (a v : Nat) : (setMreg s a v).bi = s.bi := rfl
@[simp] theorem setMreg_sensors (s : State) (a v : Nat) : (setMreg s a v).sensors = s.sensors := rfl
@[simp] theorem setMreg_hbmStacks (s : State) (a v : Nat) : (setMreg s a v).hbmStacks = s.hbmStacks := rfl
@[simp] theorem setMreg_image (s : State) (a v : Nat) : (setMreg s a v).image = s.image := rfl
@[simp] theorem setMreg_seen (s : State) (a v : Nat) : (setMreg s a v).seen = s.seen := rfl
@[simp] theorem setMreg_joining (s : State) (a v : Nat) : (setMreg s a v).joining = s.joining := rfl
@[simp] theorem setMreg_peers (s : State) (a v : Nat) : (setMreg s a v).peers = s.peers := rfl
@[simp] theorem setMreg_sweeps (s : State) (a v : Nat) : (setMreg s a v).sweeps = s.sweeps := rfl
@[simp] theorem setMreg_ide (s : State) (a v : Nat) : (setMreg s a v).ide = s.ide := rfl
@[simp] theorem setMreg_hdm (s : State) (a v : Nat) : (setMreg s a v).hdm = s.hdm := rfl
@[simp] theorem setMreg_thermal (s : State) (a v : Nat) : (setMreg s a v).thermal = s.thermal := rfl
@[simp] theorem setMreg_tree (s : State) (a v : Nat) : (setMreg s a v).tree = s.tree := rfl
@[simp] theorem setMreg_treeMsgs (s : State) (a v : Nat) : (setMreg s a v).treeMsgs = s.treeMsgs := rfl
@[simp] theorem setMreg_bbox (s : State) (a v : Nat) : (setMreg s a v).bbox = s.bbox := rfl
@[simp] theorem setMreg_msix (s : State) (a v : Nat) : (setMreg s a v).msix = s.msix := rfl
@[simp] theorem setMreg_dtc (s : State) (a v : Nat) : (setMreg s a v).dtc = s.dtc := rfl
@[simp] theorem setMreg_halted (s : State) (a v : Nat) : (setMreg s a v).halted = s.halted := rfl
@[simp] theorem setMreg_strikes (s : State) (a v : Nat) : (setMreg s a v).strikes = s.strikes := rfl
@[simp] theorem setMreg_freeCount (s : State) (a v : Nat) : (setMreg s a v).freeCount = s.freeCount := rfl
@[simp] theorem setMreg_agenda (s : State) (a v : Nat) : (setMreg s a v).agenda = s.agenda := rfl
@[simp] theorem setMreg_cur (s : State) (a v : Nat) : (setMreg s a v).cur = s.cur := rfl
@[simp] theorem setMreg_turn (s : State) (a v : Nat) : (setMreg s a v).turn = s.turn := rfl
@[simp] theorem setMreg_flip (s : State) (a v : Nat) : (setMreg s a v).flip = s.flip := rfl

/-! ### due -/

@[simp] theorem due_mem (s : State) (es : List Instr) : (due s es).mem = s.mem := rfl
@[simp] theorem due_poison (s : State) (es : List Instr) : (due s es).poison = s.poison := rfl
@[simp] theorem due_keyTags (s : State) (es : List Instr) : (due s es).keyTags = s.keyTags := rfl
@[simp] theorem due_l1 (s : State) (es : List Instr) : (due s es).l1 = s.l1 := rfl
@[simp] theorem due_home (s : State) (es : List Instr) : (due s es).home = s.home := rfl
@[simp] theorem due_dead (s : State) (es : List Instr) : (due s es).dead = s.dead := rfl
@[simp] theorem due_keys (s : State) (es : List Instr) : (due s es).keys = s.keys := rfl
@[simp] theorem due_leaves (s : State) (es : List Instr) : (due s es).leaves = s.leaves := rfl
@[simp] theorem due_walks (s : State) (es : List Instr) : (due s es).walks = s.walks := rfl
@[simp] theorem due_parks (s : State) (es : List Instr) : (due s es).parks = s.parks := rfl
@[simp] theorem due_parkWait (s : State) (es : List Instr) : (due s es).parkWait = s.parkWait := rfl
@[simp] theorem due_frecs (s : State) (es : List Instr) : (due s es).frecs = s.frecs := rfl
@[simp] theorem due_noparks (s : State) (es : List Instr) : (due s es).noparks = s.noparks := rfl
@[simp] theorem due_hists (s : State) (es : List Instr) : (due s es).hists = s.hists := rfl
@[simp] theorem due_reqs (s : State) (es : List Instr) : (due s es).reqs = s.reqs := rfl
@[simp] theorem due_held (s : State) (es : List Instr) : (due s es).held = s.held := rfl
@[simp] theorem due_peerOut (s : State) (es : List Instr) : (due s es).peerOut = s.peerOut := rfl
@[simp] theorem due_flits (s : State) (es : List Instr) : (due s es).flits = s.flits := rfl
@[simp] theorem due_links (s : State) (es : List Instr) : (due s es).links = s.links := rfl
@[simp] theorem due_tags (s : State) (es : List Instr) : (due s es).tags = s.tags := rfl
@[simp] theorem due_hostErrors (s : State) (es : List Instr) : (due s es).hostErrors = s.hostErrors := rfl
@[simp] theorem due_bankCmds (s : State) (es : List Instr) : (due s es).bankCmds = s.bankCmds := rfl
@[simp] theorem due_rets (s : State) (es : List Instr) : (due s es).rets = s.rets := rfl
@[simp] theorem due_reqNo (s : State) (es : List Instr) : (due s es).reqNo = s.reqNo := rfl
@[simp] theorem due_groups (s : State) (es : List Instr) : (due s es).groups = s.groups := rfl
@[simp] theorem due_cores (s : State) (es : List Instr) : (due s es).cores = s.cores := rfl
@[simp] theorem due_bte (s : State) (es : List Instr) : (due s es).bte = s.bte := rfl
@[simp] theorem due_blocks (s : State) (es : List Instr) : (due s es).blocks = s.blocks := rfl
@[simp] theorem due_blockNo (s : State) (es : List Instr) : (due s es).blockNo = s.blockNo := rfl
@[simp] theorem due_launches (s : State) (es : List Instr) : (due s es).launches = s.launches := rfl
@[simp] theorem due_futures (s : State) (es : List Instr) : (due s es).futures = s.futures := rfl
@[simp] theorem due_mgmt (s : State) (es : List Instr) : (due s es).mgmt = s.mgmt := rfl
@[simp] theorem due_engines (s : State) (es : List Instr) : (due s es).engines = s.engines := rfl
@[simp] theorem due_entNo (s : State) (es : List Instr) : (due s es).entNo = s.entNo := rfl
@[simp] theorem due_dealtTo (s : State) (es : List Instr) : (due s es).dealtTo = s.dealtTo := rfl
@[simp] theorem due_transit (s : State) (es : List Instr) : (due s es).transit = s.transit := rfl
@[simp] theorem due_moves (s : State) (es : List Instr) : (due s es).moves = s.moves := rfl
@[simp] theorem due_saves (s : State) (es : List Instr) : (due s es).saves = s.saves := rfl
@[simp] theorem due_goats (s : State) (es : List Instr) : (due s es).goats = s.goats := rfl
@[simp] theorem due_arrivals (s : State) (es : List Instr) : (due s es).arrivals = s.arrivals := rfl
@[simp] theorem due_barWaits (s : State) (es : List Instr) : (due s es).barWaits = s.barWaits := rfl
@[simp] theorem due_migs (s : State) (es : List Instr) : (due s es).migs = s.migs := rfl
@[simp] theorem due_redirs (s : State) (es : List Instr) : (due s es).redirs = s.redirs := rfl
@[simp] theorem due_evac (s : State) (es : List Instr) : (due s es).evac = s.evac := rfl
@[simp] theorem due_cmds (s : State) (es : List Instr) : (due s es).cmds = s.cmds := rfl
@[simp] theorem due_pendDec (s : State) (es : List Instr) : (due s es).pendDec = s.pendDec := rfl
@[simp] theorem due_relWait (s : State) (es : List Instr) : (due s es).relWait = s.relWait := rfl
@[simp] theorem due_lastQueue (s : State) (es : List Instr) : (due s es).lastQueue = s.lastQueue := rfl
@[simp] theorem due_copy (s : State) (es : List Instr) : (due s es).copy = s.copy := rfl
@[simp] theorem due_copyQueue (s : State) (es : List Instr) : (due s es).copyQueue = s.copyQueue := rfl
@[simp] theorem due_ttIns (s : State) (es : List Instr) : (due s es).ttIns = s.ttIns := rfl
@[simp] theorem due_ttPrev (s : State) (es : List Instr) : (due s es).ttPrev = s.ttPrev := rfl
@[simp] theorem due_ttPre (s : State) (es : List Instr) : (due s es).ttPre = s.ttPre := rfl
@[simp] theorem due_ttSlot (s : State) (es : List Instr) : (due s es).ttSlot = s.ttSlot := rfl
@[simp] theorem due_keyLoads (s : State) (es : List Instr) : (due s es).keyLoads = s.keyLoads := rfl
@[simp] theorem due_spdm (s : State) (es : List Instr) : (due s es).spdm = s.spdm := rfl
@[simp] theorem due_out (s : State) (es : List Instr) : (due s es).out = s.out := rfl
@[simp] theorem due_bi (s : State) (es : List Instr) : (due s es).bi = s.bi := rfl
@[simp] theorem due_sensors (s : State) (es : List Instr) : (due s es).sensors = s.sensors := rfl
@[simp] theorem due_hbmStacks (s : State) (es : List Instr) : (due s es).hbmStacks = s.hbmStacks := rfl
@[simp] theorem due_image (s : State) (es : List Instr) : (due s es).image = s.image := rfl
@[simp] theorem due_seen (s : State) (es : List Instr) : (due s es).seen = s.seen := rfl
@[simp] theorem due_joining (s : State) (es : List Instr) : (due s es).joining = s.joining := rfl
@[simp] theorem due_peers (s : State) (es : List Instr) : (due s es).peers = s.peers := rfl
@[simp] theorem due_sweeps (s : State) (es : List Instr) : (due s es).sweeps = s.sweeps := rfl
@[simp] theorem due_ide (s : State) (es : List Instr) : (due s es).ide = s.ide := rfl
@[simp] theorem due_hdm (s : State) (es : List Instr) : (due s es).hdm = s.hdm := rfl
@[simp] theorem due_thermal (s : State) (es : List Instr) : (due s es).thermal = s.thermal := rfl
@[simp] theorem due_tree (s : State) (es : List Instr) : (due s es).tree = s.tree := rfl
@[simp] theorem due_treeMsgs (s : State) (es : List Instr) : (due s es).treeMsgs = s.treeMsgs := rfl
@[simp] theorem due_bbox (s : State) (es : List Instr) : (due s es).bbox = s.bbox := rfl
@[simp] theorem due_msix (s : State) (es : List Instr) : (due s es).msix = s.msix := rfl
@[simp] theorem due_dtc (s : State) (es : List Instr) : (due s es).dtc = s.dtc := rfl
@[simp] theorem due_halted (s : State) (es : List Instr) : (due s es).halted = s.halted := rfl
@[simp] theorem due_strikes (s : State) (es : List Instr) : (due s es).strikes = s.strikes := rfl
@[simp] theorem due_freeCount (s : State) (es : List Instr) : (due s es).freeCount = s.freeCount := rfl
@[simp] theorem due_cur (s : State) (es : List Instr) : (due s es).cur = s.cur := rfl
@[simp] theorem due_turn (s : State) (es : List Instr) : (due s es).turn = s.turn := rfl
@[simp] theorem due_flip (s : State) (es : List Instr) : (due s es).flip = s.flip := rfl

end Sys2Proof.Machine
end

