-- ==== Sys2Proof/Laws/Registers.lean ====
section
/-! SUPPORT. Reads of cores, groups, blocks and management registers after the named updates. -/

namespace Sys2Proof.Machine

@[simp] theorem coreOf_setCore_self (s : State) (c : Nat) (x : Core) : coreOf (setCore s c x) c = x := by
  simp [coreOf, setCore]
theorem coreOf_setCore_ne (s : State) {c d : Nat} (x : Core) (h : c ≠ d) : coreOf (setCore s c x) d = coreOf s d := by
  simp [coreOf, setCore, mgetD_mset_ne _ _ _ h]
@[simp] theorem coreOf_updCore_self (s : State) (c : Nat) (f : Core → Core) : coreOf (updCore s c f) c = f (coreOf s c) := by
  simp [updCore]
@[simp] theorem groupOf_setGroup_self (s : State) (k : Nat) (g : Group) : groupOf (setGroup s k g) k = some g := by
  simp [groupOf, setGroup]
theorem groupOf_setGroup_ne (s : State) {k j : Nat} (g : Group) (h : k ≠ j) : groupOf (setGroup s k g) j = groupOf s j := by
  simp [groupOf, setGroup, mget_mset_ne _ _ h]
@[simp] theorem groupOf_updGroup_self (s : State) (k : Nat) (f : Group → Group) :
    groupOf (updGroup s k f) k = (groupOf s k).map f := by
  simp [groupOf, updGroup, mget_mupd_self]
theorem groupOf_updGroup_ne (s : State) {k j : Nat} (f : Group → Group) (h : k ≠ j) :
    groupOf (updGroup s k f) j = groupOf s j := by
  simp [groupOf, updGroup, mget_mupd_ne _ _ h]
@[simp] theorem groupOf_setCore (s : State) (c : Nat) (x : Core) (k : Nat) : groupOf (setCore s c x) k = groupOf s k := rfl
@[simp] theorem groupOf_updCore (s : State) (c : Nat) (f : Core → Core) (k : Nat) : groupOf (updCore s c f) k = groupOf s k := rfl
@[simp] theorem groupOf_updBlock (s : State) (b : Nat) (f : Block → Block) (k : Nat) : groupOf (updBlock s b f) k = groupOf s k := rfl
@[simp] theorem groupOf_setMreg (s : State) (a v k : Nat) : groupOf (setMreg s a v) k = groupOf s k := rfl
@[simp] theorem groupOf_due (s : State) (es : List Instr) (k : Nat) : groupOf (due s es) k = groupOf s k := rfl
@[simp] theorem coreOf_setGroup (s : State) (k : Nat) (g : Group) (c : Nat) : coreOf (setGroup s k g) c = coreOf s c := rfl
@[simp] theorem coreOf_updGroup (s : State) (k : Nat) (f : Group → Group) (c : Nat) : coreOf (updGroup s k f) c = coreOf s c := rfl

/-- A management register reads what was written. -/
@[simp] theorem mreg_setMreg_self (s : State) (a v : Nat) : mreg (setMreg s a v) a = v := by
  by_cases hv : v = regDefault a <;> simp [mreg, setMreg, hv, mgetD]
theorem mreg_setMreg_ne (s : State) {a b : Nat} (v : Nat) (h : a ≠ b) : mreg (setMreg s a v) b = mreg s b := by
  unfold mreg setMreg mgetD
  split
  · simp [mget_mdel_ne _ h]
  · simp [mget_mset_ne _ _ h]

@[simp] theorem mreg_raiseEvent_ne (s : State) (cls a : Nat) (h : 0x30100 ≠ a) : mreg (raiseEvent s cls) a = mreg s a := by
  show mreg (setMreg s _ _) a = _
  exact mreg_setMreg_ne s _ h

/-- Counting changes only a core's PERF counters. -/
theorem countPerf_eq (s : State) (core ev n : Nat) :
    countPerf s core ev n = s ∨ ∃ p, countPerf s core ev n = setCore s core { coreOf s core with perf := p } := by
  unfold countPerf
  simp only
  split
  · exact .inl rfl
  · exact .inr ⟨_, rfl⟩
@[simp] theorem groupOf_countPerf (s : State) (core ev n k : Nat) : groupOf (countPerf s core ev n) k = groupOf s k := by
  rcases countPerf_eq s core ev n with h | ⟨p, h⟩ <;> rw [h] <;> rfl

end Sys2Proof.Machine
end

