-- ==== Sys2Proof/Laws/Issue.lean ====
section
/-! SUPPORT. What issuing an instruction does to a group before its own effect, and what its completion does. -/

namespace Sys2Proof.Machine

/-- Cycles, charges and counters have passed: groups keep all but their exemption and their `mma` context. -/
structure Ticked (s s' : State) : Prop where
  rest : ∃ gs cs bs ag, s' = { s with groups := gs, cores := cs, blocks := bs, agenda := ag }
  same : ∀ k g, groupOf s k = some g → ∃ x m, groupOf s' k = some { g with exempt := x, mctx := m }
  blocks : ∀ b, ∃ u, blockOf s' b = (blockOf s b).map (fun x => { x with units := u })

/-- Blocks that are the same are the same but for their units. -/
theorem sameBlocks {s t : State} (h : t.blocks = s.blocks) (b : Nat) : ∃ u, blockOf t b = (blockOf s b).map (fun x => { x with units := u }) := by
  refine ⟨(blockOf s b).elim 0 (·.units), ?_⟩
  unfold blockOf
  rw [h]
  cases mget s.blocks b <;> rfl
theorem unitsTrans {a b c : State} (h : ∀ k, ∃ u, blockOf b k = (blockOf a k).map (fun x => { x with units := u }))
    (h' : ∀ k, ∃ u, blockOf c k = (blockOf b k).map (fun x => { x with units := u })) (k : Nat) :
    ∃ u, blockOf c k = (blockOf a k).map (fun x => { x with units := u }) := by
  obtain ⟨u, h1⟩ := h k
  obtain ⟨u', h2⟩ := h' k
  refine ⟨u', ?_⟩
  rw [h2, h1]
  cases blockOf a k <;> rfl

theorem Ticked.refl (s : State) : Ticked s s := ⟨⟨_, _, _, _, rfl⟩, fun _ g h => ⟨g.exempt, g.mctx, h⟩, sameBlocks rfl⟩

theorem Ticked.trans {a b c : State} (h : Ticked a b) (h' : Ticked b c) : Ticked a c := by
  refine ⟨?_, fun k g hg => ?_, unitsTrans h.blocks h'.blocks⟩
  · obtain ⟨g1, c1, b1, a1, rfl⟩ := h.rest
    obtain ⟨g2, c2, b2, a2, rfl⟩ := h'.rest
    exact ⟨_, _, _, _, rfl⟩
  · obtain ⟨x, m, h1⟩ := h.same k g hg
    obtain ⟨x', m', h2⟩ := h'.same k _ h1
    exact ⟨x', m', h2⟩

theorem Ticked.setCore (s : State) (c : Nat) (x : Core) : Ticked s (Machine.setCore s c x) :=
  ⟨⟨_, _, _, _, rfl⟩, fun _ g h => ⟨g.exempt, g.mctx, h⟩, sameBlocks rfl⟩
theorem Ticked.updCore (s : State) (c : Nat) (f : Core → Core) : Ticked s (Machine.updCore s c f) := Ticked.setCore s c _
theorem blockOf_updBlock (s : State) (b j : Nat) (f : Block → Block) :
    blockOf (Machine.updBlock s b f) j = if b = j then (blockOf s j).map f else blockOf s j := by
  unfold blockOf Machine.updBlock
  by_cases h : b = j
  · subst h; simp [mget_mupd_self]
  · simp [h, mget_mupd_ne]
theorem Ticked.units (s : State) (b : Nat) (f : Nat → Nat) :
    Ticked s (Machine.updBlock s b (fun x => { x with units := f x.units })) := by
  refine ⟨⟨_, _, _, _, rfl⟩, fun _ g h => ⟨g.exempt, g.mctx, h⟩, fun j => ?_⟩
  refine ⟨(blockOf s j).elim 0 (fun x => if b = j then f x.units else x.units), ?_⟩
  rw [blockOf_updBlock]
  cases blockOf s j with
  | none => simp
  | some x => by_cases h : b = j <;> simp [h]
theorem Ticked.agenda (s : State) (l : List Instr) : Ticked s { s with agenda := l } :=
  ⟨⟨_, _, _, _, rfl⟩, fun _ g h => ⟨g.exempt, g.mctx, h⟩, sameBlocks rfl⟩
theorem Ticked.countPerf (s : State) (core ev n : Nat) : Ticked s (Machine.countPerf s core ev n) := by
  rcases countPerf_eq s core ev n with h | ⟨p, h⟩ <;> rw [h]
  · exact .refl s
  · exact .setCore s _ _

/-- A group changes in its exemption and its `mma` context only. -/
theorem Ticked.setGroup (s : State) (k : Nat) (g : Group) (x : Nat) (m : Option MCtx) (h : groupOf s k = some g) :
    Ticked s (Machine.setGroup s k { g with exempt := x, mctx := m }) := by
  refine ⟨⟨_, _, _, _, rfl⟩, fun j y hy => ?_, sameBlocks rfl⟩
  by_cases hj : k = j
  · subst hj
    rw [h] at hy; cases hy
    exact ⟨x, m, groupOf_setGroup_self ..⟩
  · exact ⟨y.exempt, y.mctx, by rw [groupOf_setGroup_ne s _ hj]; exact hy⟩

theorem Ticked.chargeCore (s : State) (k units : Nat) : Ticked s (Machine.chargeCore s k units) := by
  unfold Machine.chargeCore
  split
  · exact .refl s
  · split
    · exact .refl s
    · exact (Ticked.updCore s _ _).trans (Ticked.units _ _ (· + units))

theorem Ticked.chargeUnits (s : State) (k units : Nat) : Ticked s (Machine.chargeUnits s k units) := by
  unfold Machine.chargeUnits
  split
  · exact .refl s
  · rename_i g hg
    refine Ticked.trans ?_ (.chargeCore _ _ _)
    refine Ticked.trans ?_ (.countPerf _ _ _ _)
    split
    · exact .refl s
    · exact Ticked.setGroup s k g _ g.mctx hg

theorem Ticked.unitCycle (s : State) (core charge : Nat) : Ticked s (Machine.unitCycle s core charge) := by
  unfold Machine.unitCycle
  split
  · exact .refl s
  · rename_i k _ _
    split
    · exact .refl s
    · rename_i g hg
      split
      · exact .refl s
      · rename_i m hm
        split
        · exact .refl s
        · rename_i rg hrg
          simp only
          split
          · exact .refl s
          split
          · refine (Ticked.countPerf s core 0x92 1).trans (Ticked.setGroup _ k g g.exempt _ ?_)
            simpa using hg
          · refine Ticked.trans (b := chargeBusy (Machine.setGroup s k { g with mctx := some (oneBusy { m with state := 2 } rg) }) k
                (oneBusy { m with state := 2 } rg)) ?_ ?_
            · refine (Ticked.setGroup s k g g.exempt (some (oneBusy { m with state := 2 } rg)) hg).trans ?_
              unfold chargeBusy
              refine Ticked.trans (Ticked.countPerf _ (keyCore k) 0x91 1) ?_
              split
              · exact .chargeUnits _ _ _
              · exact .chargeCore _ _ _
            · split
              · exact .agenda _ _
              · exact .refl _

theorem Ticked.foldUpto (f : State → Nat → State) (h : ∀ s i, Ticked s (f s i)) (s : State) (n : Nat) :
    Ticked s (Machine.foldUpto f s n) := by
  induction n with
  | zero => exact .refl s
  | succ n ih => exact ih.trans (h _ n)

theorem Ticked.tickFrom (s : State) (core n charge : Nat) : Ticked s (Machine.tickFrom s core n charge) := by
  unfold Machine.tickFrom
  extract_lets left k s1 s1' s2 s3
  have h1 : Ticked s s1 := by
    show Ticked s (if _ then s else _)
    split
    · exact .refl s
    · exact Ticked.foldUpto _ (fun s i => .unitCycle s _ _) s _
  have h1' : Ticked s s1' := by
    show Ticked s (if _ then s1 else _)
    split
    · exact h1
    · exact h1.trans (.countPerf _ core 0x54 k)
  have h2 : Ticked s s2 := h1'.trans ((Ticked.updCore s1' core _).trans (.countPerf _ core 0x01 k))
  split
  · exact h2
  · exact h2.trans ((Ticked.updCore s2 core _).trans (.agenda _ _))

theorem Ticked.passCycles (s : State) (core n charge : Nat) : Ticked s (Machine.passCycles s core n charge) :=
  (Ticked.countPerf s core 0x11 n).trans (.tickFrom _ _ _ _)

/-! ### Only one group -/

theorem OnlyGroup.refl (s : State) (k : Nat) : OnlyGroup s s k := ⟨⟨_, _, _, _, rfl⟩, fun _ _ g h => ⟨g.exempt, g.mctx, h⟩, sameBlocks rfl⟩
theorem OnlyGroup.trans {a b c : State} {k : Nat} (h : OnlyGroup a b k) (h' : OnlyGroup b c k) : OnlyGroup a c k := by
  refine ⟨?_, fun j hj g hg => ?_, unitsTrans h.blocks h'.blocks⟩
  · obtain ⟨_, _, _, _, rfl⟩ := h.rest
    obtain ⟨_, _, _, _, rfl⟩ := h'.rest
    exact ⟨_, _, _, _, rfl⟩
  · obtain ⟨x, m, h1⟩ := h.others j hj g hg
    obtain ⟨x', m', h2⟩ := h'.others j hj _ h1
    exact ⟨x', m', h2⟩
theorem Ticked.onlyGroup {s t : State} (h : Ticked s t) (k : Nat) : OnlyGroup s t k := ⟨h.rest, fun j _ g hg => h.same j g hg, h.blocks⟩
theorem OnlyGroup.setGroup (s : State) (k : Nat) (g : Group) : OnlyGroup s (Machine.setGroup s k g) k :=
  ⟨⟨_, _, _, _, rfl⟩, fun _ hj g' h => ⟨g'.exempt, g'.mctx, by rw [groupOf_setGroup_ne s g (Ne.symm hj)]; exact h⟩, sameBlocks rfl⟩
theorem OnlyGroup.updGroup (s : State) (k : Nat) (f : Group → Group) : OnlyGroup s (Machine.updGroup s k f) k :=
  ⟨⟨_, _, _, _, rfl⟩, fun _ hj g' h => ⟨g'.exempt, g'.mctx, by rw [groupOf_updGroup_ne s f (Ne.symm hj)]; exact h⟩, sameBlocks rfl⟩

/-! ### Operands -/

theorem popQueues_eq (g : Group) (qs : List Nat) : ∃ qu la, popQueues g qs = { g with queues := qu, latch := la } := by
  induction qs generalizing g with
  | nil => exact ⟨_, _, rfl⟩
  | cons q qs ih =>
    show ∃ qu la, (match (queueAt g q).entries with
      | [] => popQueues g qs
      | e :: es => popQueues { setQueue g q { queueAt g q with entries := es } with latch := g.latch ++ [e] } qs) = _
    split
    · exact ih g
    · rename_i e es _
      obtain ⟨qu, la, h⟩ := ih { setQueue g q { queueAt g q with entries := es } with latch := g.latch ++ [e] }
      exact ⟨qu, la, h⟩

theorem getElem?_lset {α : Type} (l : List α) (i j : Nat) (x : α) :
    (lset l i x)[j]? = if i = j then (l[j]?).map (fun _ => x) else l[j]? := by
  induction l generalizing i j with
  | nil => simp [lset]
  | cons y r ih =>
    cases i <;> cases j <;> simp [lset, ih]

theorem queueAt_setQueue (g : Group) (q r : Nat) (x : Queue) :
    queueAt (setQueue g q x) r = if q = r ∧ q < g.queues.length then x else queueAt g r := by
  unfold queueAt setQueue
  simp only [getElem?_lset]
  by_cases h : q = r
  · subst h
    by_cases hq : q < g.queues.length
    · simp [hq]
    · simp [hq]
  · simp [h]

/-- Popping takes as many entries from the front of each queue as the list names it. -/
theorem queueAt_popQueues (g : Group) (qs : List Nat) (q : Nat) :
    queueAt (popQueues g qs) q = { queueAt g q with entries := (queueAt g q).entries.drop (countIn qs q) } := by
  induction qs generalizing g with
  | nil => simp [popQueues, countIn]
  | cons p qs ih =>
    have hu : popQueues g (p :: qs) = match (queueAt g p).entries with
      | [] => popQueues g qs
      | e :: es => popQueues { setQueue g p { queueAt g p with entries := es } with latch := g.latch ++ [e] } qs := rfl
    have hc : countIn (p :: qs) q = countIn qs q + if p = q then 1 else 0 := by
      by_cases h : p = q <;> simp [countIn, h]
    rw [hu, hc]
    split
    · rename_i he
      rw [ih]
      by_cases h : p = q
      · subst h; simp [he]
      · simp [h]
    · rename_i e es he
      rw [ih]
      have hq : queueAt { setQueue g p { queueAt g p with entries := es } with latch := g.latch ++ [e] } q =
          queueAt (setQueue g p { queueAt g p with entries := es }) q := rfl
      have hl : p < g.queues.length := by
        by_cases hl : p < g.queues.length
        · exact hl
        · unfold queueAt at he
          rw [List.getElem?_eq_none (Nat.le_of_not_lt hl)] at he
          cases he
      rw [hq, queueAt_setQueue]
      by_cases h : p = q
      · subst h; simp [he, hl]
      · simp [h]

/-- An issuing group stands under its key with its run. -/
theorem issueCtx_group {s : State} {p : Nat} {n : Bool} {c : Ctx} (h : issueCtx s p n = some c) :
    groupOf s c.key = some c.g ∧ c.g.run = some c.r ∧ c.latch = c.g.latch ∧ c.pre = c.r.pre.map (·.1) ∧
      c.mask = fromLane c.full c.r.start := by
  unfold issueCtx at h
  split at h
  · cases h
  · simp only at h
    split at h
    · cases h
    · rename_i g hg
      split at h
      · cases h
      · rename_i r hr
        cases h
        exact ⟨hg, hr, rfl, rfl, rfl⟩

/-- The context of another guard differs in its masks only. -/
theorem issueCtx_guard {s : State} {p : Nat} {n : Bool} {c : Ctx} (h : issueCtx s p n = some c) (p' : Nat) (n' : Bool) :
    ∃ m m', issueCtx s p' n' = some { c with full := m, mask := m' } := by
  unfold issueCtx at h ⊢
  split at h
  · cases h
  · simp only at h ⊢
    split at h
    · cases h
    · split at h
      · cases h
      · cases h
        exact ⟨_, _, rfl⟩

/-- Reading operands depends on a group's registers only. -/
theorem opndVals_regs {g g' : Group} (hv : g'.vregs = g.vregs) (hs : g'.sregs = g.sregs) (la : List Row) (os : List Opnd) (l : Nat) :
    opndVals g' la os l = opndVals g la os l := by
  unfold opndVals
  congr 1
  funext p
  simp only [Opnd.val, vreg, sreg, hv, hs]

/-- The group and the context with which an instruction's effect begins: entries popped, units charged, cycles passed. -/
theorem issued_spec {s : State} {p : Nat} {n : Bool} {c : Ctx} (h : issueCtx s p n = some c) (i : Spec) :
    ∃ gs cs bs ag g1, (issued s c i).1 = { s with groups := gs, cores := cs, blocks := bs, agenda := ag } ∧
      groupOf (issued s c i).1 c.key = some g1 ∧ (issued s c i).2 = { c with g := g1, latch := g1.latch } ∧
      (∃ qu la x m, g1 = { c.g with queues := qu, latch := la, exempt := x, mctx := m }) ∧
      Popped c (i.srcs.flatMap Opnd.pops) g1 ∧ OnlyGroup s (issued s c i).1 c.key ∧
      ∀ os l, os.flatMap Opnd.pops = i.srcs.flatMap Opnd.pops → opndVals g1 g1.latch os l = c.vals os l := by
  obtain ⟨hg, hr, hl, _⟩ := issueCtx_group h
  let g0 := if c.latch.isEmpty then popQueues c.g (i.srcs.flatMap Opnd.pops) else c.g
  have hg0 : ∃ qu la, g0 = { c.g with queues := qu, latch := la } := by
    show ∃ qu la, (if c.latch.isEmpty then popQueues c.g (i.srcs.flatMap Opnd.pops) else c.g) = _
    split
    · exact popQueues_eq _ _
    · exact ⟨_, _, rfl⟩
  have hl0 : g0.latch = if c.latch.isEmpty then (popQueues c.g (i.srcs.flatMap Opnd.pops)).latch else c.latch := by
    show (if c.latch.isEmpty then popQueues c.g (i.srcs.flatMap Opnd.pops) else c.g).latch = _
    split
    · rfl
    · exact hl.symm
  let sA := if (i.srcs.flatMap Opnd.pops).isEmpty then s else setGroup s c.key g0
  have hA : groupOf sA c.key = some g0 := by
    show groupOf (if (i.srcs.flatMap Opnd.pops).isEmpty then s else setGroup s c.key g0) c.key = _
    split
    · rename_i he
      rw [hg]
      have : i.srcs.flatMap Opnd.pops = [] := by simpa using he
      show some c.g = some (if c.latch.isEmpty then popQueues c.g (i.srcs.flatMap Opnd.pops) else c.g)
      rw [this]
      split <;> rfl
    · exact groupOf_setGroup_self _ _ _
  let sB := if (i.srcs.flatMap Opnd.pops).isEmpty then sA else match blockOf sA c.g.block with
    | some b => due sA (b.shares.filterMap (fun sh => if sh.2.isEmpty then none else some (.pipeDelivery c.g.block sh.1)))
    | none => sA
  have hAg : ∃ gs, sA = { s with groups := gs } := by
    simp only [sA]
    split <;> exact ⟨_, rfl⟩
  have hBg' : ∃ ag, sB = { sA with agenda := ag } := by
    simp only [sB]
    split
    · exact ⟨sA.agenda, rfl⟩
    · split <;> exact ⟨_, rfl⟩
  have hB : (∃ gs ag, sB = { s with groups := gs, agenda := ag }) ∧ groupOf sB c.key = some g0 := by
    obtain ⟨gs, e1⟩ := hAg
    obtain ⟨ag, e2⟩ := hBg'
    refine ⟨⟨gs, ag, by rw [e2, e1]⟩, ?_⟩
    rw [e2]
    exact hA
  have hT : Ticked sB (passCycles (chargeUnits sB c.key (if c.g.paid then 0 else i.charge (coreOf sB c.core) (laneCount c.mask))) c.core
      (i.cycles (laneCount c.mask)) (coreOf sB c.core).charge) := (Ticked.chargeUnits _ _ _).trans (.passCycles _ _ _ _)
  obtain ⟨⟨gs, ag, hBs⟩, hBg⟩ := hB
  obtain ⟨gs', cs', bs', ag', hT'⟩ := hT.rest
  obtain ⟨x, m, hx⟩ := hT.same _ _ hBg
  have e1 : issued s c i = (passCycles (chargeUnits sB c.key (if c.g.paid then 0 else i.charge (coreOf sB c.core) (laneCount c.mask))) c.core
      (i.cycles (laneCount c.mask)) (coreOf sB c.core).charge, { c with g := { g0 with exempt := x, mctx := m }, latch := g0.latch }) := by
    unfold issued
    simp only
    change (match groupOf (passCycles (chargeUnits sB c.key (if c.g.paid then 0 else i.charge (coreOf sB c.core) (laneCount c.mask))) c.core
      (i.cycles (laneCount c.mask)) (coreOf sB c.core).charge) c.key with
      | some g => ((passCycles (chargeUnits sB c.key (if c.g.paid then 0 else i.charge (coreOf sB c.core) (laneCount c.mask))) c.core
      (i.cycles (laneCount c.mask)) (coreOf sB c.core).charge), { c with g := g, latch := g.latch })
      | none => ((passCycles (chargeUnits sB c.key (if c.g.paid then 0 else i.charge (coreOf sB c.core) (laneCount c.mask))) c.core
      (i.cycles (laneCount c.mask)) (coreOf sB c.core).charge), c)) = _
    rw [hx]
  obtain ⟨qu, la, hq⟩ := hg0
  have hpop : Popped c (i.srcs.flatMap Opnd.pops) g0 := by
    intro q
    show queueAt (if c.latch.isEmpty then popQueues c.g (i.srcs.flatMap Opnd.pops) else c.g) q = _
    by_cases he : c.latch = []
    · simp [he, queueAt_popQueues]
    · simp [he]
  have honly : OnlyGroup s sB c.key := by
    obtain ⟨ag, e2⟩ := hBg'
    rw [e2]
    refine OnlyGroup.trans (b := sA) ?_ ((Ticked.agenda _ _).onlyGroup _)
    simp only [sA]
    split
    · exact .refl _ _
    · exact .setGroup _ _ _
  refine ⟨gs', cs', bs', ag', { g0 with exempt := x, mctx := m }, ?_, ?_, ?_, ⟨qu, la, x, m, by rw [hq]⟩, hpop, ?_, ?_⟩
  · rw [e1]
    show passCycles _ _ _ _ = _
    rw [hT', hBs]
  · rw [e1]; exact hx
  · rw [e1]
  · rw [e1]; exact honly.trans (hT.onlyGroup _)
  · intro os l hos
    show opndVals { g0 with exempt := x, mctx := m } g0.latch os l = _
    unfold Ctx.vals
    rw [hos, ← hl0]
    exact opndVals_regs (by show g0.vregs = _; rw [hq]) (by show g0.sregs = _; rw [hq]) _ _ _

/-! ### Issue without a break or a trap -/

/-- The checks before operands are read all pass. -/
theorem preTrap_none {s : State} {c : Ctx} {i : Spec} (hc : c.r.count < 24) (ht : i.transfer = true → i.e = true)
    (hp : i.priv = true → privileged s c.g = true) (hq : i.queueDst = false) (ho : i.own = none) : preTrap s c i = none := by
  have h1 : ¬ 24 ≤ c.r.count := by omega
  have h2 : (i.transfer && !i.e) = false := by cases h : i.transfer <;> simp_all
  have h3 : (i.priv && !privileged s c.g) = false := by cases h : i.priv <;> simp_all
  simp [preTrap, h1, h2, h3, hq, ho]

/-- A ready instruction meets no break and no trap as it reads its operands. -/
theorem operandStop_none {s : State} {c : Ctx} {charged : Bool} {i : Spec} {others : List AReg} {rows : List Nat}
    (h : Ready s c charged i.srcs others rows) (hr : i.dst.rows ++ i.dstRows = rows)
    (hu : charged = true ∨ ∀ k n, i.charge k n = 0)
    (ho : ∀ r ∈ i.reads ++ i.dst.regs, r ∈ others ∨ r ∈ rows.map AReg.v) : operandStop s c i = none := by
  have named : ∀ r ∈ i.srcs.flatMap Opnd.regs ++ i.reads ++ i.dst.regs ++ i.dstRows.map AReg.v,
      r ∈ i.srcs.flatMap Opnd.regs ++ others ++ rows.map AReg.v := by
    intro r hr'
    rw [List.append_assoc, List.append_assoc] at hr'
    rcases List.mem_append.mp hr' with hr' | hr'
    · exact List.mem_append_left _ (List.mem_append_left _ hr')
    · rw [← List.append_assoc] at hr'
      rcases List.mem_append.mp hr' with hr' | hr'
      · rcases ho r hr' with h' | h'
        · exact List.mem_append_left _ (List.mem_append_right _ h')
        · exact List.mem_append_right _ h'
      · refine List.mem_append_right _ ?_
        rw [← hr, List.map_append]
        exact List.mem_append_right _ hr'
  have h1 : (i.srcs.flatMap Opnd.regs ++ i.reads ++ i.dst.regs ++ i.dstRows.map AReg.v).filter (awaits c.g) = [] := by
    rw [List.filter_eq_nil_iff]
    intro r hr'
    have hm := named r hr'
    simp [(h.returned r hm).1]
  have h1' : (i.srcs.flatMap Opnd.regs ++ i.reads ++ i.dst.regs ++ i.dstRows.map AReg.v).any (lacks c.g) = false := by
    rw [List.any_eq_false]
    intro r hr'
    simp [(h.returned r (named r hr')).2]
  have h2 : refused s c.core c.g (unitsDue s c i) = false := by
    unfold refused unitsDue
    by_cases hch : charged = true
    · rcases h.budget hch with hb | hb
      · have : (c.g.exempt == 0) = false := by simpa using hb
        simp [this]
      · have : ¬ budgetValue s c.core ≤ (coreOf s c.core).charge := by omega
        simp [this]
    · rcases hu with hu | hu
      · exact absurd hu hch
      · simp [hu]
  have h4 : c.latch.isEmpty = true → shortQueue c.g (i.srcs.flatMap Opnd.pops) = none := by
    intro he
    rcases h.queues with hq | hq
    · exact absurd (by simpa using he) hq
    · exact hq
  unfold operandStop
  simp only [h1, h1', h2, List.isEmpty_nil, Bool.not_true, Bool.false_eq_true, if_false]
  have h3 : ∀ more, more = (if c.mask = 0 then 0 else newRows c.g (i.dst.rows ++ i.dstRows)) →
      (more = 0 ∨ (c.g.vregs.length + more ≤ peakRows s c.g ∧ (c.g.super = true ∨ rowsFit s c.core c.g.block more = true))) := by
    intro more hm
    rw [hr] at hm
    rcases h.room with hz | hz | hz
    · left; rw [hm]; simp [hz]
    · left; rw [hm, hz]; simp
    · by_cases hmask : c.mask = 0
      · left; rw [hm]; simp [hmask]
      · right
        have : more = newRows c.g rows := by rw [hm, if_neg hmask]
        rw [this]; exact hz
  have h3' := h3 _ rfl
  generalize (if c.mask = 0 then 0 else newRows c.g (i.dst.rows ++ i.dstRows)) = more at h3'
  have h5 : ¬ (decide (more ≠ 0) && decide (peakRows s c.g < c.g.vregs.length + more)) = true := by
    rcases h3' with h | ⟨h, _⟩
    · simp [h]
    · have : ¬ peakRows s c.g < c.g.vregs.length + more := by omega
      simp [this]
  have h6 : ¬ (decide (more ≠ 0) && !c.g.super && !rowsFit s c.core c.g.block more) = true := by
    rcases h3' with h | ⟨_, h | h⟩ <;> simp [h]
  simp only [h5, h6]
  by_cases he : c.latch.isEmpty = true
  · simp [h4 he]
  · simp [he]

/-- An instruction that meets no break and no trap goes on to its own effect. -/
theorem issue_next {s : State} {i : Spec} {c : Ctx} (body : Ctx → State → Res) (h : issueCtx s i.pred i.neg = some c)
    (hs : c.r.start < 64) (hp : preTrap s c i = none) (ho : operandStop s c i = none) :
    issue s i body = .next (settle (issued s c i).2 i (body (issued s c i).2 (issued s c i).1)) := by
  have : ¬ 64 ≤ c.r.start := by omega
  simp [issue, h, this, hp, ho]

end Sys2Proof.Machine
end

