-- ==== Sys2Proof/Laws/Complete.lean ====
section
/-! SUPPORT. What an instruction's completion does to its group, and that a lane operation completes with its results. -/

namespace Sys2Proof.Machine

/-! ### Lanes and rows -/

theorem laneAt_mapLanes (g : Group) (f : Nat → Lane → Lane) (l : Nat) :
    laneAt (mapLanes g f) l = if l < g.lanes.length then f l (laneAt g l) else laneAt g l := by
  unfold laneAt mapLanes
  by_cases h : l < g.lanes.length
  · simp [h, laneAt]
  · simp [h]

@[simp] theorem length_mapLanes (g : Group) (f : Nat → Lane → Lane) : (mapLanes g f).lanes.length = g.lanes.length := by
  simp [mapLanes]

theorem vreg_unmapRow (g : Group) (m n : Nat) : vreg (unmapRow g m) n = if n = m then 0 else vreg g n := by
  unfold vreg unmapRow mgetD
  split
  · rename_i h; subst h; simp
  · rename_i h; rw [mget_mdel_ne _ (Ne.symm h)]

theorem unmapRows_spec (fs : List Nat) (g : Group) : ∃ v, fs.foldl unmapRow g = { g with vregs := v } ∧
    ∀ n, mgetD v n 0 = if n ∈ fs then 0 else vreg g n := by
  induction fs generalizing g with
  | nil => exact ⟨g.vregs, rfl, fun n => by simp [vreg]⟩
  | cons f fs ih =>
    obtain ⟨v, h, hv⟩ := ih (unmapRow g f)
    refine ⟨v, by rw [List.foldl_cons, h]; rfl, fun n => ?_⟩
    rw [hv n, vreg_unmapRow]
    by_cases h1 : n ∈ fs <;> by_cases h2 : n = f <;> simp [h1, h2]

/-- The group after its instruction has completed: flagged rows gone, the latch empty, its run advanced. -/
def afterComplete (g : Group) (next : Word64) (n : Nat) (frees keep : List Nat) : Group :=
  let g := (frees.filter (fun f => !keep.contains f)).foldl unmapRow g
  { g with
    latch := [], parkFail := false, fetchFail := none, peerWait := none, walked := none, parkHist := none, paid := false
    run := g.run.map (fun r => { r with pc := next, count := r.count + n, start := 0, pre := none }) }

theorem afterComplete_vreg (g : Group) (next : Word64) (n : Nat) (frees keep : List Nat) (j : Nat) :
    vreg (afterComplete g next n frees keep) j = if j ∈ frees ∧ j ∉ keep then 0 else vreg g j := by
  obtain ⟨v, h, hv⟩ := unmapRows_spec (frees.filter (fun f => !keep.contains f)) g
  unfold afterComplete vreg
  simp only [h]
  rw [hv j]
  simp [vreg]

theorem afterComplete_eq (g : Group) (next : Word64) (n : Nat) (frees keep : List Nat) :
    ∃ v, afterComplete g next n frees keep = { g with
      vregs := v, latch := [], parkFail := false, fetchFail := none, peerWait := none, walked := none, parkHist := none, paid := false
      run := g.run.map (fun r => { r with pc := next, count := r.count + n, start := 0, pre := none }) } := by
  obtain ⟨v, h, _⟩ := unmapRows_spec (frees.filter (fun f => !keep.contains f)) g
  exact ⟨v, by unfold afterComplete; simp only [h]⟩

/-- The group after the end of its run: active lanes at `a` where one is given. -/
def afterEnd (g : Group) (r : Run) (move : Option Word64) (now : Nat) : Group :=
  let g := match move with
    | some a => mapLanes g (fun l x => if inMask r.active l then { x with pc := a } else x)
    | none => g
  { { g with run := none } with status := .ready, since := now }

theorem leaveSlot_onlyGroup (s : State) (k : Nat) (st : GStatus) : OnlyGroup s (leaveSlot s k st) k :=
  OnlyGroup.trans ((Ticked.updCore s (keyCore k) _).onlyGroup k) (OnlyGroup.updGroup _ k _)

/-- Completion changes a group as `afterComplete` says, ends its run where E says so, and changes nothing else. -/
theorem complete_spec {s : State} {k : Nat} {g : Group} {r : Run} (next : Word64) (e transfer : Bool) (n : Nat)
    (frees keep : List Nat) (hg : groupOf s k = some g) (hr : g.run = some r) :
    OnlyGroup s (complete s k next e transfer n frees keep) k ∧
    ∃ now, groupOf (complete s k next e transfer n frees keep) k = some
      (if e then afterEnd (afterComplete g next n frees keep)
        { r with pc := next, count := r.count + n, start := 0, pre := none } (if transfer then none else some next) now
       else afterComplete g next n frees keep) := by
  let s1 := countPerf s (keyCore k) 0x02 n
  let s2 := updGroup s1 k (fun g => afterComplete g next n frees keep)
  have e1 : complete s k next e transfer n frees keep = if e then endRun s2 k (if transfer then none else some next) else s2 := rfl
  have o2 : OnlyGroup s s2 k := ((Ticked.countPerf s (keyCore k) 0x02 n).onlyGroup k).trans (.updGroup _ _ _)
  have g2 : groupOf s2 k = some (afterComplete g next n frees keep) := by
    show groupOf (updGroup s1 k _) k = _
    rw [groupOf_updGroup_self, groupOf_countPerf, hg]
    rfl
  have r2 : (afterComplete g next n frees keep).run = some { r with pc := next, count := r.count + n, start := 0, pre := none } := by
    obtain ⟨v, hv⟩ := afterComplete_eq g next n frees keep
    rw [hv]; simp [hr]
  rw [e1]
  cases e with
  | false => exact ⟨o2, 0, g2⟩
  | true =>
    simp only [if_true]
    refine ⟨o2.trans ?_, ?_⟩
    · exact OnlyGroup.trans (OnlyGroup.updGroup s2 k _) (leaveSlot_onlyGroup _ k _)
    · obtain ⟨now, h⟩ : ∃ now, groupOf (endRun s2 k (if transfer then none else some next)) k =
          (groupOf (updGroup s2 k (fun g =>
            match g.run with
            | none => g
            | some r =>
              { (match (if transfer then none else some next) with
                | some a => mapLanes g (fun l x => if inMask r.active l then { x with pc := a } else x)
                | none => g) with run := none })) k).map (fun g => { g with status := .ready, since := now }) := by
        unfold endRun leaveSlot
        simp only [groupOf_updGroup_self, groupOf_updCore]
        exact ⟨_, rfl⟩
      refine ⟨now, ?_⟩
      rw [h, groupOf_updGroup_self, g2]
      simp only [Option.map_some, r2]
      cases transfer <;> rfl

/-- A group after completion, against the group at its beginning: what `Done` asks. -/
theorem completed {s s1 : State} {c : Ctx} {g2 : Group} {rows scalars preds : List Nat} (e : Bool) (frees keep : List Nat)
    (ho : OnlyGroup s s1 c.key) (hg : groupOf s1 c.key = some g2) (hr : g2.run = some c.r) (hl : g2.lanes = c.g.lanes)
    (hk : Kept c.g g2 rows scalars preds) :
    ∃ g', groupOf (complete s1 c.key c.next e false 1 frees keep) c.key = some g' ∧
      OnlyGroup s (complete s1 c.key c.next e false 1 frees keep) c.key ∧
      Kept c.g g' (rows ++ frees) scalars preds ∧ GoesOn c e g' ∧
      (∀ j, vreg g' j = if j ∈ frees ∧ j ∉ keep then 0 else vreg g2 j) ∧ (∀ j, sreg g' j = sreg g2 j) ∧
      (∀ j, preg g' j = preg g2 j) ∧ (∀ q, queueAt g' q = queueAt g2 q) ∧ g'.frnd = g2.frnd := by
  obtain ⟨ho', now, hg'⟩ := complete_spec c.next e false 1 frees keep hg hr
  have hvreg := afterComplete_vreg g2 c.next 1 frees keep
  obtain ⟨v, hv⟩ := afterComplete_eq g2 c.next 1 frees keep
  generalize afterComplete g2 c.next 1 frees keep = ga at *
  have hkeep : ∀ g' : Group, (∀ j, vreg g' j = vreg ga j) → g'.sregs = g2.sregs → g'.preds = g2.preds →
      (g'.lanes.length = c.g.lanes.length ∧ ∀ l, (laneAt g' l).live = (laneAt c.g l).live ∧ (laneAt g' l).meet = (laneAt c.g l).meet) →
      g'.refs = g2.refs → g'.awaiting = g2.awaiting → g'.pendingOrd = g2.pendingOrd →
      g'.block = g2.block → g'.index = g2.index → g'.width = g2.width → g'.super = g2.super →
      g'.trap = g2.trap → g'.trap2 = g2.trap2 → g'.handler = g2.handler →
      Kept c.g g' (rows ++ frees) scalars preds := by
    intro g' h1 h2 h3 h4 h5 h6 h7 h8 h9 h10 h11 h12 h13 h14
    refine ⟨fun n hn => ?_, fun n hn => ?_, fun n hn => ?_, h4, by rw [h5, hk.refs], ⟨by rw [h6, hk.pending.1], by rw [h7, hk.pending.2]⟩,
      ⟨by rw [h8, hk.who.1], by rw [h9, hk.who.2.1], by rw [h10, hk.who.2.2.1], by rw [h11, hk.who.2.2.2]⟩,
      ⟨by rw [h12, hk.traps.1], by rw [h13, hk.traps.2.1], by rw [h14, hk.traps.2.2]⟩⟩
    · rw [h1, hvreg, if_neg (fun h => hn (List.mem_append_right _ h.1)), hk.vregs n (fun h => hn (List.mem_append_left _ h))]
    · unfold sreg; rw [h2]; exact hk.sregs n hn
    · unfold preg; rw [h3]; exact hk.preds n hn
  cases e with
  | false =>
    simp only [Bool.false_eq_true, if_false] at hg'
    refine ⟨ga, hg', ho.trans ho', ?_, ?_, hvreg, ?_⟩
    · refine hkeep ga (fun _ => rfl) ?_ ?_ ?_ ?_ ?_ ?_ ?_ ?_ ?_ ?_ ?_ ?_ ?_ <;> rw [hv]
      exact ⟨by rw [hl], fun l => by unfold laneAt; rw [hl]; exact ⟨rfl, rfl⟩⟩
    · unfold GoesOn
      simp only [Bool.false_eq_true, if_false]
      refine ⟨by rw [hv]; simp [hr], fun l => ?_⟩
      rw [hv]; unfold laneAt; rw [hl]
    · refine ⟨fun j => ?_, fun j => ?_, fun q => ?_, ?_⟩ <;> rw [hv] <;> rfl
  | true =>
    simp only [if_true, Bool.false_eq_true, if_false] at hg'
    have hlanes : ∀ l, laneAt (afterEnd ga { c.r with pc := c.next, count := c.r.count + 1, start := 0, pre := none } (some c.next) now) l =
        if l < c.g.lanes.length then (if inMask c.r.active l then { laneAt c.g l with pc := c.next } else laneAt c.g l) else laneAt c.g l := by
      intro l
      have e1 : laneAt (afterEnd ga { c.r with pc := c.next, count := c.r.count + 1, start := 0, pre := none } (some c.next) now) l =
        laneAt (mapLanes ga (fun l x => if inMask c.r.active l then { x with pc := c.next } else x)) l := rfl
      have e2 : ga.lanes = c.g.lanes := by rw [hv]; exact hl
      rw [e1, laneAt_mapLanes]
      unfold laneAt
      rw [e2]
    have hlen : (afterEnd ga { c.r with pc := c.next, count := c.r.count + 1, start := 0, pre := none } (some c.next) now).lanes.length =
        c.g.lanes.length := by
      have e2 : ga.lanes = c.g.lanes := by rw [hv]; exact hl
      rw [← e2]
      exact length_mapLanes ga _
    refine ⟨_, hg', ho.trans ho', ?_, ?_, hvreg, ?_⟩
    · refine hkeep _ (fun _ => rfl) ?_ ?_ ?_ ?_ ?_ ?_ ?_ ?_ ?_ ?_ ?_ ?_ ?_
      · rw [hv]; rfl
      · rw [hv]; rfl
      · refine ⟨hlen, fun l => ?_⟩
        rw [hlanes]
        split
        · split <;> exact ⟨rfl, rfl⟩
        · exact ⟨rfl, rfl⟩
      all_goals rw [hv]; rfl
    · unfold GoesOn
      simp only [if_true]
      refine ⟨rfl, rfl, fun l h => ?_⟩
      show (laneAt (afterEnd ga { c.r with pc := c.next, count := c.r.count + 1, start := 0, pre := none } (some c.next) now) l).pc = _
      rw [hlanes, if_pos h]
      split <;> rfl
    · refine ⟨fun j => ?_, fun j => ?_, fun q => ?_, ?_⟩ <;> rw [hv] <;> rfl

/-- A group against another whose instruction completed: its rows but those freed, its other registers, queues and FRND. -/
structure Ended (g g' : Group) (frees keep : List Nat) : Prop where
  vregs : ∀ j, vreg g' j = if j ∈ frees ∧ j ∉ keep then 0 else vreg g j
  sregs : ∀ j, sreg g' j = sreg g j
  preds : ∀ j, preg g' j = preg g j
  queues : ∀ q, queueAt g' q = queueAt g q
  frnd : g'.frnd = g.frnd

/-- The group an instruction's effect begins with: its queues popped, its exemption drawn on. -/
structure Begun (s : State) (c : Ctx) (srcs : List Opnd) (s1 : State) (g1 : Group) : Prop where
  only : OnlyGroup s s1 c.key
  group : groupOf s1 c.key = some g1
  shape : ∃ qu la x m, g1 = { c.g with queues := qu, latch := la, exempt := x, mctx := m }
  popped : Popped c (srcs.flatMap Opnd.pops) g1
  vals : ∀ os l, os.flatMap Opnd.pops = srcs.flatMap Opnd.pops → opndVals g1 g1.latch os l = c.vals os l

/-- A ready instruction whose effect writes registers of its group only completes. -/
theorem body_done {s : State} {c : Ctx} {i : Instr} {spec : Spec} {body : Ctx → State → Res} {charged : Bool}
    {others : List AReg} {rows scalars preds : List Nat} {Q : Group → Prop}
    (hx : exec i s = issue s spec body) (hc : issueCtx s spec.pred spec.neg = some c) (ht : spec.transfer = false)
    (hp : spec.priv = true → privileged s c.g = true) (hq : spec.queueDst = false) (hown : spec.own = none)
    (hready : Ready s c charged spec.srcs others (spec.dst.rows ++ spec.dstRows))
    (hcharge : charged = true ∨ ∀ k n, spec.charge k n = 0)
    (hreads : ∀ r ∈ spec.reads ++ spec.dst.regs, r ∈ others ∨ r ∈ (spec.dst.rows ++ spec.dstRows).map AReg.v)
    (hbody : ∀ s1 g1, Begun s c spec.srcs s1 g1 → ∃ s2 g2, body { c with g := g1, latch := g1.latch } s1 = .ok (setGroup s2 c.key g2) ∧
      OnlyGroup s1 s2 c.key ∧ g2.run = some c.r ∧ g2.lanes = c.g.lanes ∧ Kept c.g g2 rows scalars preds ∧
      ∀ g', Ended g2 g' (spec.srcs.flatMap Opnd.frees ++ spec.freeRows) (spec.dst.rows ++ spec.dstRows) → Q g') :
    Completes i s (fun t => Done s t c spec.e (rows ++ (spec.srcs.flatMap Opnd.frees ++ spec.freeRows)) scalars preds Q) := by
  obtain ⟨gs, cs, bs, ag, g1, e1, hg1, hc1, hshape, hpop, honly, hvals⟩ := issued_spec hc spec
  have hpre : preTrap s c spec = none := preTrap_none hready.count (by simp [ht]) hp hq hown
  have hop : operandStop s c spec = none := operandStop_none hready rfl hcharge hreads
  have hi := issue_next body hc hready.start hpre hop
  generalize (issued s c spec).1 = s1 at *
  rw [hc1] at hi
  obtain ⟨s2, g2, h1, h2, h3, h4, h5, h6⟩ := hbody s1 g1 ⟨honly, hg1, hshape, hpop, hvals⟩
  rw [h1] at hi
  obtain ⟨g', k1, k2, k3, k4, k5, k6, k7, k8, k9⟩ := completed (s := s) spec.e (spec.srcs.flatMap Opnd.frees ++ spec.freeRows)
    (spec.dst.rows ++ spec.dstRows) ((honly.trans h2).trans (.setGroup s2 c.key g2)) (groupOf_setGroup_self s2 c.key g2) h3 h4 h5
  exact ⟨_, by rw [hx]; exact hi, g', by simpa [settle, ht] using k1, by simpa [settle, ht] using k2, k3, k4,
    h6 g' ⟨k5, k6, k7, k8, k9⟩⟩

end Sys2Proof.Machine
end

