-- ==== Sys2Proof/Laws/LaneOps.lean ====
section
/-! SUPPORT. A lane operation that meets no break and no trap completes with its results in its destination. -/

namespace Sys2Proof.Machine

theorem mget_map_self {β : Type} (f : Nat → β) (ls : List Nat) (l : Nat) (h : l ∈ ls) :
    mget (ls.map (fun l => (l, f l))) l = some (f l) := by
  induction ls with
  | nil => cases h
  | cons a ls ih =>
    by_cases ha : a = l
    · subst ha; simp [mget]
    · have : l ∈ ls := by
        rcases List.mem_cons.mp h with h | h
        · exact absurd h.symm ha
        · exact h
      simp [mget, ha, ih this]

theorem trapping_none {g : Group} {res : List (Nat × (Nat × Nat))} (h : ∀ e ∈ res, e.2.2 &&& g.frnd.ten.toNat = 0) :
    trapping g res = none := by
  unfold trapping
  rw [Option.map_eq_none_iff, List.find?_eq_none]
  intro e he
  simp [h e he]

@[simp] theorem inMask_zero (l : Nat) : inMask 0#64 l = false := by simp [inMask]

theorem vreg_setVreg (g : Group) (n m : Nat) (r : Row) : vreg (setVreg g n r) m = if n = m then r else vreg g m := by
  unfold vreg setVreg
  by_cases h : n = m
  · subst h; simp
  · simp [h, mgetD_mset_ne]

theorem nget_nset (m : List (Nat × Nat)) (k j v : Nat) : nget (nset m k v) j = if k = j then v else nget m j := by
  unfold nget nset mgetD
  by_cases h : k = j
  · subst h
    by_cases hv : v = 0
    · simp [hv]
    · simp [hv]
  · by_cases hv : v = 0
    · simp [hv, h, mget_mdel_ne]
    · simp [hv, h, mget_mset_ne]

theorem sreg_setSreg (g : Group) (n m v : Nat) : sreg (setSreg g n v) m = if n = m then v % 2 ^ 64 else sreg g m := by
  unfold sreg setSreg
  rw [nget_nset]
  split
  · exact Nat.mod_mod _ _
  · rfl

theorem preg_setPreg (g : Group) (n m : Nat) (v : LaneMask) :
    preg (setPreg g n v) m = if n = m ∧ n ≠ 0 then v else preg g m := by
  unfold setPreg
  by_cases hn : n = 0
  · simp [hn]
  · unfold preg
    by_cases hm : m = 0
    · simp [hm, hn]
    · by_cases h : n = m
      · subst h
        simp [hn, nget_nset, w64]
      · simp [hn, hm, h, nget_nset]

theorem setPreg_shape (g : Group) (n : Nat) (v : LaneMask) : ∃ pr, setPreg g n v = { g with preds := pr } := by
  unfold setPreg
  split
  · exact ⟨g.preds, rfl⟩
  · exact ⟨_, rfl⟩
theorem setSreg_shape (g : Group) (n v : Nat) : ∃ sr, setSreg g n v = { g with sregs := sr } := ⟨_, rfl⟩
theorem writeLanes_shape (g : Group) (n : Nat) (m : LaneMask) (f : Nat → Word) :
    ∃ v, writeLanes g n m f = { g with vregs := v } := ⟨_, rfl⟩
@[simp] theorem vreg_setPreg (g : Group) (n j : Nat) (v : LaneMask) : vreg (setPreg g n v) j = vreg g j := by
  obtain ⟨pr, h⟩ := setPreg_shape g n v
  rw [h]; rfl
@[simp] theorem sreg_setPreg (g : Group) (n j : Nat) (v : LaneMask) : sreg (setPreg g n v) j = sreg g j := by
  obtain ⟨pr, h⟩ := setPreg_shape g n v
  rw [h]; rfl
@[simp] theorem sreg_writeLanes (g : Group) (n j : Nat) (m : LaneMask) (f : Nat → Word) : sreg (writeLanes g n m f) j = sreg g j := rfl
@[simp] theorem preg_writeLanes (g : Group) (n j : Nat) (m : LaneMask) (f : Nat → Word) : preg (writeLanes g n m f) j = preg g j := rfl
@[simp] theorem vreg_setSreg (g : Group) (n j v : Nat) : vreg (setSreg g n v) j = vreg g j := rfl
@[simp] theorem preg_setSreg (g : Group) (n j v : Nat) : preg (setSreg g n v) j = preg g j := rfl
theorem vreg_writeLanes (g : Group) (n j : Nat) (m : LaneMask) (f : Nat → Word) :
    vreg (writeLanes g n m f) j = if n = j then blendRow m f (vreg g n) else vreg g j := vreg_setVreg ..

/-- What a destination holds after results were written in a mask. -/
def Held (g g' : Group) (d : DestReg) (m : LaneMask) (val : Nat → Nat) : Prop :=
  match d with
  | .none => True
  | .s n => m ≠ 0 → sreg g' n = val 0 % 2 ^ 64
  | .v n false => ∀ l, l < 64 → laneOf (vreg g' n) l = if inMask m l then w32 (val l) else laneOf (vreg g n) l
  | .v n true => ∀ l, l < 64 →
      laneOf (vreg g' n) l = (if inMask m l then w32 (val l) else laneOf (vreg g n) l) ∧
      laneOf (vreg g' (n + 1)) l = if inMask m l then w32 (val l / 2 ^ 32) else laneOf (vreg g (n + 1)) l
  | .p n => n ≠ 0 → ∀ l, l < 64 → inMask (preg g' n) l = if inMask m l then val l % 2 == 1 else inMask (preg g n) l

/-- What writing a lane operation's results leaves and what it puts into its destination. -/
structure Written (g g' : Group) (d : DestReg) (m : LaneMask) (val : Nat → Nat) : Prop where
  shape : ∃ v sr pr, g' = { g with vregs := v, sregs := sr, preds := pr }
  vregs : ∀ n, n ∉ d.rows → vreg g' n = vreg g n
  sregs : ∀ n, n ∉ d.scalars → sreg g' n = sreg g n
  preds : ∀ n, n ∉ d.preds → preg g' n = preg g n
  holds : Held g g' d m val

theorem writeResults_spec (g : Group) (d : DestReg) (m : LaneMask) (res : List (Nat × (Nat × Nat))) :
    Written g (writeResults g d m res) d m (fun l => (mgetD res l (0, 0)).1) := by
  suffices h : ∀ val : Nat → Nat, Written g (if m = 0 then g else
      match d with
      | .none => g
      | .v n false => writeLanes g n m (fun l => w32 (val l))
      | .v n true => writeLanes (writeLanes g n m (fun l => w32 (val l))) (n + 1) m (fun l => w32 (val l / 2 ^ 32))
      | .s n => setSreg g n (val 0)
      | .p n => setPreg g n (maskOf (fun l => if inMask m l then val l % 2 == 1 else inMask (preg g n) l))) d m val from h _
  intro val
  by_cases hm : m = 0
  · rw [if_pos hm]
    refine ⟨⟨_, _, _, rfl⟩, fun _ _ => rfl, fun _ _ => rfl, fun _ _ => rfl, ?_⟩
    subst hm
    cases d with
    | none => trivial
    | s n => exact fun h => absurd rfl h
    | v n w => cases w <;> simp [Held]
    | p n => simp [Held]
  · rw [if_neg hm]
    cases d with
    | none => exact ⟨⟨_, _, _, rfl⟩, fun _ _ => rfl, fun _ _ => rfl, fun _ _ => rfl, trivial⟩
    | s n =>
      refine ⟨?_, fun _ _ => vreg_setSreg .., fun j hj => ?_, fun _ _ => preg_setSreg .., fun _ => ?_⟩
      · obtain ⟨sr, h⟩ := setSreg_shape g n (val 0)
        exact ⟨_, _, _, h⟩
      · have : n ≠ j := fun h => hj (by simp [DestReg.scalars, h])
        simp [sreg_setSreg, this]
      · simp [sreg_setSreg]
    | v n w =>
      cases w with
      | false =>
        refine ⟨?_, fun j hj => ?_, fun _ _ => sreg_writeLanes .., fun _ _ => preg_writeLanes .., fun l hl => ?_⟩
        · obtain ⟨v, h⟩ := writeLanes_shape g n m (fun l => w32 (val l))
          exact ⟨_, _, _, h⟩
        · have : n ≠ j := fun h => hj (by simp [DestReg.rows, h])
          simp [vreg_writeLanes, this]
        · simp [vreg_writeLanes, laneOf_blendRow _ _ _ _ hl]
      | true =>
        refine ⟨?_, fun j hj => ?_, fun _ _ => ?_, fun _ _ => ?_, fun l hl => ⟨?_, ?_⟩⟩
        · obtain ⟨v, h⟩ := writeLanes_shape g n m (fun l => w32 (val l))
          obtain ⟨v', h'⟩ := writeLanes_shape (writeLanes g n m (fun l => w32 (val l))) (n + 1) m (fun l => w32 (val l / 2 ^ 32))
          refine ⟨v', g.sregs, g.preds, ?_⟩
          dsimp only
          rw [h', h]
        · have h1 : n ≠ j := fun h => hj (by simp [DestReg.rows, h])
          have h2 : n + 1 ≠ j := fun h => hj (by simp [DestReg.rows, h])
          simp [vreg_writeLanes, h1, h2]
        · simp
        · simp
        · simp [vreg_writeLanes, laneOf_blendRow _ _ _ _ hl]
        · simp [vreg_writeLanes, laneOf_blendRow _ _ _ _ hl]
    | p n =>
      refine ⟨?_, fun j _ => vreg_setPreg .., fun j _ => sreg_setPreg .., fun j hj => ?_, fun hn l hl => ?_⟩
      · obtain ⟨pr, h⟩ := setPreg_shape g n (maskOf (fun l => if inMask m l then val l % 2 == 1 else inMask (preg g n) l))
        exact ⟨_, _, _, h⟩
      · have : n ≠ j := fun h => hj (by simp [DestReg.preds, h])
        simp [preg_setPreg, this]
      · simp [preg_setPreg, hn, inMask_maskOf _ _ hl]

/-- What a lane operation needs of its description: nothing but its operands, its destination and no trap of its own. -/
structure LaneOp.Plain (o : LaneOp) : Prop where
  transfer : o.spec.transfer = false
  priv : o.spec.priv = false
  queueDst : o.spec.queueDst = false
  own : o.spec.own = none
  dstRows : o.spec.dstRows = []
  freeRows : o.spec.freeRows = []

theorem firstMask_ne (c : Ctx) (h : c.r.active ≠ 0) : c.firstMask ≠ 0 := by
  unfold Ctx.firstMask
  split
  · split
    · exact h
    · assumption
  · assumption

/-- A ready lane operation none of whose results traps completes: its destination holds its results, flagged rows are gone, its
queues are popped, FRND takes its exceptions and one step where it rounds stochastically. -/
theorem lane_done {s : State} {c : Ctx} {i : Instr} (o : LaneOp) {charged : Bool} (f : Ctx → State → State)
    (hf : ∀ k s, Ticked s (f k s)) (hx : exec i s = issue s o.spec (fun k s => laneBody o k (f k s))) (hc : issueCtx s o.spec.pred o.spec.neg = some c) (hp : o.Plain)
    (hready : Ready s c charged o.spec.srcs (o.spec.reads ++ o.spec.dst.regs) o.spec.dst.rows)
    (hcharge : charged = true ∨ ∀ k n, o.spec.charge k n = 0)
    (hsame : ∀ qu la x m, o.result { c.g with queues := qu, latch := la, exempt := x, mctx := m } = o.result c.g)
    (hquiet : ∀ l ∈ opLanes o c.mask, (o.result c.g l (c.vals o.spec.srcs l)).2 &&& c.g.frnd.ten.toNat = 0) :
    Completes i s (fun t => Done s t c o.spec.e (o.spec.dst.rows ++ o.spec.srcs.flatMap Opnd.frees) o.spec.dst.scalars
      o.spec.dst.preds (fun g' =>
        Holds c g' o.spec.dst (fun l => (o.result c.g l (c.vals o.spec.srcs l)).1) ∧
        (∀ n ∈ o.spec.srcs.flatMap Opnd.frees, n ∉ o.spec.dst.rows → vreg g' n = 0) ∧
        Popped c (o.spec.srcs.flatMap Opnd.pops) g' ∧
        g'.frnd = { c.g.frnd with
          flg := c.g.frnd.flg ||| BitVec.ofNat 5 (flagsUpTo ((opLanes o c.mask).map (fun l =>
            (l, o.result c.g l (c.vals o.spec.srcs l)))) 64)
          scnt := c.g.frnd.scnt + if o.rs then 1 else 0 })) := by
  have key := body_done (rows := o.spec.dst.rows) (scalars := o.spec.dst.scalars) (preds := o.spec.dst.preds) (Q := fun g' =>
        Holds c g' o.spec.dst (fun l => (o.result c.g l (c.vals o.spec.srcs l)).1) ∧
        (∀ n ∈ o.spec.srcs.flatMap Opnd.frees, n ∉ o.spec.dst.rows → vreg g' n = 0) ∧
        Popped c (o.spec.srcs.flatMap Opnd.pops) g' ∧
        g'.frnd = { c.g.frnd with
          flg := c.g.frnd.flg ||| BitVec.ofNat 5 (flagsUpTo ((opLanes o c.mask).map (fun l =>
            (l, o.result c.g l (c.vals o.spec.srcs l)))) 64)
          scnt := c.g.frnd.scnt + if o.rs then 1 else 0 }) hx hc hp.transfer (by simp [hp.priv]) hp.queueDst hp.own
    (by rw [hp.dstRows, List.append_nil]; exact hready) hcharge (fun r hr => .inl hr) ?_
  · rw [hp.freeRows, List.append_nil] at key
    exact key
  rintro s1 g1 ⟨-, hg1, ⟨qu, la, x, m, hq⟩, hpop, hvals⟩
  rw [hp.freeRows, hp.dstRows, List.append_nil, List.append_nil]
  -- the results
  have hres : laneResults g1 g1.latch o (opLanes o c.mask) =
      (opLanes o c.mask).map (fun l => (l, o.result c.g l (c.vals o.spec.srcs l))) := by
    unfold laneResults
    apply List.map_congr_left
    intro l _
    rw [hvals o.spec.srcs l rfl]
    conv => lhs; rw [hq]
    rw [hsame]
  have htr : trapping g1 (laneResults g1 g1.latch o (opLanes o c.mask)) = none := by
    rw [hres]
    apply trapping_none
    intro e he
    obtain ⟨l, hl, rfl⟩ := List.mem_map.mp he
    have : g1.frnd = c.g.frnd := by rw [hq]
    rw [this]
    exact hquiet l hl
  generalize hrs : laneResults g1 g1.latch o (opLanes o c.mask) = res at *
  let w := writeResults g1 o.spec.dst (if o.spec.dst.isS then c.firstMask else c.mask) res
  let g2 := if o.rs then addScnt (raiseFlags w (flagsUpTo res 64)) 1 else raiseFlags w (flagsUpTo res 64)
  obtain ⟨s2, hs2, ho2⟩ : ∃ s2, laneBody o { c with g := g1, latch := g1.latch } (f { c with g := g1, latch := g1.latch } s1) =
      .ok (setGroup s2 c.key g2) ∧ OnlyGroup s1 s2 c.key := by
    unfold laneBody
    simp only [hrs, htr]
    refine ⟨_, rfl, ?_⟩
    split
    · exact ((hf _ _).trans (Ticked.countPerf _ _ _ _)).onlyGroup _
    · exact ((hf _ _).trans ((Ticked.countPerf _ _ _ _).trans (Ticked.countPerf _ _ _ _))).onlyGroup _
  have hw := writeResults_spec g1 o.spec.dst (if o.spec.dst.isS then c.firstMask else c.mask) res
  change Written g1 w _ _ _ at hw
  obtain ⟨vr, sr, pr, hshape⟩ := hw.shape
  have hg2 : ∃ f, g2 = { w with frnd := f } ∧ f = { c.g.frnd with
      flg := c.g.frnd.flg ||| BitVec.ofNat 5 (flagsUpTo res 64), scnt := c.g.frnd.scnt + if o.rs then 1 else 0 } := by
    have hw' : w.frnd = c.g.frnd := by rw [hshape, hq]
    simp only [g2, raiseFlags, addScnt]
    by_cases hr : o.rs = true
    · rw [if_pos hr]
      exact ⟨_, rfl, by rw [hw', if_pos hr]; rfl⟩
    · rw [if_neg hr]
      exact ⟨_, rfl, by rw [hw', if_neg hr]; simp⟩
  obtain ⟨fr, hg2, hfr⟩ := hg2
  have hrun : g2.run = some c.r := by
    rw [hg2, hshape, hq]
    exact (issueCtx_group hc).2.1
  have hv2 : ∀ n, vreg g2 n = vreg w n := fun n => by rw [hg2]; rfl
  have hsr2 : ∀ n, sreg g2 n = sreg w n := fun n => by rw [hg2]; rfl
  have hp2 : ∀ n, preg g2 n = preg w n := fun n => by rw [hg2]; rfl
  have hv1 : ∀ n, vreg g1 n = vreg c.g n := fun n => by rw [hq]; rfl
  have hsr1 : ∀ n, sreg g1 n = sreg c.g n := fun n => by rw [hq]; rfl
  have hp1 : ∀ n, preg g1 n = preg c.g n := fun n => by rw [hq]; rfl
  have hkept : Kept c.g g2 o.spec.dst.rows o.spec.dst.scalars o.spec.dst.preds := by
    refine ⟨fun n hn => by rw [hv2, hw.vregs n hn, hv1], fun n hn => by rw [hsr2, hw.sregs n hn, hsr1],
      fun n hn => by rw [hp2, hw.preds n hn, hp1], ?_, ?_, ?_, ?_, ?_⟩ <;> rw [hg2, hshape, hq]
    · exact ⟨rfl, fun _ => ⟨rfl, rfl⟩⟩
    · exact ⟨rfl, rfl⟩
    · exact ⟨rfl, rfl, rfl, rfl⟩
    · exact ⟨rfl, rfl, rfl⟩
  refine ⟨s2, g2, hs2, ho2, hrun, by rw [hg2, hshape, hq], hkept, ?_⟩
  rintro g' ⟨k5, k6, k7, k8, k9⟩
  refine ⟨?_, ?_, ?_, ?_⟩
  · have hd : ∀ n ∈ o.spec.dst.rows, vreg g' n = vreg w n := fun n hn => by rw [k5, if_neg (fun h => h.2 hn), hv2]
    have hval : ∀ l ∈ opLanes o c.mask, (mgetD res l (0, 0)).1 = (o.result c.g l (c.vals o.spec.srcs l)).1 := by
      intro l hl
      rw [hres]
      unfold mgetD
      rw [mget_map_self _ _ _ hl]
      rfl
    have hlanes : o.spec.dst.isS = false → ∀ l, inMask c.mask l = true → l ∈ opLanes o c.mask := by
      intro h l hl
      unfold opLanes
      rw [h]
      exact (mem_laneList _ _).mpr hl
    have hh := hw.holds
    unfold Holds
    cases hdst : o.spec.dst with
    | none => trivial
    | s n =>
      rw [hdst] at hh
      simp only [Held, DestReg.isS, if_true] at hh ⊢
      rw [k6, hsr2, hh (firstMask_ne c hready.active), hval 0 (by simp [opLanes, hdst, DestReg.isS])]
    | v n wd =>
      cases wd with
      | false =>
        rw [hdst] at hh
        simp only [Held, DestReg.isS, Bool.false_eq_true, if_false] at hh ⊢
        intro l hl
        rw [hd n (by simp [hdst, DestReg.rows]), hh l hl, hv1]
        split
        · rw [hval l (hlanes (by simp [hdst, DestReg.isS]) l ‹_›)]
        · rfl
      | true =>
        rw [hdst] at hh
        simp only [Held, DestReg.isS, Bool.false_eq_true, if_false] at hh ⊢
        intro l hl
        rw [hd n (by simp [hdst, DestReg.rows]), hd (n + 1) (by simp [hdst, DestReg.rows]), (hh l hl).1, (hh l hl).2, hv1, hv1]
        constructor
        · split
          · rw [hval l (hlanes (by simp [hdst, DestReg.isS]) l ‹_›)]
          · rfl
        · split
          · rw [hval l (hlanes (by simp [hdst, DestReg.isS]) l ‹_›)]
          · rfl
    | p n =>
      rw [hdst] at hh
      simp only [Held, DestReg.isS, Bool.false_eq_true, if_false] at hh ⊢
      intro hn l hl
      rw [k7, hp2, hh hn l hl, hp1]
      split
      · rw [hval l (hlanes (by simp [hdst, DestReg.isS]) l ‹_›)]
      · rfl
  · intro n hn hd
    rw [k5, if_pos ⟨hn, hd⟩]
  · intro q
    rw [k8]
    have : queueAt g2 q = queueAt g1 q := by rw [hg2, hshape]; rfl
    rw [this]
    exact hpop q
  · rw [k9, hg2]
    show fr = _
    rw [hfr, hres]

/-- A lane operation issues as its description for the group and its prefix says. -/
theorem issueLane_eq {s : State} {p : Nat} {n : Bool} {c : Ctx} (h : issueCtx s p n = some c) (f : Group → Option Pfx → LaneOp) :
    issueLane s f = issue s (f c.g c.pre).spec (laneBody (f c.g c.pre)) := by
  obtain ⟨m, m', h'⟩ := issueCtx_guard h 0 false
  unfold issueLane
  rw [h']

end Sys2Proof.Machine
end

