-- ==== Sys2Proof/Laws/Memory.lean ====
section
/-! SUPPORT. Memory: what a byte reads as after a write, and that every operation on cells keeps the canonical form. -/

namespace Sys2Proof.Machine

theorem memGet_memSet_ne (m : List Host.Cell) {a b : Nat} (x : Byte) (h : a ≠ b) : memGet (memSet m a x) b = memGet m b := by
  induction m with
  | nil => unfold memSet; split <;> simp [memGet, h]
  | cons c m ih =>
    obtain ⟨k, v⟩ := c
    unfold memSet
    split
    · split
      · rfl
      · simp [memGet, h]
    · split
      · rename_i hk
        subst hk
        split
        · simp [memGet, h]
        · simp [memGet, h]
      · simp [memGet, ih]

/-- The canonical form of a list with a first cell. -/
theorem wf_cons {k : Nat} {v : Byte} {m : List Host.Cell} :
    Memory.wf ((k, v) :: m) = true ↔ v ≠ 0 ∧ (∀ c ∈ m.head?, k < c.1) ∧ Memory.wf m = true := by
  cases m with
  | nil => simp [Memory.wf]
  | cons c m => obtain ⟨j, w⟩ := c; simp [Memory.wf, and_assoc]

theorem memGet_eq_zero_of_lt (m : List Host.Cell) (a : Nat) (h : Memory.wf m = true) (ha : ∀ c ∈ m.head?, a < c.1) :
    memGet m a = 0 := by
  induction m with
  | nil => rfl
  | cons c m ih =>
    obtain ⟨k, v⟩ := c
    have h' := wf_cons.mp h
    have hk : a < k := by simpa using ha
    have hn : k ≠ a := by omega
    simp only [memGet, hn, if_false]
    exact ih h'.2.2 (fun c hc => Nat.lt_trans hk (h'.2.1 c hc))

/-- A byte written is read back. -/
theorem memGet_memSet_self (m : List Host.Cell) (a : Nat) (x : Byte) (h : Memory.wf m = true) : memGet (memSet m a x) a = x := by
  induction m with
  | nil => unfold memSet; split <;> simp_all [memGet]
  | cons c m ih =>
    obtain ⟨k, v⟩ := c
    have h' := wf_cons.mp h
    unfold memSet
    split
    · rename_i hlt
      split
      · rename_i hx
        rw [hx]
        exact memGet_eq_zero_of_lt _ a h (by simpa)
      · simp [memGet]
    · split
      · rename_i hk
        subst hk
        split
        · rename_i hx
          rw [hx]
          exact memGet_eq_zero_of_lt m a h'.2.2 h'.2.1
        · simp [memGet]
      · rename_i hk
        have : k ≠ a := fun e => hk e.symm
        simp [memGet, this, ih h'.2.2]

theorem head?_memSet (m : List Host.Cell) (a : Nat) (x : Byte) (c : Host.Cell) (h : Memory.wf m = true)
    (hc : c ∈ (memSet m a x).head?) : c.1 = a ∨ ∃ d ∈ m.head?, d.1 ≤ c.1 := by
  cases m with
  | nil =>
    unfold memSet at hc
    split at hc
    · simp at hc
    · left; simp at hc; subst hc; rfl
  | cons d m =>
    obtain ⟨k, v⟩ := d
    have h' := wf_cons.mp h
    unfold memSet at hc
    split at hc
    · split at hc
      · right; simp at hc; subst hc; simp
      · left; simp at hc; subst hc; rfl
    · split at hc
      · split at hc
        · right
          refine ⟨(k, v), by simp, ?_⟩
          exact Nat.le_of_lt (h'.2.1 c hc)
        · left; simp at hc; subst hc; rfl
      · right; simp at hc; subst hc; simp

theorem wf_memSet (m : List Host.Cell) (a : Nat) (x : Byte) (h : Memory.wf m = true) : Memory.wf (memSet m a x) = true := by
  induction m with
  | nil => unfold memSet; split <;> simp_all [Memory.wf]
  | cons c m ih =>
    obtain ⟨k, v⟩ := c
    have h' := wf_cons.mp h
    unfold memSet
    split
    · rename_i hlt
      split
      · exact h
      · rename_i hx
        exact wf_cons.mpr ⟨hx, by simpa, h⟩
    · split
      · rename_i hk
        subst hk
        split
        · exact h'.2.2
        · rename_i hx
          exact wf_cons.mpr ⟨hx, h'.2.1, h'.2.2⟩
      · rename_i h1 h2
        refine wf_cons.mpr ⟨h'.1, ?_, ih h'.2.2⟩
        intro c hc
        rcases head?_memSet m a x c h'.2.2 hc with e | ⟨d, hd, hle⟩
        · omega
        · exact Nat.lt_of_lt_of_le (h'.2.1 d hd) hle

/-- Every cell of a canonical list lies above the bound its first cell lies above. -/
theorem lt_of_mem_of_wf (m : List Host.Cell) (k : Nat) (h : Memory.wf m = true) (hk : ∀ c ∈ m.head?, k < c.1) :
    ∀ c ∈ m, k < c.1 := by
  induction m with
  | nil => simp
  | cons d m ih =>
    obtain ⟨j, v⟩ := d
    have h' := wf_cons.mp h
    have hj : k < j := by simpa using hk
    intro c hc
    rcases List.mem_cons.mp hc with rfl | hc
    · exact hj
    · exact ih h'.2.2 (fun c hc => Nat.lt_trans hj (h'.2.1 c hc)) c hc

theorem wf_filter (m : List Host.Cell) (p : Host.Cell → Bool) (h : Memory.wf m = true) : Memory.wf (m.filter p) = true := by
  induction m with
  | nil => rfl
  | cons c m ih =>
    obtain ⟨k, v⟩ := c
    have h' := wf_cons.mp h
    rw [List.filter_cons]
    split
    · refine wf_cons.mpr ⟨h'.1, ?_, ih h'.2.2⟩
      intro d hd
      exact lt_of_mem_of_wf m k h'.2.2 h'.2.1 d (List.mem_filter.mp (List.mem_of_mem_head? hd)).1
    · exact ih h'.2.2

theorem wf_clearRange (m : List Host.Cell) (a n : Nat) (h : Memory.wf m = true) : Memory.wf (clearRange m a n) = true :=
  wf_filter m _ h

theorem wf_foldUpto (f : List Host.Cell → Nat → List Host.Cell) (hf : ∀ m i, Memory.wf m = true → Memory.wf (f m i) = true)
    (m : List Host.Cell) (n : Nat) (h : Memory.wf m = true) : Memory.wf (foldUpto f m n) = true := by
  induction n with
  | zero => exact h
  | succ n ih => exact hf _ _ ih

theorem wf_storeBytes (m : List Host.Cell) (a v n : Nat) (h : Memory.wf m = true) : Memory.wf (storeBytes m a v n) = true := by
  induction n with
  | zero => exact h
  | succ n ih => exact wf_memSet _ _ _ ih

/-- Bytes of a little-endian number stored from an address on are read back. -/
theorem memGet_storeBytes (m : List Host.Cell) (a v n i : Nat) (h : Memory.wf m = true) (hi : i < n) :
    memGet (storeBytes m a v n) (a + i) = BitVec.ofNat 8 (v / 2 ^ (8 * i)) := by
  induction n with
  | zero => omega
  | succ n ih =>
    by_cases e : i = n
    · subst e; exact memGet_memSet_self _ _ _ (wf_storeBytes m a v i h)
    · rw [storeBytes, memGet_memSet_ne _ _ (by omega)]
      exact ih (by omega)

theorem memGet_storeBytes_ne (m : List Host.Cell) (a v n b : Nat) (h : b < a ∨ a + n ≤ b) :
    memGet (storeBytes m a v n) b = memGet m b := by
  induction n with
  | zero => rfl
  | succ n ih => rw [storeBytes, memGet_memSet_ne _ _ (by omega)]; exact ih (by omega)

/-! ### The operations of the machine that write cells -/

theorem setPoison_mem (s : State) (pa : Nat) (p : BitVec 16) : (setPoison s pa p).mem = s.mem := rfl
theorem revive_wf (s : State) (pa : Nat) (h : Memory.wf s.mem = true) : Memory.wf (revive s pa).mem = true := by
  unfold revive
  split
  · exact wf_clearRange _ _ _ h
  · exact h

theorem countBank_mem (s : State) (pa : Nat) : (countBank s pa).mem = s.mem := by
  unfold countBank
  split <;> rfl

theorem writeByte_wf (s : State) (pa : Nat) (x : Byte) (h : Memory.wf s.mem = true) : Memory.wf (writeByte s pa x).mem = true :=
  wf_memSet _ _ _ h

seal foldUpto in
theorem dramWrite_wf (s : State) (pa slot : Nat) (m : BitVec 64) (x : Line) (p : BitVec 16) (h : Memory.wf s.mem = true) :
    Memory.wf (dramWrite s pa slot m x p).mem = true := by
  have key (q : List Host.Cell) (a : Nat) (new : Line) (hq : Memory.wf q = true) :
      Memory.wf (foldUpto (fun c i => memSet c (a + i) (byteOf new i)) q 64) = true :=
    wf_foldUpto _ (fun c i hc => wf_memSet c _ _ hc) q 64 hq
  have hr : Memory.wf (countBank (revive s (pa / 64 * 64)) (pa / 64 * 64)).mem = true := by
    rw [countBank_mem]; exact revive_wf s (pa / 64 * 64) h
  unfold dramWrite
  split
  · exact h
  · rw [setPoison_mem]
    split
    · exact key _ _ _ hr
    · exact key _ _ _ hr

theorem physWrite_wf (s : State) (pa n v : Nat) (h : Memory.wf s.mem = true) : Memory.wf (physWrite s pa n v).mem = true := by
  unfold physWrite
  simp only
  split
  · exact revive_wf s pa h
  · exact dramWrite_wf _ _ _ _ _ _ h

theorem physFields_wf (s : State) (pa : Nat) (fs : List (Nat × Nat × Nat)) (h : Memory.wf s.mem = true) :
    Memory.wf (physFields s pa fs).mem = true := by
  unfold physFields
  induction fs generalizing s with
  | nil => exact h
  | cons f fs ih => exact ih _ (physWrite_wf s _ _ _ h)

theorem placeWord_wf (s : State) (v : Nat) (h : Memory.wf s.mem = true) : Memory.wf (placeWord s v).mem = true :=
  wf_storeBytes _ _ _ _ h

theorem reset_wf : Memory.wf State.reset.mem = true := rfl

end Sys2Proof.Machine
end

