-- ==== Sys2Proof/Laws/PerInstr.lean ====
section
/-! SUPPORT. Laws stated per instruction of the opcode table: the selectors of an instruction's parcels. -/

namespace Sys2Proof.Laws

/-- The last bits of two bit strings side by side are the second's. -/
theorem selector_append {n k : Nat} (x : BitVec n) (y : BitVec k) : (x ++ y).extractLsb' 0 k = y := by
  ext i h
  simp [BitVec.getLsbD_append, h]

theorem short_selector (h : Short) : h.parcel.extractLsb' 0 2 = 0 := selector_append _ _
theorem prefix_selector (p : Pfx) : p.parcel.extractLsb' 0 2 = 1 := selector_append _ _
theorem first_selector (l : Long) : l.parcel0.extractLsb' 0 2 = 2 := selector_append _ _
theorem second_selector (l : Long) : l.parcel1.extractLsb' 0 2 = 3 := selector_append _ _

namespace Selectors

/-- An instruction has the selectors that 12 R332 gives it: a short one 0, a prefix 1, a long one 2 and then 3; an event has no parcels. -/
def Statement (i : Instr) : Prop :=
  (encode i).map (fun p => p.extractLsb' 0 2) ∈ ([[], [0], [1], [2, 3]] : List (List (BitVec 2)))

theorem of_encoder (i : Instr) (h : encode i = match encodeShort i, encodeLong i with
    | some h, _ => [h.parcel]
    | none, some l => [l.parcel0, l.parcel1]
    | none, none => []) : Statement i := by
  unfold Statement
  rw [h]
  split <;> simp [short_selector, first_selector, second_selector]

theorem coldReset x0 : Statement (.coldReset x0) := of_encoder _ rfl
theorem devrst x0 : Statement (.devrst x0) := of_encoder _ rfl
theorem sensorSample x0 : Statement (.sensorSample x0) := of_encoder _ rfl
theorem evacuationLimit x0 x1 : Statement (.evacuationLimit x0 x1) := of_encoder _ rfl
theorem drainWindowEnd x0 : Statement (.drainWindowEnd x0) := of_encoder _ rfl
theorem refreshCommand x0 x1 : Statement (.refreshCommand x0 x1) := of_encoder _ rfl
theorem reflossWindow x0 : Statement (.reflossWindow x0) := of_encoder _ rfl
theorem scrubLine x0 x1 : Statement (.scrubLine x0 x1) := of_encoder _ rfl
theorem colbgtWrite x0 x1 : Statement (.colbgtWrite x0 x1) := of_encoder _ rfl
theorem ttripWrite x0 x1 x2 : Statement (.ttripWrite x0 x1 x2) := of_encoder _ rfl
theorem flitReceive x0 x1 : Statement (.flitReceive x0 x1) := of_encoder _ rfl
theorem replayRequest x0 x1 : Statement (.replayRequest x0 x1) := of_encoder _ rfl
theorem linkRetrain x0 : Statement (.linkRetrain x0) := of_encoder _ rfl
theorem peerUnreachableTimeout x0 : Statement (.peerUnreachableTimeout x0) := of_encoder _ rfl
theorem snpInv x0 x1 : Statement (.snpInv x0 x1) := of_encoder _ rfl
theorem snpData x0 : Statement (.snpData x0) := of_encoder _ rfl
theorem snpCur x0 : Statement (.snpCur x0) := of_encoder _ rfl
theorem biRsp x0 : Statement (.biRsp x0) := of_encoder _ rfl
theorem hostHdmAccess x0 x1 : Statement (.hostHdmAccess x0 x1) := of_encoder _ rfl
theorem extentGrant x0 x1 x2 : Statement (.extentGrant x0 x1 x2) := of_encoder _ rfl
theorem extentRelease x0 : Statement (.extentRelease x0) := of_encoder _ rfl
theorem extentReleaseAck x0 : Statement (.extentReleaseAck x0) := of_encoder _ rfl
theorem extentReleaseForced x0 : Statement (.extentReleaseForced x0) := of_encoder _ rfl
theorem agentLost x0 : Statement (.agentLost x0) := of_encoder _ rfl
theorem joinRequest x0 x1 : Statement (.joinRequest x0 x1) := of_encoder _ rfl
theorem joinComplete x0 : Statement (.joinComplete x0) := of_encoder _ rfl
theorem dataRateChangeRequest x0 : Statement (.dataRateChangeRequest x0) := of_encoder _ rfl
theorem retrainTrigger x0 : Statement (.retrainTrigger x0) := of_encoder _ rfl
theorem interfaceRetrainStart x0 : Statement (.interfaceRetrainStart x0) := of_encoder _ rfl
theorem retrainDone x0 : Statement (.retrainDone x0) := of_encoder _ rfl
theorem ptpMessage x0 : Statement (.ptpMessage x0) := of_encoder _ rfl
theorem cqtailWrite x0 x1 : Statement (.cqtailWrite x0 x1) := of_encoder _ rfl
theorem cqcfgWrite x0 x1 : Statement (.cqcfgWrite x0 x1) := of_encoder _ rfl
theorem cqpoke x0 x1 : Statement (.cqpoke x0 x1) := of_encoder _ rfl
theorem commandAccept x0 : Statement (.commandAccept x0) := of_encoder _ rfl
theorem launchCommand x0 : Statement (.launchCommand x0) := of_encoder _ rfl
theorem bulkCopy x0 : Statement (.bulkCopy x0) := of_encoder _ rfl
theorem signal x0 : Statement (.signal x0) := of_encoder _ rfl
theorem wait x0 : Statement (.wait x0) := of_encoder _ rfl
theorem waitPollReturn x0 x1 : Statement (.waitPollReturn x0 x1) := of_encoder _ rfl
theorem waitTimeout x0 x1 : Statement (.waitTimeout x0 x1) := of_encoder _ rfl
theorem successorReleaseRetry x0 : Statement (.successorReleaseRetry x0) := of_encoder _ rfl
theorem commandRetire x0 : Statement (.commandRetire x0) := of_encoder _ rfl
theorem ttSlotFire x0 : Statement (.ttSlotFire x0) := of_encoder _ rfl
theorem fwgo x0 : Statement (.fwgo x0) := of_encoder _ rfl
theorem firmwareCheckDone x0 : Statement (.firmwareCheckDone x0) := of_encoder _ rfl
theorem setKey x0 : Statement (.setKey x0) := of_encoder _ rfl
theorem setKeyComplete x0 : Statement (.setKeyComplete x0) := of_encoder _ rfl
theorem ctrclr x0 : Statement (.ctrclr x0) := of_encoder _ rfl
theorem registerWrite x0 x1 x2 : Statement (.registerWrite x0 x1 x2) := of_encoder _ rfl
theorem parkTableEntryFree x0 : Statement (.parkTableEntryFree x0) := of_encoder _ rfl
theorem faultRecordPost x0 : Statement (.faultRecordPost x0) := of_encoder _ rfl
theorem fqcfgWrite x0 x1 : Statement (.fqcfgWrite x0 x1) := of_encoder _ rfl
theorem frelReplay x0 x1 : Statement (.frelReplay x0 x1) := of_encoder _ rfl
theorem frelFail x0 x1 : Statement (.frelFail x0 x1) := of_encoder _ rfl
theorem drcmdMarkDead x0 x1 : Statement (.drcmdMarkDead x0 x1) := of_encoder _ rfl
theorem drcmdMarkLive x0 x1 : Statement (.drcmdMarkLive x0 x1) := of_encoder _ rfl
theorem drcmdDone x0 : Statement (.drcmdDone x0) := of_encoder _ rfl
theorem bankCommandExecute x0 x1 : Statement (.bankCommandExecute x0 x1) := of_encoder _ rfl
theorem batchDeal x0 : Statement (.batchDeal x0) := of_encoder _ rfl
theorem batchHandoff x0 : Statement (.batchHandoff x0) := of_encoder _ rfl
theorem blockPlace x0 x1 : Statement (.blockPlace x0 x1) := of_encoder _ rfl
theorem entryBlocking x0 x1 x2 : Statement (.entryBlocking x0 x1 x2) := of_encoder _ rfl
theorem gangMemberReserve x0 x1 : Statement (.gangMemberReserve x0 x1) := of_encoder _ rfl
theorem diffusionExchange x0 x1 : Statement (.diffusionExchange x0 x1) := of_encoder _ rfl
theorem slotFree x0 : Statement (.slotFree x0) := of_encoder _ rfl
theorem saveStart x0 : Statement (.saveStart x0) := of_encoder _ rfl
theorem saveComplete x0 : Statement (.saveComplete x0) := of_encoder _ rfl
theorem saveDeadline x0 : Statement (.saveDeadline x0) := of_encoder _ rfl
theorem restoreComplete x0 : Statement (.restoreComplete x0) := of_encoder _ rfl
theorem regspillSave x0 : Statement (.regspillSave x0) := of_encoder _ rfl
theorem activityWindowEnd x0 : Statement (.activityWindowEnd x0) := of_encoder _ rfl
theorem allotmentPeriodEnd x0 : Statement (.allotmentPeriodEnd x0) := of_encoder _ rfl
theorem adviseMove x0 : Statement (.adviseMove x0) := of_encoder _ rfl
theorem migrationStop x0 : Statement (.migrationStop x0) := of_encoder _ rfl
theorem migrationDrain x0 : Statement (.migrationDrain x0) := of_encoder _ rfl
theorem migrationXfer x0 : Statement (.migrationXfer x0) := of_encoder _ rfl
theorem migrationResume x0 : Statement (.migrationResume x0) := of_encoder _ rfl
theorem goatReclaim x0 : Statement (.goatReclaim x0) := of_encoder _ rfl
theorem tileClaim x0 x1 : Statement (.tileClaim x0 x1) := of_encoder _ rfl
theorem tileClaimResult x0 x1 : Statement (.tileClaimResult x0 x1) := of_encoder _ rfl
theorem stealAttempt x0 x1 : Statement (.stealAttempt x0 x1) := of_encoder _ rfl
theorem stealCasResult x0 x1 : Statement (.stealCasResult x0 x1) := of_encoder _ rfl
theorem stolenBlockDone x0 : Statement (.stolenBlockDone x0) := of_encoder _ rfl
theorem remoteCompletion x0 x1 : Statement (.remoteCompletion x0 x1) := of_encoder _ rfl
theorem remoteCompletionAck x0 x1 : Statement (.remoteCompletionAck x0 x1) := of_encoder _ rfl
theorem stealReturn x0 x1 : Statement (.stealReturn x0 x1) := of_encoder _ rfl
theorem issueGrant x0 : Statement (.issueGrant x0) := of_encoder _ rfl
theorem runResume x0 x1 : Statement (.runResume x0 x1) := of_encoder _ rfl
theorem supervisorStart x0 : Statement (.supervisorStart x0) := of_encoder _ rfl
theorem pushAccept x0 x1 : Statement (.pushAccept x0 x1) := of_encoder _ rfl
theorem pipeDelivery x0 x1 : Statement (.pipeDelivery x0 x1) := of_encoder _ rfl
theorem kickFetch x0 : Statement (.kickFetch x0) := of_encoder _ rfl
theorem bteTransactionIssue x0 : Statement (.bteTransactionIssue x0) := of_encoder _ rfl
theorem chunkLanding x0 x1 x2 : Statement (.chunkLanding x0 x1 x2) := of_encoder _ rfl
theorem scatterBumpReturn x0 x1 : Statement (.scatterBumpReturn x0 x1) := of_encoder _ rfl
theorem yieldTimeout x0 x1 : Statement (.yieldTimeout x0 x1) := of_encoder _ rfl
theorem sleepExpire x0 x1 : Statement (.sleepExpire x0 x1) := of_encoder _ rfl
theorem pfx (p : Pfx) : Statement (.pfx p) := by simp [Statement, encode, prefix_selector]
theorem nop x0 : Statement (.nop x0) := of_encoder _ rfl
theorem nopShort x0 x1 x2 : Statement (.nopShort x0 x1 x2) := of_encoder _ rfl
theorem bra x0 x1 : Statement (.bra x0 x1) := of_encoder _ rfl
theorem brc x0 x1 x2 : Statement (.brc x0 x1 x2) := of_encoder _ rfl
theorem jmp x0 x1 : Statement (.jmp x0 x1) := of_encoder _ rfl
theorem call x0 x1 x2 : Statement (.call x0 x1 x2) := of_encoder _ rfl
theorem ret x0 x1 : Statement (.ret x0 x1) := of_encoder _ rfl
theorem meet x0 x1 x2 : Statement (.meet x0 x1 x2) := of_encoder _ rfl
theorem exit x0 : Statement (.exit x0) := of_encoder _ rfl
theorem yield x0 : Statement (.yield x0) := of_encoder _ rfl
theorem sleep x0 x1 : Statement (.sleep x0 x1) := of_encoder _ rfl
theorem iadd x0 x1 x2 : Statement (.iadd x0 x1 x2) := of_encoder _ rfl
theorem iaddShort x0 : Statement (.iaddShort x0) := of_encoder _ rfl
theorem isub x0 x1 x2 : Statement (.isub x0 x1 x2) := of_encoder _ rfl
theorem isubShort x0 : Statement (.isubShort x0) := of_encoder _ rfl
theorem imul x0 x1 : Statement (.imul x0 x1) := of_encoder _ rfl
theorem imulShort x0 : Statement (.imulShort x0) := of_encoder _ rfl
theorem imad x0 x1 x2 : Statement (.imad x0 x1 x2) := of_encoder _ rfl
theorem imulh x0 x1 : Statement (.imulh x0 x1) := of_encoder _ rfl
theorem imulhShort x0 : Statement (.imulhShort x0) := of_encoder _ rfl
theorem imin x0 x1 : Statement (.imin x0 x1) := of_encoder _ rfl
theorem iminShort x0 : Statement (.iminShort x0) := of_encoder _ rfl
theorem imax x0 x1 : Statement (.imax x0 x1) := of_encoder _ rfl
theorem imaxShort x0 : Statement (.imaxShort x0) := of_encoder _ rfl
theorem iabs x0 x1 x2 : Statement (.iabs x0 x1 x2) := of_encoder _ rfl
theorem iabsShort x0 : Statement (.iabsShort x0) := of_encoder _ rfl
theorem and x0 x1 : Statement (.and x0 x1) := of_encoder _ rfl
theorem andShort x0 : Statement (.andShort x0) := of_encoder _ rfl
theorem or x0 x1 : Statement (.or x0 x1) := of_encoder _ rfl
theorem orShort x0 : Statement (.orShort x0) := of_encoder _ rfl
theorem xor x0 x1 : Statement (.xor x0 x1) := of_encoder _ rfl
theorem xorShort x0 : Statement (.xorShort x0) := of_encoder _ rfl
theorem andn x0 x1 : Statement (.andn x0 x1) := of_encoder _ rfl
theorem andnShort x0 : Statement (.andnShort x0) := of_encoder _ rfl
theorem shl x0 x1 : Statement (.shl x0 x1) := of_encoder _ rfl
theorem shlShort x0 : Statement (.shlShort x0) := of_encoder _ rfl
theorem shr x0 x1 : Statement (.shr x0 x1) := of_encoder _ rfl
theorem shrShort x0 : Statement (.shrShort x0) := of_encoder _ rfl
theorem sar x0 x1 : Statement (.sar x0 x1) := of_encoder _ rfl
theorem sarShort x0 : Statement (.sarShort x0) := of_encoder _ rfl
theorem rotl x0 x1 : Statement (.rotl x0 x1) := of_encoder _ rfl
theorem rotlShort x0 : Statement (.rotlShort x0) := of_encoder _ rfl
theorem popc x0 x1 : Statement (.popc x0 x1) := of_encoder _ rfl
theorem popcShort x0 : Statement (.popcShort x0) := of_encoder _ rfl
theorem clz x0 x1 : Statement (.clz x0 x1) := of_encoder _ rfl
theorem clzShort x0 : Statement (.clzShort x0) := of_encoder _ rfl
theorem brev x0 x1 : Statement (.brev x0 x1) := of_encoder _ rfl
theorem brevShort x0 : Statement (.brevShort x0) := of_encoder _ rfl
theorem bfx x0 x1 : Statement (.bfx x0 x1) := of_encoder _ rfl
theorem bfi x0 x1 : Statement (.bfi x0 x1) := of_encoder _ rfl
theorem icmp x0 x1 x2 x3 x4 x5 : Statement (.icmp x0 x1 x2 x3 x4 x5) := of_encoder _ rfl
theorem sel x0 x1 x2 x3 x4 x5 : Statement (.sel x0 x1 x2 x3 x4 x5) := of_encoder _ rfl
theorem mov x0 x1 : Statement (.mov x0 x1) := of_encoder _ rfl
theorem movShort x0 : Statement (.movShort x0) := of_encoder _ rfl
theorem movi x0 x1 x2 x3 : Statement (.movi x0 x1 x2 x3) := of_encoder _ rfl
theorem moviShort x0 x1 x2 x3 : Statement (.moviShort x0 x1 x2 x3) := of_encoder _ rfl
theorem lea x0 x1 x2 : Statement (.lea x0 x1 x2) := of_encoder _ rfl
theorem pand x0 x1 x2 x3 : Statement (.pand x0 x1 x2 x3) := of_encoder _ rfl
theorem por x0 x1 x2 x3 : Statement (.por x0 x1 x2 x3) := of_encoder _ rfl
theorem pxor x0 x1 x2 x3 : Statement (.pxor x0 x1 x2 x3) := of_encoder _ rfl
theorem pnot x0 x1 x2 : Statement (.pnot x0 x1 x2) := of_encoder _ rfl
theorem pmov x0 x1 : Statement (.pmov x0 x1) := of_encoder _ rfl
theorem fadd x0 x1 : Statement (.fadd x0 x1) := of_encoder _ rfl
theorem faddShort x0 : Statement (.faddShort x0) := of_encoder _ rfl
theorem fsub x0 x1 : Statement (.fsub x0 x1) := of_encoder _ rfl
theorem fsubShort x0 : Statement (.fsubShort x0) := of_encoder _ rfl
theorem fmul x0 x1 : Statement (.fmul x0 x1) := of_encoder _ rfl
theorem fmulShort x0 : Statement (.fmulShort x0) := of_encoder _ rfl
theorem ffma x0 x1 x2 : Statement (.ffma x0 x1 x2) := of_encoder _ rfl
theorem fmin x0 x1 : Statement (.fmin x0 x1) := of_encoder _ rfl
theorem fminShort x0 : Statement (.fminShort x0) := of_encoder _ rfl
theorem fmax x0 x1 : Statement (.fmax x0 x1) := of_encoder _ rfl
theorem fmaxShort x0 : Statement (.fmaxShort x0) := of_encoder _ rfl
theorem fcmp x0 x1 x2 x3 x4 x5 : Statement (.fcmp x0 x1 x2 x3 x4 x5) := of_encoder _ rfl
theorem frcp x0 x1 : Statement (.frcp x0 x1) := of_encoder _ rfl
theorem frcpShort x0 : Statement (.frcpShort x0) := of_encoder _ rfl
theorem frsq x0 x1 : Statement (.frsq x0 x1) := of_encoder _ rfl
theorem frsqShort x0 : Statement (.frsqShort x0) := of_encoder _ rfl
theorem fsqrt x0 x1 : Statement (.fsqrt x0 x1) := of_encoder _ rfl
theorem fsqrtShort x0 : Statement (.fsqrtShort x0) := of_encoder _ rfl
theorem fexp2 x0 x1 : Statement (.fexp2 x0 x1) := of_encoder _ rfl
theorem fexp2Short x0 : Statement (.fexp2Short x0) := of_encoder _ rfl
theorem flog2 x0 x1 : Statement (.flog2 x0 x1) := of_encoder _ rfl
theorem flog2Short x0 : Statement (.flog2Short x0) := of_encoder _ rfl
theorem fsin x0 x1 : Statement (.fsin x0 x1) := of_encoder _ rfl
theorem fsinShort x0 : Statement (.fsinShort x0) := of_encoder _ rfl
theorem fcos x0 x1 : Statement (.fcos x0 x1) := of_encoder _ rfl
theorem fcosShort x0 : Statement (.fcosShort x0) := of_encoder _ rfl
theorem ftanh x0 x1 : Statement (.ftanh x0 x1) := of_encoder _ rfl
theorem ftanhShort x0 : Statement (.ftanhShort x0) := of_encoder _ rfl
theorem cvt x0 x1 x2 x3 : Statement (.cvt x0 x1 x2 x3) := of_encoder _ rfl
theorem cvtShort x0 : Statement (.cvtShort x0) := of_encoder _ rfl
theorem pack x0 x1 x2 x3 x4 x5 : Statement (.pack x0 x1 x2 x3 x4 x5) := of_encoder _ rfl
theorem unpack x0 x1 x2 x3 x4 : Statement (.unpack x0 x1 x2 x3 x4) := of_encoder _ rfl
theorem qnt x0 x1 x2 x3 x4 : Statement (.qnt x0 x1 x2 x3 x4) := of_encoder _ rfl
theorem shfl x0 x1 x2 x3 x4 : Statement (.shfl x0 x1 x2 x3 x4) := of_encoder _ rfl
theorem bcast x0 x1 x2 x3 : Statement (.bcast x0 x1 x2 x3) := of_encoder _ rfl
theorem vote x0 x1 x2 x3 : Statement (.vote x0 x1 x2 x3) := of_encoder _ rfl
theorem ballot x0 x1 x2 x3 : Statement (.ballot x0 x1 x2 x3) := of_encoder _ rfl
theorem permb x0 x1 x2 x3 x4 : Statement (.permb x0 x1 x2 x3 x4) := of_encoder _ rfl
theorem scan x0 x1 x2 x3 x4 : Statement (.scan x0 x1 x2 x3 x4) := of_encoder _ rfl
theorem fold x0 x1 x2 x3 x4 : Statement (.fold x0 x1 x2 x3 x4) := of_encoder _ rfl
theorem carry x0 x1 x2 x3 x4 : Statement (.carry x0 x1 x2 x3 x4) := of_encoder _ rfl
theorem lid x0 x1 x2 : Statement (.lid x0 x1 x2) := of_encoder _ rfl
theorem ld x0 x1 x2 x3 x4 x5 : Statement (.ld x0 x1 x2 x3 x4 x5) := of_encoder _ rfl
theorem st x0 x1 x2 x3 x4 x5 : Statement (.st x0 x1 x2 x3 x4 x5) := of_encoder _ rfl
theorem ldq x0 x1 x2 x3 x4 : Statement (.ldq x0 x1 x2 x3 x4) := of_encoder _ rfl
theorem lbuf x0 x1 x2 x3 x4 x5 : Statement (.lbuf x0 x1 x2 x3 x4 x5) := of_encoder _ rfl
theorem sbuf x0 x1 x2 x3 x4 x5 : Statement (.sbuf x0 x1 x2 x3 x4 x5) := of_encoder _ rfl
theorem atom x0 x1 x2 x3 x4 x5 : Statement (.atom x0 x1 x2 x3 x4 x5) := of_encoder _ rfl
theorem cas x0 x1 x2 x3 x4 x5 x6 : Statement (.cas x0 x1 x2 x3 x4 x5 x6) := of_encoder _ rfl
theorem fence x0 x1 x2 x3 : Statement (.fence x0 x1 x2 x3) := of_encoder _ rfl
theorem own x0 x1 x2 x3 : Statement (.own x0 x1 x2 x3) := of_encoder _ rfl
theorem owt x0 x1 x2 x3 x4 : Statement (.owt x0 x1 x2 x3 x4) := of_encoder _ rfl
theorem prf x0 x1 x2 x3 x4 : Statement (.prf x0 x1 x2 x3 x4) := of_encoder _ rfl
theorem inv x0 x1 x2 x3 : Statement (.inv x0 x1 x2 x3) := of_encoder _ rfl
theorem flush x0 x1 x2 x3 : Statement (.flush x0 x1 x2 x3) := of_encoder _ rfl
theorem mma x0 x1 x2 x3 x4 x5 : Statement (.mma x0 x1 x2 x3 x4 x5) := of_encoder _ rfl
theorem mmaComplete x0 : Statement (.mmaComplete x0) := of_encoder _ rfl
theorem mmov x0 x1 x2 x3 x4 : Statement (.mmov x0 x1 x2 x3 x4) := of_encoder _ rfl
theorem xkick x0 x1 x2 : Statement (.xkick x0 x1 x2) := of_encoder _ rfl
theorem xstage x0 : Statement (.xstage x0) := of_encoder _ rfl
theorem xwait x0 x1 x2 x3 x4 : Statement (.xwait x0 x1 x2 x3 x4) := of_encoder _ rfl
theorem xtest x0 x1 x2 x3 x4 x5 : Statement (.xtest x0 x1 x2 x3 x4 x5) := of_encoder _ rfl
theorem nmo x0 x1 x2 : Statement (.nmo x0 x1 x2) := of_encoder _ rfl
theorem spawn x0 x1 x2 x3 x4 : Statement (.spawn x0 x1 x2 x3 x4) := of_encoder _ rfl
theorem fget x0 x1 x2 : Statement (.fget x0 x1 x2) := of_encoder _ rfl
theorem fpoll x0 x1 x2 : Statement (.fpoll x0 x1 x2) := of_encoder _ rfl
theorem fret x0 x1 : Statement (.fret x0 x1) := of_encoder _ rfl
theorem frel x0 x1 : Statement (.frel x0 x1) := of_encoder _ rfl
theorem fset x0 x1 : Statement (.fset x0 x1) := of_encoder _ rfl
theorem commit x0 : Statement (.commit x0) := of_encoder _ rfl
theorem rclm x0 : Statement (.rclm x0) := of_encoder _ rfl
theorem bar x0 x1 x2 : Statement (.bar x0 x1 x2) := of_encoder _ rfl
theorem barx x0 x1 x2 : Statement (.barx x0 x1 x2) := of_encoder _ rfl
theorem push x0 x1 x2 x3 : Statement (.push x0 x1 x2 x3) := of_encoder _ rfl
theorem qlen x0 x1 x2 : Statement (.qlen x0 x1 x2) := of_encoder _ rfl
theorem trap x0 x1 : Statement (.trap x0 x1) := of_encoder _ rfl
theorem eret x0 : Statement (.eret x0) := of_encoder _ rfl
theorem csrr x0 x1 x2 : Statement (.csrr x0 x1 x2) := of_encoder _ rfl
theorem csrw x0 x1 x2 : Statement (.csrw x0 x1 x2) := of_encoder _ rfl
theorem wsync x0 : Statement (.wsync x0) := of_encoder _ rfl
theorem rinv x0 x1 : Statement (.rinv x0 x1) := of_encoder _ rfl
theorem halt x0 x1 : Statement (.halt x0 x1) := of_encoder _ rfl
theorem hostLinkTrained x0 x1 : Statement (.hostLinkTrained x0 x1) := of_encoder _ rfl
theorem deviceReset : Statement (.deviceReset) := of_encoder _ rfl
theorem ppsEdge : Statement (.ppsEdge) := of_encoder _ rfl
theorem ptpMasterTimeout : Statement (.ptpMasterTimeout) := of_encoder _ rfl
theorem ppsTimeout : Statement (.ppsTimeout) := of_encoder _ rfl
theorem bulkCopyLineDone : Statement (.bulkCopyLineDone) := of_encoder _ rfl
theorem getVersion : Statement (.getVersion) := of_encoder _ rfl
theorem getCapabilities : Statement (.getCapabilities) := of_encoder _ rfl
theorem negotiateAlgorithms : Statement (.negotiateAlgorithms) := of_encoder _ rfl
theorem getDigests : Statement (.getDigests) := of_encoder _ rfl
theorem getCertificate : Statement (.getCertificate) := of_encoder _ rfl
theorem challenge : Statement (.challenge) := of_encoder _ rfl
theorem getMeasurements : Statement (.getMeasurements) := of_encoder _ rfl
theorem keyExchange : Statement (.keyExchange) := of_encoder _ rfl
theorem finish : Statement (.finish) := of_encoder _ rfl
theorem endSession : Statement (.endSession) := of_encoder _ rfl
theorem walkHandoff : Statement (.walkHandoff) := of_encoder _ rfl
theorem walkComplete : Statement (.walkComplete) := of_encoder _ rfl
theorem bankCommandHome : Statement (.bankCommandHome) := of_encoder _ rfl
theorem diffusionArrival : Statement (.diffusionArrival) := of_encoder _ rfl
theorem completionTreeUpdate : Statement (.completionTreeUpdate) := of_encoder _ rfl
theorem itemMoveAck : Statement (.itemMoveAck) := of_encoder _ rfl
theorem barrierArrival : Statement (.barrierArrival) := of_encoder _ rfl
theorem ldqLand : Statement (.ldqLand) := of_encoder _ rfl
theorem loadReturn : Statement (.loadReturn) := of_encoder _ rfl
theorem homeRequest : Statement (.homeRequest) := of_encoder _ rfl
theorem drainAck : Statement (.drainAck) := of_encoder _ rfl
theorem pushApply : Statement (.pushApply) := of_encoder _ rfl
theorem towerRequest : Statement (.towerRequest) := of_encoder _ rfl
theorem standbySupplyLoss : Statement (.standbySupplyLoss) := of_encoder _ rfl

end Selectors

end Sys2Proof.Laws
end

