-- ==== Sys2Proof/Laws/Touches.lean ====
section
/-! SUPPORT. What the shared operations can change: each answers its state with some fields replaced and every other field
as it was. -/

namespace Sys2Proof.Machine

theorem setMreg_touches (s : State) (a v : Nat) : ∃ m, setMreg s a v = { s with mgmt := m } := ⟨_, rfl⟩
theorem raiseEvent_touches (s : State) (c : Nat) : ∃ m x, raiseEvent s c = { s with mgmt := m, msix := x } := ⟨_, _, rfl⟩
theorem readDtc_touches (s : State) : ∃ d f, (readDtc s).2 = { s with dtc := d, freeCount := f } := ⟨_, _, rfl⟩
theorem drawFree_touches (s : State) : ∃ f, (drawFree s).2 = { s with freeCount := f } := ⟨_, rfl⟩

theorem blackBox_touches (s : State) (code cls index data : Nat) : ∃ m b x d f k,
    blackBox s code cls index data = { s with mgmt := m, bbox := b, msix := x, dtc := d, freeCount := f, strikes := k } := by
  unfold blackBox
  extract_lets d f n f2 r
  obtain ⟨dd, ff, hd⟩ := readDtc_touches s
  obtain ⟨fg, hf⟩ := drawFree_touches d.2
  change f.2 = _ at hf
  change d.2 = _ at hd
  split
  · obtain ⟨m, hm⟩ := setMreg_touches f.2 0x6000C (min (mreg s 0x6000C + 1) (2 ^ 32 - 1))
    rw [hm, hf, hd]
    exact ⟨_, _, _, _, _, _, rfl⟩
  · obtain ⟨m, b, k, hm⟩ : ∃ m b k, r = { f.2 with mgmt := m, bbox := b, strikes := k } := ⟨_, _, _, rfl⟩
    split
    · obtain ⟨m', x, hr⟩ := raiseEvent_touches r 8
      rw [hr, hm, hf, hd]
      exact ⟨_, _, _, _, _, _, rfl⟩
    · rw [hm, hf, hd]
      exact ⟨_, _, _, _, _, _, rfl⟩

/-- A register that a record does not write. -/
theorem mreg_blackBox_ne (s : State) (code cls index data a : Nat) (h1 : a ≠ 0x60004) (h2 : a ≠ 0x6000C) (h3 : a ≠ 0x30100) :
    mreg (blackBox s code cls index data) a = mreg s a := by
  unfold blackBox
  extract_lets d f n f2 r
  have hf : ∀ x k, mreg { f.2 with bbox := x, strikes := k } a = mreg s a := fun _ _ => rfl
  have hr : mreg r a = mreg s a := by rw [show mreg r a = _ from mreg_setMreg_ne _ _ h1.symm]; exact hf _ _
  split
  · rw [mreg_setMreg_ne _ _ h2.symm]; exact hf f.2.bbox f.2.strikes
  · split
    · rw [mreg_raiseEvent_ne _ _ _ h3.symm]; exact hr
    · exact hr

/-- A fold whose every step only replaces some fields. -/
theorem fold_touches {α β : Type} (r : State → β → State) (hr : ∀ s a b, r (r s a) b = r s b) (hid : ∀ s, ∃ a, s = r s a)
    (f : State → α → State) (hf : ∀ s x, ∃ a, f s x = r s a) (l : List α) (s : State) : ∃ a, l.foldl f s = r s a := by
  induction l generalizing s with
  | nil => exact hid s
  | cons x l ih =>
    obtain ⟨a, ha⟩ := hf s x
    obtain ⟨b, hb⟩ := ih (f s x)
    exact ⟨b, by rw [List.foldl_cons, hb, ha, hr]⟩

theorem unhold_touches (s : State) (p : Req × HoldWhy → Bool) :
    ∃ r h a, unhold s p = { s with reqs := r, held := h, agenda := a } := by
  obtain ⟨⟨r, a⟩, h⟩ := fold_touches (fun s (x : List Req × List Instr) => { s with reqs := x.1, agenda := x.2 })
    (fun _ _ _ => rfl) (fun s => ⟨(s.reqs, s.agenda), rfl⟩)
    (fun s (x : Req × HoldWhy) =>
      let ev : Instr := if x.1.isPush then .pushApply else .homeRequest
      due { s with reqs := s.reqs ++ [x.1] } [ev]) (fun s x => ⟨(s.reqs ++ [x.1], _), rfl⟩) (s.held.filter p)
    { s with held := s.held.filter (fun x => !p x) }
  exact ⟨r, s.held.filter (fun x => !p x), a, h⟩

theorem wakeEngines_touches (s : State) : ∃ e a, wakeEngines s = { s with engines := e, agenda := a } := by
  obtain ⟨⟨e, a⟩, h⟩ := fold_touches (fun s (x : Map Engine × List Instr) => { s with engines := x.1, agenda := x.2 })
    (fun _ _ _ => rfl) (fun s => ⟨(s.engines, s.agenda), rfl⟩)
    (fun s (e : Nat × Engine) => due (updEngine s e.1 (fun x => { x with waiting := none }))
      [.tileClaim (e.1 / 12) (e.1 % 12), .stealAttempt (e.1 / 12) (e.1 % 12)]) (fun s x => ⟨(_, _), rfl⟩)
    (s.engines.filter (fun (e : Nat × Engine) => e.2.waiting == some 5000)) s
  exact ⟨e, a, h⟩

theorem wakeHeld_touches (s : State) (p : Req × HoldWhy → Bool) :
    ∃ r h e a, wakeHeld s p = { s with reqs := r, held := h, engines := e, agenda := a } := by
  obtain ⟨r, h, a, hu⟩ := unhold_touches s p
  obtain ⟨e, a', hw⟩ := wakeEngines_touches (unhold s p)
  rw [hu] at hw
  unfold wakeHeld
  rw [hu, hw]
  simp only
  split <;> split <;> exact ⟨_, _, _, _, rfl⟩

end Sys2Proof.Machine
end

