-- ==== Sys2Proof/Tests/Slice0.lean ====
section
/-! SUPPORT. Tests: words of the encoding tables and what they decode to; for each statement a witness that meets its hypotheses; an
ill-formed term for each check of well-formedness and the encodings that are refused; and single steps with the values of the spec's
worked examples. -/

set_option Elab.async false
namespace Sys2Proof.Tests
open Sys2Proof Sys2Proof.Machine

/-- E 0, guard p0. -/
def c0 : Ctl := ⟨false, 0, false⟩

/-! ### Decoding: words written from the field tables of 12 R336, R339 and R343, and the parcels of the spec's examples -/

/-- The instruction decoded from a word of 64 bits. -/
def decode64 (w : Nat) : Option Instr := decodeTableWord 64 w
/-- A long word given by its fields (12 R336): opcode, dst, src1, src2, modifier a, class field, markers of src1 and src2, E, predicate,
negate; and the instruction decoded from it. -/
def longWord (op dst s1 s2 mod cls : Nat) (m1 m2 e pred neg : Nat := 0) : Nat :=
  2 + 4 * e + 8 * op + 2 ^ 13 * m1 + 2 ^ 14 * m2 + 2 ^ 15 * pred + 2 ^ 19 * neg + 2 ^ 20 * dst + 2 ^ 29 * mod + 2 ^ 32 * 3 +
    2 ^ 34 * s1 + 2 ^ 43 * s2 + 2 ^ 52 * cls
def long (op dst s1 s2 mod cls : Nat) (m1 m2 e pred neg : Nat := 0) : Option Instr :=
  decode64 (longWord op dst s1 s2 mod cls m1 m2 e pred neg)
/-- The same for a word of form W (12 R337): opcode, dst, modifier a, immediate, E. -/
def wide (op dst mod k e : Nat) : Option Instr :=
  decode64 (2 + 4 * e + 8 * op + 2 ^ 20 * dst + 2 ^ 29 * mod + 2 ^ 32 * 3 + 2 ^ 34 * k)
/-- The same for a short word (12 R339): opcode, type, d, s, last-read, predicate, E. -/
def short (op ty d s last pred e : Nat) : Option Instr :=
  decodeTableWord 32 (4 * e + 8 * op + 2 ^ 10 * d + 2 ^ 17 * s + 2 ^ 24 * last + 2 ^ 25 * pred + 2 ^ 29 * ty)

/-- Two-source integer instructions (14 R396): vector registers, `.sat` in modifier a of the first two. -/
theorem test_decode_integer :
    long 0x010 2 4 6 1 (2 * 512) = some (.iadd c0 true ⟨.s32, .v 2, .v 4 false, .v 6 false⟩) ∧
    long 0x011 2 4 6 1 (6 * 512) = some (.isub c0 true ⟨.z32, .v 2, .v 4 false, .v 6 false⟩) ∧
    long 0x012 2 4 6 0 (3 * 512) = some (.imul c0 ⟨.s64, .v 2, .v 4 false, .v 6 false⟩) ∧
    long 0x014 2 4 6 0 (7 * 512) = some (.imulh c0 ⟨.z64, .v 2, .v 4 false, .v 6 false⟩) ∧
    long 0x015 2 4 6 0 (2 * 512) = some (.imin c0 ⟨.s32, .v 2, .v 4 false, .v 6 false⟩) ∧
    long 0x016 2 4 6 0 (6 * 512) = some (.imax c0 ⟨.z32, .v 2, .v 4 false, .v 6 false⟩) ∧
    long 0x018 2 4 6 0 (3 * 512) = some (.and c0 ⟨.s64, .v 2, .v 4 false, .v 6 false⟩) ∧
    long 0x019 2 4 6 0 (7 * 512) = some (.or c0 ⟨.z64, .v 2, .v 4 false, .v 6 false⟩) ∧
    long 0x01A 2 4 6 0 (2 * 512) = some (.xor c0 ⟨.s32, .v 2, .v 4 false, .v 6 false⟩) ∧
    long 0x01B 2 4 6 0 (6 * 512) = some (.andn c0 ⟨.z32, .v 2, .v 4 false, .v 6 false⟩) ∧
    long 0x01C 2 4 6 0 (3 * 512) = some (.shl c0 ⟨.s64, .v 2, .v 4 false, .v 6 false⟩) ∧
    long 0x01D 2 4 6 0 (7 * 512) = some (.shr c0 ⟨.z64, .v 2, .v 4 false, .v 6 false⟩) ∧
    long 0x01E 2 4 6 0 (2 * 512) = some (.sar c0 ⟨.s32, .v 2, .v 4 false, .v 6 false⟩) ∧
    long 0x01F 2 4 6 0 (6 * 512) = some (.rotl c0 ⟨.z32, .v 2, .v 4 false, .v 6 false⟩) ∧
    long 0x023 2 4 6 0 (3 * 512) = some (.bfx c0 ⟨.s64, .v 2, .v 4 false, .v 6 false⟩) := by decide

/-- Three sources, one source, a queue, an immediate, a comparison and constants (14 R396, R401-R404). -/
theorem test_decode_integer_more :
    long 0x013 10 394 396 0 (2 * 512 + 14) = some (.imad c0 false ⟨.s32, .v 10, .s 10, .s 12, .v 14⟩) ∧
    long 0x024 10 12 14 0 (6 * 512 + 16) 1 1 = some (.bfi c0 ⟨.z32, .v 10, .v 12 true, .v 14 true, .v 16⟩) ∧
    long 0x017 3 5 0 1 (1 * 512) = some (.iabs c0 true ⟨.s16, .v 3, .v 5 false⟩) ∧
    long 0x020 3 386 0 0 (4 * 512) 1 0 = some (.popc c0 ⟨.z8, .v 3, .q 2⟩) ∧
    long 0x021 3 386 0 0 (4 * 512) 1 0 = some (.clz c0 ⟨.z8, .v 3, .q 2⟩) ∧
    long 0x022 3 386 0 0 (4 * 512) 1 0 = some (.brev c0 ⟨.z8, .v 3, .q 2⟩) ∧
    long 0x027 3 386 0 0 (4 * 512) 1 0 = some (.mov c0 ⟨.z8, .v 3, .q 2⟩) ∧
    long 0x025 9 3 511 4 (2 * 512 + 256) 0 1 = some (.icmp c0 .gt .s32 9 (.v 3 false) (.imm (-256))) ∧
    long 0x026 8 3 4 0 (2 * 512 + 7) = some (.sel c0 .s32 8 (.v 3 false) (.v 4 false) 7) ∧
    wide 0x028 511 2 3 0 = some (.movi c0 .b60 (.s 127) 3) ∧
    wide 0x028 385 0 0x3FFFFFFF 1 = some (.movi ⟨true, 0, false⟩ .k30 (.s 1) 0x3FFFFFFF) ∧
    long 0x029 388 389 511 7 (2 * 512 + 255) 0 1 = some (.lea c0 7 ⟨.s32, .s 4, .s 5, .imm 255⟩) := by decide

/-- Short integer instructions (12 R339, R342): d 5, s 127 with its last-read flag, p3, E 1; counts; `movi`; `nop`. -/
theorem test_decode_short_integer :
    short 0x10 2 5 127 1 3 1 = some (.iaddShort ⟨.s32, 3, true, 127, 5, true⟩) ∧
    short 0x11 2 5 127 1 3 1 = some (.isubShort ⟨.s32, 3, true, 127, 5, true⟩) ∧
    short 0x12 2 5 127 1 3 1 = some (.imulShort ⟨.s32, 3, true, 127, 5, true⟩) ∧
    short 0x14 2 5 127 1 3 1 = some (.imulhShort ⟨.s32, 3, true, 127, 5, true⟩) ∧
    short 0x15 2 5 127 1 3 1 = some (.iminShort ⟨.s32, 3, true, 127, 5, true⟩) ∧
    short 0x16 2 5 127 1 3 1 = some (.imaxShort ⟨.s32, 3, true, 127, 5, true⟩) ∧
    short 0x17 2 5 127 1 3 1 = some (.iabsShort ⟨.s32, 3, true, 127, 5, true⟩) ∧
    short 0x18 2 5 127 1 3 1 = some (.andShort ⟨.s32, 3, true, 127, 5, true⟩) ∧
    short 0x19 2 5 127 1 3 1 = some (.orShort ⟨.s32, 3, true, 127, 5, true⟩) ∧
    short 0x1A 2 5 127 1 3 1 = some (.xorShort ⟨.s32, 3, true, 127, 5, true⟩) ∧
    short 0x1B 2 5 127 1 3 1 = some (.andnShort ⟨.s32, 3, true, 127, 5, true⟩) ∧
    short 0x20 2 5 127 1 3 1 = some (.popcShort ⟨.s32, 3, true, 127, 5, true⟩) ∧
    short 0x21 2 5 127 1 3 1 = some (.clzShort ⟨.s32, 3, true, 127, 5, true⟩) ∧
    short 0x22 2 5 127 1 3 1 = some (.brevShort ⟨.s32, 3, true, 127, 5, true⟩) ∧
    short 0x27 2 5 127 1 3 1 = some (.movShort ⟨.s32, 3, true, 127, 5, true⟩) ∧
    short 0x1C 7 6 33 0 0 0 = some (.shlShort ⟨.z64, 0, 33, 6, false⟩) ∧
    short 0x1D 7 6 33 0 0 0 = some (.shrShort ⟨.z64, 0, 33, 6, false⟩) ∧
    short 0x1E 7 6 33 0 0 0 = some (.sarShort ⟨.z64, 0, 33, 6, false⟩) ∧
    short 0x1F 7 6 33 0 0 0 = some (.rotlShort ⟨.z64, 0, 33, 6, false⟩) ∧
    short 0x28 0 6 64 0 1 0 = some (.moviShort 1 64 6 false) ∧
    short 0x00 0 0 0 0 2 1 = some (.nopShort 0 2 true) := by decide

/-- Predicate instructions (14 R406). -/
theorem test_decode_predicates :
    long 0x030 1 2 15 0 (0) = some (.pand c0 1 ⟨2, false⟩ ⟨15, false⟩) ∧
    long 0x031 1 2 15 0 (0) = some (.por c0 1 ⟨2, false⟩ ⟨15, false⟩) ∧
    long 0x032 1 2 15 0 (0) = some (.pxor c0 1 ⟨2, false⟩ ⟨15, false⟩) ∧
    long 0x033 1 2 0 0 (0) = some (.pnot c0 1 ⟨2, false⟩) ∧
    long 0x034 1 2 0 0 (0) = some (.pmov c0 (.pp 1 ⟨2, false⟩)) ∧
    long 0x034 1 390 0 1 (0) = some (.pmov c0 (.sp 1 6)) ∧
    long 0x034 390 2 0 2 (0) = some (.pmov c0 (.ps 6 ⟨2, false⟩)) := by decide

/-- Control transfers: the parcels of chapter 14's example, then words of R407's table. -/
theorem test_decode_control :
    decode64 0x0000002F00000032 = some (.meet c0 false 11) ∧
    decode64 0x000000270000800E = some (.bra ⟨true, 1, false⟩ 9) ∧
    decode64 0xFFD0061760000016 = some (.brc ⟨true, 0, false⟩ (.snz 5) 0xFFD) ∧
    long 0x000 0 0 0 0 (0) = some (.nop c0) ∧
    long 0x002 0 0 0 1 (0x7FF) 0 0 1 4 1 = some (.brc ⟨true, 4, true⟩ .any 0x7FF) ∧
    long 0x003 0 8 0 0 (0) 1 0 1 0 0 = some (.jmp ⟨true, 0, false⟩ (.v 8 true)) ∧
    wide 0x004 400 0 0x20000000 1 = some (.call ⟨true, 0, false⟩ (.s 16) 0x20000000) ∧
    long 0x005 0 400 0 0 (0) 0 0 1 0 0 = some (.ret ⟨true, 0, false⟩ (.s 16)) ∧
    wide 0x006 0 1 0 0 = some (.meet c0 true 0) ∧
    long 0x007 0 0 0 0 (0) 0 0 1 0 0 = some (.exit ⟨true, 0, false⟩) ∧
    long 0x008 0 0 0 0 (0) 0 0 1 0 0 = some (.yield ⟨true, 0, false⟩) ∧
    long 0x009 0 0 0 0 (0xFFF) = some (.sleep c0 0xFFF) := by decide

/-- Floating point with operand modifiers, types of R373, scalar forms (15 R421, R423, R425). -/
theorem test_decode_float :
    long 0x080 8 9 10 5 (0 * 512) = some (.fadd c0 ⟨.f32, ⟨true, false, true⟩, .v 8, .v 9 false, .v 10 false⟩) ∧
    long 0x081 8 9 10 5 (1 * 512) = some (.fsub c0 ⟨.f16, ⟨true, false, true⟩, .v 8, .v 9 false, .v 10 false⟩) ∧
    long 0x082 8 9 10 5 (2 * 512) = some (.fmul c0 ⟨.bf16, ⟨true, false, true⟩, .v 8, .v 9 false, .v 10 false⟩) ∧
    long 0x084 8 9 10 5 (3 * 512) = some (.fmin c0 ⟨.f16x2, ⟨true, false, true⟩, .v 8, .v 9 false, .v 10 false⟩) ∧
    long 0x085 8 9 10 5 (4 * 512) = some (.fmax c0 ⟨.bf16x2, ⟨true, false, true⟩, .v 8, .v 9 false, .v 10 false⟩) ∧
    long 0x083 8 9 10 2 (11) = some (.ffma c0 ⟨.f32, ⟨false, true, false⟩, .v 8, .v 9 false, .v 10 false⟩ (.v 11)) ∧
    long 0x086 4 9 10 6 (1 * 512) = some (.fcmp c0 .un .f16 4 (.v 9 false) (.v 10 false)) ∧
    long 0x087 384 385 0 4 (0) = some (.frcp c0 ⟨.f32, false, true, .s 0, .s 1⟩) ∧
    long 0x088 384 385 0 4 (0) = some (.frsq c0 ⟨.f32, false, true, .s 0, .s 1⟩) ∧
    long 0x089 384 385 0 4 (0) = some (.fsqrt c0 ⟨.f32, false, true, .s 0, .s 1⟩) ∧
    long 0x08A 384 385 0 4 (0) = some (.fexp2 c0 ⟨.f32, false, true, .s 0, .s 1⟩) ∧
    long 0x08B 384 385 0 4 (0) = some (.flog2 c0 ⟨.f32, false, true, .s 0, .s 1⟩) ∧
    long 0x08C 384 385 0 4 (0) = some (.fsin c0 ⟨.f32, false, true, .s 0, .s 1⟩) ∧
    long 0x08D 384 385 0 4 (0) = some (.fcos c0 ⟨.f32, false, true, .s 0, .s 1⟩) ∧
    long 0x08E 384 385 0 4 (0) = some (.ftanh c0 ⟨.f32, false, true, .s 0, .s 1⟩) := by decide

/-- Short floating-point instructions and `cvt.to` (15 R423, R428). -/
theorem test_decode_short_float :
    short 0x40 2 7 9 0 15 1 = some (.faddShort ⟨.bf16, 15, false, 9, 7, true⟩) ∧
    short 0x41 2 7 9 0 15 1 = some (.fsubShort ⟨.bf16, 15, false, 9, 7, true⟩) ∧
    short 0x42 2 7 9 0 15 1 = some (.fmulShort ⟨.bf16, 15, false, 9, 7, true⟩) ∧
    short 0x44 2 7 9 0 15 1 = some (.fminShort ⟨.bf16, 15, false, 9, 7, true⟩) ∧
    short 0x45 2 7 9 0 15 1 = some (.fmaxShort ⟨.bf16, 15, false, 9, 7, true⟩) ∧
    short 0x47 2 7 9 0 15 1 = some (.frcpShort ⟨.bf16, 15, false, 9, 7, true⟩) ∧
    short 0x48 2 7 9 0 15 1 = some (.frsqShort ⟨.bf16, 15, false, 9, 7, true⟩) ∧
    short 0x49 2 7 9 0 15 1 = some (.fsqrtShort ⟨.bf16, 15, false, 9, 7, true⟩) ∧
    short 0x4A 2 7 9 0 15 1 = some (.fexp2Short ⟨.bf16, 15, false, 9, 7, true⟩) ∧
    short 0x4B 2 7 9 0 15 1 = some (.flog2Short ⟨.bf16, 15, false, 9, 7, true⟩) ∧
    short 0x4C 2 7 9 0 15 1 = some (.fsinShort ⟨.bf16, 15, false, 9, 7, true⟩) ∧
    short 0x4D 2 7 9 0 15 1 = some (.fcosShort ⟨.bf16, 15, false, 9, 7, true⟩) ∧
    short 0x4E 2 7 9 0 15 1 = some (.ftanhShort ⟨.bf16, 15, false, 9, 7, true⟩) ∧
    short 0x50 5 7 9 1 0 0 = some (.cvtShort ⟨.h4, 0, true, 9, 7, false⟩) := by decide

/-- Conversions: the assembly examples of R428-R432. -/
theorem test_decode_conversion :
    long 0x090 2 1 0 0 (0) = some (.cvt c0 (.to .e4m3) (.v 2) (.v 1 false)) ∧
    long 0x090 2 1 0 1 (5 * 512) = some (.cvt c0 (.from .h4) (.v 2) (.v 1 false)) ∧
    long 0x090 2 1 0 2 (1 * 512) = some (.cvt c0 (.toi .s16) (.v 2) (.v 1 false)) ∧
    long 0x090 2 6 0 3 (7 * 512) = some (.cvt c0 (.fromi .z64) (.v 2) (.v 6 false)) ∧
    long 0x090 2 1 0 4 (0) = some (.cvt c0 .rint (.v 2) (.v 1 false)) ∧
    long 0x091 4 2 3 1 (0) = some (.pack c0 1 .e4m3 4 (.v 2 false) (.v 3 false)) ∧
    long 0x092 4 2 0 5 (4 * 512) = some (.unpack c0 5 .vf4 4 (.v 2 false)) ∧
    long 0x093 10 4 390 0 (4 * 512) = some (.qnt c0 false 10 (.v 4 false) 6) ∧
    long 0x093 10 4 390 0 (5 * 512) = some (.qnt c0 true 10 (.v 4 false) 6) := by decide

/-- Lane operations (15 R434). -/
theorem test_decode_lanes :
    long 0x100 2 1 388 1 (3) = some (.shfl c0 .off 2 (.v 1 false) (.reg (.s 4) 3)) ∧
    long 0x100 2 1 511 2 (16) 0 1 = some (.shfl c0 .flip 2 (.v 1 false) (.imm 16)) ∧
    long 0x101 390 1 388 0 (0) = some (.bcast c0 (.s 6) (.v 1 false) (.s 4 0)) ∧
    long 0x102 3 5 0 2 (0) = some (.vote c0 .same 3 ⟨5, false⟩) ∧
    long 0x103 390 5 0 1 (0) = some (.ballot c0 true 6 ⟨5, false⟩) ∧
    long 0x104 2 1 388 1 (0) = some (.permb c0 .hi 2 (.v 1 false) 4) ∧
    long 0x105 2 1 0 3 (2 * 512) = some (.scan c0 .min .s32 2 (.v 1 false)) ∧
    long 0x106 390 1 0 5 (6 * 512) = some (.fold c0 .xor .z32 (.s 6) (.v 1 false)) ∧
    long 0x107 2 1 511 1 (511) 0 1 = some (.carry c0 0 2 (.v 1 false) (.imm (-1))) ∧
    long 0x107 2 1 388 3 (2) = some (.carry c0 2 2 (.v 1 false) (.s 4 2)) ∧
    long 0x108 1 0 0 0 (0) = some (.lid c0 false (.v 1)) ∧
    long 0x108 384 0 0 1 (0) = some (.lid c0 true (.s 0)) := by decide

/-- Memory: the parcels of chapter 16's example, then words of R445's table. -/
theorem test_decode_memory :
    decode64 0xC000502300610A2A = some (.atom ⟨false, 2, false⟩ (.add .z32) 0 (some (.v 6)) (.v 8 false) (.v 10 false)) ∧
    decode64 0x69C2061340500A02 = some (.ld c0 .b32 ⟨1, some .sys, .normal, some .winv⟩ (.v 5) (.s 4) 0x40) ∧
    long 0x141 6 8 511 6 (3 * 32 + 3 * 128 + 2 * 1024) = some (.st c0 .b128 ⟨2, some .twr, .noAllocate, none⟩ (.v 6) (.v 8 false) (-1)) ∧
    long 0x142 0 388 256 7 (1 * 1024 + 1 * 128) = some (.ldq c0 7 ⟨1, some .grp, .normal, none⟩ (.s 4) (-256)) ∧
    long 0x143 8 386 0 4 (1 * 1024 + 3) = some (.lbuf c0 .d .abuf 8 (.s 2) 3) ∧
    long 0x143 8 2 0 1 (3 * 1024 + 1023) = some (.lbuf c0 .idx .gbuf 8 (.v 2 false) 1023) ∧
    long 0x144 0 386 9 5 (2 * 1024) 0 1 = some (.sbuf c0 .t8 .cbuf (.s 2) (.v 9 true) 0) ∧
    long 0x145 0 8 10 7 (4 * 512 + 4 + 3) = some (.atom c0 .faddBf16x2 3 none (.v 8 false) (.v 10 false)) ∧
    long 0x146 6 8 10 2 (3 * 512 + 12) = some (.cas c0 .s64 2 (.v 6) (.v 8 false) (.v 10 false) (.v 12)) ∧
    long 0x147 0 0 0 1 (3 * 1024 + 5 * 128) = some (.fence c0 true 3 (some .sys)) ∧
    long 0x147 0 0 0 0 (1 * 1024) = some (.fence c0 false 1 none) ∧
    long 0x148 0 389 0 0 (2 * 1024 + 1023) = some (.own c0 .cbuf 5 1023) ∧
    long 0x149 384 389 0 0 (63) = some (.owt c0 .wbuf 0 5 63) ∧
    long 0x14A 0 388 0 1 (2 * 32) = some (.prf c0 true ⟨0, none, .evictLast, none⟩ (.s 4) 0) ∧
    long 0x14B 0 8 4 1 (4 * 128) 1 0 = some (.inv c0 0 (some .pkg) (.line (.v 8 true) 4)) ∧
    long 0x14C 0 0 0 0 (4 * 128) = some (.flush c0 0 (some .pkg) .all) ∧
    long 0x14C 0 388 64 2 (0) = some (.flush c0 0 none (.wbi (.s 4) 64)) := by decide

/-- Engines: the parcels of chapter 17's examples, then words of R472's table. -/
theorem test_decode_engines :
    decode64 0x800C662B38800E02 = some (.mma c0 true .vf4 8 5 6) ∧
    decode64 0x0000161300008E42 = some (.nmo ⟨false, 1, false⟩ (.addF32 (.v 2 false)) 4) ∧
    long 0x1C1 16 388 0 6 (60) = some (.mmov c0 (.ld 16) .c8 4 60) ∧
    long 0x1C1 0 388 16 3 (1) 0 1 = some (.mmov c0 (.st 16 true) .c2 4 1) ∧
    long 0x1C4 0 388 0 0 (0xFFF) = some (.xkick c0 4 0xFFF) ∧
    long 0x1C5 0 0 0 0 (0) = some (.xstage c0) ∧
    long 0x1C6 0 388 0 0 (1 * 1024 + 5) 0 0 1 0 0 = some (.xwait ⟨true, 0, false⟩ .abuf 4 5 none) ∧
    long 0x1C7 390 388 389 1 (3 * 1024 + 63) = some (.xtest c0 6 .gbuf 4 63 (some 5)) ∧
    long 0x1C8 2 388 4 5 (6) = some (.nmo c0 (.cas32 2 (.v 4 false) (.v 6)) 4) ∧
    long 0x1C8 0 388 4 7 (2 * 512 + 393) = some (.nmo c0 (.saccBf16 (.v 4 false) 9) 4) := by decide

/-- Tasks, barriers and pipes: the parcels of chapter 18's example, then words of R497's table. -/
theorem test_decode_tasks :
    decode64 0x186C2E1319401006 = some (.spawn ⟨true, 0, false⟩ 20 4 5 6) ∧
    decode64 0x000006531950100E = some (.fget ⟨true, 0, false⟩ 21 20) ∧
    long 0x202 385 386 0 0 (0) = some (.fpoll c0 1 2) ∧
    long 0x203 0 386 0 0 (0) = some (.fret c0 2) ∧
    long 0x204 0 386 0 0 (0) = some (.frel c0 2) ∧
    long 0x205 0 386 0 0 (0) = some (.fset c0 2) ∧
    long 0x206 0 0 0 0 (0) = some (.commit c0) ∧
    long 0x207 0 0 0 0 (0) = some (.rclm c0) ∧
    long 0x208 0 0 0 0 (16 * 8 + 7) 0 0 1 0 0 = some (.bar ⟨true, 0, false⟩ 16 7) ∧
    long 0x209 0 386 511 0 (15) 0 1 1 0 0 = some (.barx ⟨true, 0, false⟩ 2 (.imm 15)) ∧
    long 0x209 0 386 387 0 (0) = some (.barx c0 2 (.s 3)) ∧
    long 0x20A 0 7 0 0 (0x83A) 1 0 1 0 0 = some (.push ⟨true, 0, false⟩ (.v 7 true) 0x83 10) ∧
    long 0x20B 385 0 0 0 (7) = some (.qlen c0 1 7) := by decide

/-- Traps and system instructions: words of 18 R497's table. -/
theorem test_decode_system :
    long 0x240 0 0 0 0 (0xABC) = some (.trap c0 0xABC) ∧
    long 0x241 0 0 0 0 (0) 0 0 1 0 0 = some (.eret ⟨true, 0, false⟩) ∧
    long 0x242 385 0 0 0 (0x034) = some (.csrr c0 1 0x034) ∧
    long 0x243 0 386 0 0 (0x041) = some (.csrw c0 2 0x041) ∧
    long 0x244 0 0 0 0 (0) = some (.wsync c0) ∧
    long 0x245 0 386 0 0 (0) = some (.rinv c0 2) ∧
    long 0x246 0 386 0 0 (0) = some (.halt c0 2) := by decide

/-- Prefixes (12 R343): those of the examples of chapters 15 and 16, and one with reach, leaf policy, flush, hint and scope. -/
theorem test_decode_prefix :
    decodeTableWord 32 0x00000049 = some (.pfx ⟨0, 0, 0, false, false, 0, 0, 0, 1, 1, false⟩) ∧
    decodeTableWord 32 0x00000D01 = some (.pfx ⟨0, 0, 0, false, false, 0, 3, 1, 0, 0, false⟩) ∧
    decodeTableWord 32 (1 + 2 ^ 19 * 2 + 2 ^ 17 * 1 + 2 ^ 16 + 2 ^ 15 + 2 ^ 13 * 3 + 2 ^ 10 * 5) = some (.pfx ⟨0, 2, 1, true, true, 3, 5, 0, 0, 0, false⟩) := by decide

/-! ### Witnesses: states and operands that meet the hypotheses of the statements -/

/-- A state with one management register set. -/
def reg (a v : Nat) : State := setMreg State.reset a v
/-- The firmware runs. -/
def fw : State := reg 0x80004 (2 ^ 31)

theorem witness_ResetsComplete : (∀ n, n < 8 → stackState State.reset n = 0) ∧ retained 0x80004 = false := by decide

theorem witness_AttestationAnswers :
    (∃ s : State, fwRunning s = true ∧ 3 ≤ s.spdm.stage ∧ s.spdm.exchanging = true ∧ s.spdm.session = true) ∧
    ∃ s : State, fwRunning s = true ∧ s.spdm.stage = 1 ∧ s.spdm.session = false :=
  ⟨⟨{ fw with spdm := ⟨3, true, true⟩ }, by decide⟩, ⟨{ fw with spdm := ⟨1, false, false⟩ }, by decide⟩⟩

theorem witness_FirmwareKeysAndRegisters :
    (field (mreg State.reset 0x80004) 31 30 = 0 ∧ field (mreg (reg 0x80004 (3 * 2 ^ 30)) 0x80004) 31 30 = 3) ∧
    (field (mreg (reg 0x80004 (2 ^ 30)) 0x80004) 31 30 = 1 ∧ ∀ e ∈ (reg 0x80004 (2 ^ 30)).cmds, e.2.state ≠ .started) ∧
    (∃ s : State, fwRunning s = true ∧ s.spdm.session = true ∧ s.keyLoads.any (·.1 == (127 : BitVec 7).toNat) = false ∧ (127 : BitVec 7) ≠ 0) ∧
    (∃ s : State, s.keyLoads.find? (·.1 == (1 : BitVec 7).toNat) = some (1, 7)) ∧ fwRunning fw = true ∧
    (fwRunning State.reset = false ∧ ∀ p ∈ regParts 0x80008 (min 4 8) 0, p.1 ≠ 0x80000 ∧ p.1 ≠ 0x10) :=
  ⟨by decide, by decide, ⟨{ fw with spdm := ⟨3, true, true⟩ }, by decide⟩,
    ⟨{ State.reset with keyLoads := [(1, 7)] }, by decide⟩, by decide, by decide⟩

/-- A time-triggered table that is on, with entry 255 enabled for queue 3 in every slot and queue 3 of 64 places on. -/
def tt : State := { State.reset with
  mgmt := mset (mset (mset (mset [] 0x80004 (2 ^ 31)) 0x20010 1) (0x21008 + 16 * 255) (2 ^ 63 + 3 * 2 ^ 55 + 2 ^ 32)) (aCq 3 0x18)
    (2 ^ 31 + 6) }

theorem witness_DeviceTimeAndTable :
    (ttOn State.reset = false ∧ (999999 : Int) < 1000000) ∧ field (mreg (reg 0x54000 (2 ^ 30)) 0x54000) 31 30 < 2 ∧
    (field (mreg (reg 0x54000 (2 ^ 31)) 0x54000) 31 30 = 2 ∧ ttOn (reg 0x54000 (2 ^ 31)) = false) ∧
    (linkTrains State.reset 128 4 = true ∧ linkTrains State.reset 64 0 = true ∧ linkTrains State.reset 64 1 = false) ∧
    (linkTrains (reg 0x50000 (2 ^ 31)) 64 4 = true ∧ linkTrains (reg 0x50000 (2 ^ 31)) 32 4 = false) := by decide +kernel

theorem witness_TimedTableFires :
    ttOn State.reset = false ∧
    (ttOn tt = true ∧ tt.ttSlot ≤ 0 ∧ (∀ j, j < 256 → ttFires tt j 0 = (j == 255)) ∧ ttRoom tt (ttQueue tt 255) = true ∧
      ttUnfinished tt 255 = none) ∧
    (∀ i, i < 256 → ttFires { tt with mgmt := mset (mset [] 0x80004 (2 ^ 31)) 0x20010 1 } i 0 = false) ∧
    (let off := { tt with mgmt := mdel tt.mgmt (aCq 3 0x18) }
     (∀ j, j < 256 → ttFires off j 0 = (j == 255)) ∧ cqEn off (ttQueue off 255) = false) := by decide +kernel

/-- A sensor reading of 110 degrees in the base die trips it, one of 84.75 does not trip a bank's. -/
theorem witness_SensorsAndStackEvents :
    ((sensorOf State.reset .base 95).failed = false ∧ (sensorOf State.reset .base 95).shd = false ∧
      (sensorOf State.reset .base 95).hist.length < 63 ∧
      ∃ s : State, (sensorOf s .base 0).failed = false ∧ (sensorOf s .base 0).shd = false ∧ (sensorOf s .base 0).hist.length < 63 ∧
        ((440 : Int) - (sensorOf s .base (neighbours .base 0).1).value).natAbs ≤ 100 ∧
        4 * ((sensorOf s .base 0).shdPt : Int) ≤ 440) ∧
    ((sensorOf State.reset .bank 32767).failed = false ∧ (sensorOf State.reset .bank 32767).adv = false ∧
      ((100 : Int) - (sensorOf State.reset .bank (neighbours .bank 32767).1).value).natAbs ≤ 100 ∧
      (100 : Int) < 4 * ((sensorOf State.reset .bank 32767).advPt : Int)) ∧
    (fwRunning fw = true ∧ 200 ≤ (200 : Word).toNat % 1024 ∧ limitSum fw - colLimit fw 383 + 200 ≤ 216400 ∧ (901 : Word).toNat % 1024 > 900) ∧
    (field (0x7D7C7B : Word).toNat 7 0 < field (0x7D7C7B : Word).toNat 15 8 ∧
      field (0x7D7C7B : Word).toNat 15 8 < field (0x7D7C7B : Word).toNat 23 16 ∧ field (0x7D7C7B : Word).toNat 23 16 ≤ 125) ∧
    ¬ field (0x7E7C7B : Word).toNat 23 16 ≤ 125 ∧
    nget (stackUnit State.reset 7).refPtr 4095 < 2047 ∧
    (inHbm 0x7FFFFFFFC0 = true ∧ rowDead State.reset 0x7FFFFFFFC0 = false ∧ stackState State.reset (stackOf 0x7FFFFFFFC0) = 0) ∧
    stackState (reg (aStack 7 0) (2 ^ 30)) 7 = 1 := by
  refine ⟨⟨by decide, by decide, by decide, ?_⟩, by decide, by decide +kernel, by decide, by decide, by decide, by decide, by decide⟩
  exact ⟨{ State.reset with sensors := (mset (mset [] (sensorKey .base 0) { sensorOf State.reset .base 0 with value := 400 })
    (sensorKey .base (neighbours .base 0).1) { sensorOf State.reset .base 1 with value := 400 }) }, by decide⟩

/-- Group 0 of block 0 of launch 0 runs on core 0. -/
def run0 : State := placeWord State.reset 0
def core0 (f : Core → Core) (s : State) : State := updCore s 0 f
def block0 (f : Block → Block) (s : State) : State := updBlock s 0 f
/-- A migration of block 0 from core 0 to core 1. -/
def mig (st : MigState) (s : State) : State := { s with migs := [(0, ⟨0, 0, 1, st, [0], false, false, 0⟩)] }
/-- A kick of block 0 waits at core 0. -/
def kicked (s : State) : State := core0 (fun c => { c with kicks := [(0, 0, 0)] }) s

/-- The first sensor of a core has passed its advise point. -/
def advised (core : Nat) : State := setSensor State.reset .core (2 * core) { sensorOf State.reset .core (2 * core) with adv := true }

theorem witness_SheepdogEvents :
    (coreOf State.reset 1535).owed = 0 ∧ (sdcfg (reg 0xC0000 3) (colTower 0)).testBit 2 = false ∧
    ((sdcfg (advised 1535) (colTower (coreCol 1535))).testBit 0 = true ∧ (sdcfg (advised 1535) (colTower (coreCol 1535))).testBit 1 = true ∧
      (sensorOf (advised 1535) .core (2 * 1535)).adv = true ∧ resident (advised 1535) 1535 = []) ∧
    (mget (mig .defer run0).migs 0 = some ⟨0, 0, 1, .defer, [0], false, false, 0⟩ ∧ migConditions (mig .defer run0) 0 0 = false) ∧
    (mget (mig .hold (kicked run0)).migs 0 = some ⟨0, 0, 1, .hold, [0], false, false, 0⟩ ∧
      migConditions (mig .hold (kicked run0)) 0 0 = true) ∧
    (∃ s b m, mget s.migs 0 = some m ∧ blockOf s m.block = some b ∧ m.state = .stop ∧ migStopped s m = true ∧ s.strikes = [] ∧ migClear s m = true) ∧
    (∃ s b m, mget s.migs 0 = some m ∧ blockOf s m.block = some b ∧ m.state = .stop ∧ migStopped s m = true ∧ s.strikes = [] ∧ migClear s m = false) ∧
    ((blockOf (mig .xfer run0) 0).isSome = true) ∧
    ({ run0 with evac := [0] }.evac.contains (4 * 0 + 0) = true ∧ ∃ b l,
      run0.blocks.filter (fun (b : Nat × Block) => b.2.core.elim false (fun c => colTower (coreCol c) == 0 && coreLayer c == 0)) = [(0, b)] ∧
      blockOf run0 0 = some b ∧ launchOf run0 b.launch = some l ∧ l.handler = false ∧ l.ended = none) := by
  refine ⟨by decide, by decide, by decide, by decide, by decide, ?_, ?_, by decide, by decide, _, _, rfl, rfl, rfl, rfl, rfl⟩
  · exact ⟨mig .stop { run0 with groups := [] }, _, _, rfl, rfl, rfl, by decide, by decide⟩
  · exact ⟨mig .stop (kicked { run0 with groups := [] }), _, _, rfl, rfl, rfl, by decide, by decide⟩

/-- A page table that maps intermediate addresses below 64 KiB by one leaf, from PTROOT 0 on. -/
def pageTable (leaf : Nat) : List Host.Cell :=
  storeBytes (storeBytes (storeBytes (storeBytes [] 0 0x10001 8) 0x10000 0x20001 8) 0x20000 0x30001 8) 0x30000 leaf 8
/-- The management registers of CXL mode. -/
def cxl (s : State) : State := { s with mgmt := mset s.mgmt 0x50000 (2 ^ 31) }
def table (leaf : Nat) : State := { State.reset with mem := pageTable leaf }

theorem witness_HostAccessesAndExtents :
    hostLeaf State.reset 0 = none ∧ (hostLeaf (cxl (table (2 ^ 48 + 3))) 0).isSome = true ∧
    (takeFirst (fun (b : Nat × Bool) => b.1 == (BitVec.ofNat 52 340).toNat / 64) [(5, false)] = some ((5, false), [])) ∧
    (∃ leaf, leafOf (cxl (table 3)) 0 = some leaf ∧ inHdm { cxl (table 3) with hdm := [(0, 2 ^ 39)] } (leaf.pa52 0) = true ∧
      cxlMode (cxl (table 3)) = true ∧ agentState (cxl (table 3)) 384 = 0 ∧
      refuses (cxl (table 3)) (leaf.pa52 0) = none ∧ lineBusy (cxl (table 3)) leaf 0 = false) ∧
    (agentState (reg (aAgst 384) 1) 384 = 1 ∧ agentState (reg (aAgst 384) 2) 384 = 2) ∧
    (cxlMode (cxl State.reset) = true ∧ (mreg (cxl State.reset) (aDcxst 63)).testBit 31 = false) ∧
    ((mreg (reg (aDcxst 63) (2 ^ 31)) (aDcxst 63)).testBit 31 = true ∧ (mreg (reg (aDcxst 63) (2 ^ 31)) (aDcxst 63)).testBit 30 = false) ∧
    (∃ s : State, (mreg s (aDcxst 63)).testBit 30 = true ∧ extentDirty s 63 ≠ 0) := by
  refine ⟨by decide +kernel, by decide +kernel, by decide, ⟨⟨3, 0x30000, 3⟩, by decide +kernel⟩, by decide, by decide, by decide, ?_⟩
  exact ⟨{ State.reset with
    mgmt := mset (mset [] (aDcxst 63) (3 * 2 ^ 30)) (0x52008 + 16 * 63) 64
    home := [(0, { homeGet State.reset ⟨2 * 2 ^ 48 + 3, 0, 3⟩ 0 with dirty := true })] }, by decide⟩

/-- A flit of a peer that acknowledges a remote completion. -/
def flit (crc : Bool) : Flit := ⟨0, 4, 255, 0, 7, 9, .remoteCompletionAck 1 2, crc⟩

theorem witness_AgentsLinksAndRetraining :
    (agentState State.reset 640 ≠ 1 ∧ cxlMode (cxl State.reset) = true) ∧
    (∃ s : State, agentState s 640 = 1 ∧ (∀ p ∈ s.peers, p < 256) ∧ s.peers = [9] ∧ sweepsDone s 640 = true) ∧
    (∃ s : State, agentState s 640 = 2 ∧ sweepsDone s 640 = false) ∧ (agentState (reg (aAgst 0) 2) 0 = 2 ∧ sweepsDone (reg (aAgst 0) 2) 0 = true) ∧ ((linkOf State.reset 11).failed = false ∧ (flit false).crcOk = false) ∧
    ((flit true).seq = BitVec.ofNat 16 (linkOf State.reset 11).expect ∧ agentState State.reset (385 + (flit true).src.toNat) = 0 ∧
      State.reset.seen.contains ((flit true).src.toNat, (flit true).stream.toNat, (flit true).tag.toNat) = false) ∧
    (∀ e ∈ (linkOf (setLink State.reset 0 ⟨false, 1, 0, [(flit true, 14)]⟩) 0).sent, e.2 < 15) ∧
    (linkOf (setLink State.reset 0 ⟨true, 0, 0, []⟩) 0).failed = true ∧
    (∃ s : State, liveLinks s = []) ∧
    ((stackUnit State.reset 7).retraining = false ∧ savesTo State.reset 7 = false) ∧
    (∃ s : State, (stackUnit s 7).retraining = true ∧ (stackUnit s 7).trigger = true) := by
  refine ⟨by decide, ⟨{ reg (aAgst 640) 1 with peers := [9], sweeps := [(640, 9)] }, by decide⟩,
    ⟨{ reg (aAgst 640) 2 with peers := [9] }, by decide⟩, by decide, by decide, by decide, by decide, by decide, ?_, by decide, ?_⟩
  · exact ⟨{ State.reset with links := (List.range 12).map (fun i => (i, ⟨true, 0, 0, []⟩)) }, by decide⟩
  · exact ⟨{ State.reset with hbmStacks := [(7, { Stack.reset with retraining := true, trigger := true })] }, by decide⟩

/-- Queue 0 of 64 places is on, with sequences to accept and to retire as given; context blocks lie at 1 MiB and both fault units are on. -/
def queue (tail acc done : Nat) : State := { State.reset with
  mgmt := mset (mset (mset (mset (mset (mset (mset (mset [] 0x80004 (2 ^ 31)) (aCq 0 0x18) (2 ^ 31 + 6)) (aCq 0 0x1C) tail) (aCq 0 0x20) acc)
    (aCq 0 0x24) done) 0x40 0x100000) 0x90010 (2 ^ 31 + 0x40A)) 0x90110 (2 ^ 31 + 0x40A) }
/-- A command of a type with a first operand, in a state of its journal entry. -/
def command (type operand : Nat) (st : CmdState) : Cmd :=
  ⟨BitVec.ofNat 512 (type + 2 ^ 64 * (2 ^ 128 - 1) + operand * 2 ^ 256 + 2 ^ 256 * 2 ^ 224), st, 0, 0, 0, 0, none, 0, none⟩
def withCmd (c : Cmd) (s : State) : State := { s with cmds := [(0, c)] }
/-- Pages 0 and 1 are mapped to themselves in tower 0's leaf cache, and a launch record with one block stands at 64 KiB. -/
def launchable (s : State) : State := { s with
  leaves := mset (mset [] (leafKey 0 0 3) ⟨3, 0, 3⟩) (leafKey 0 0x10000 3) ⟨0x10003, 0, 3⟩
  mem := storeBytes [] 0x10000 (0x10100 + 2 ^ 64 + 2 ^ 104 + 2 ^ 112 + 2 ^ 128 + 2 ^ 256) 40 }

/-- Its queue keeps its journal in stack 7, which is OFFLINE. -/
def launcher : State :=
  let s := launchable (withCmd (command 1 0x10000 .accepted) (queue 1 1 0))
  { s with mgmt := mset (mset (mset s.mgmt (aCq 0 8) (7 * 2 ^ 36)) (aCq 0 0x10) (7 * 2 ^ 36)) (aStack 7 0) (2 ^ 31) }
theorem inr_of {α β γ : Type} (p : α × (β ⊕ γ)) (h : p.2.isRight = true) : ∃ a c, p = (a, .inr c) := by
  obtain ⟨a, b | c⟩ := p
  · simp at h
  · exact ⟨a, c, rfl⟩

theorem pair_of {α β : Type} (p : α × β) (b : β) (h : p.2 = b) : p = (p.1, b) := by rw [← h]

theorem witness_CommandQueues :
    (fwRunning (queue 0 0 0) = true ∧ (List.range 256).any (fun i => ttEn (queue 0 0 0) i && ttQueue (queue 0 0 0) i == 0) = false ∧
      seqSub 64 (cqAcc (queue 0 0 0) 0) ≤ cqSize (queue 0 0 0) 0 ∧ cqSize (queue 0 0 0) 0 < seqSub 65 (cqAcc (queue 0 0 0) 0)) ∧
    cqEn fw 63 = false ∧
    (∃ c, cmdOf (withCmd { command 3 0 .accepted with remaining := 1 } (queue 1 1 0)) (cmdKey 0 (refSeq (queue 1 1 0) 0 0)) = some c ∧
      accepted (queue 1 1 0) (cmdKey 0 (refSeq (queue 1 1 0) 0 0)) = true ∧ c.remaining ≠ 0) ∧
    canAccept (queue 1 0 0) 0 = true ∧
    (∃ s, canAccept s 0 = true ∧ cmdInvalid (physLine s (cqBase s 0 + 64 * (cqAcc s 0 % cqSize s 0))) = false ∧
      ∀ e ∈ s.pendDec, e.2 ≠ cmdKey 0 (cqAcc s 0)) ∧
    (startableOf launcher 0 1 = some (0, command 1 0x10000 .accepted) ∧ freeLaunchSlot launcher = some 0 ∧
      startFirst launcher ((command 1 0x10000 .accepted).fld 32 8) = none ∧ ∃ s1 st, readStart (startCmd launcher 0) ((command 1 0x10000 .accepted).fld 32 8) false = (s1, .inr st)) ∧
    (startableOf (withCmd (command 2 0 .accepted) (queue 1 1 0)) 0 2 = some (0, command 2 0 .accepted) ∧
      (withCmd (command 2 0 .accepted) (queue 1 1 0)).copy = none ∧ (withCmd (command 2 0 .accepted) (queue 1 1 0)).copyQueue = []) ∧
    (∃ s c ls ld, s.copy = some c ∧ copyReady s = true ∧ copyFirst s c = none ∧
      sysXlate s (c.src + 64 * c.finished) false = .inr ls ∧ sysXlate s (c.dst + 64 * c.finished) true = .inr ld ∧
      c.finished + 1 < c.lines) ∧
    (startableOf (withCmd (command 3 0 .accepted) (queue 1 1 0)) 0 3 = some (0, command 3 0 .accepted) ∧
      (command 3 0 .accepted).fld 32 8 = 0) ∧
    startableOf (withCmd (command 4 0 .accepted) (queue 1 1 0)) 0 4 = some (0, command 4 0 .accepted) ∧
    (∃ s c s1, isWait s (cmdKey 0 0) = some c ∧ sysHeld s .acquire (c.fld 32 8) 8 = false ∧ sysFirst s .acquire (c.fld 32 8) 8 = none ∧ poll s c = (s1, some 0) ∧ s1.cmds = s.cmds) ∧
    (isWait (withCmd (command 4 0 .started) (queue 1 1 0)) (cmdKey 0 0) = some (command 4 0 .started) ∧
      (command 4 0 .started).fld 60 4 ≠ 0 ∧ (command 4 0 .started).succs = []) ∧
    (∃ s : State, ∃ e rest, takeFirst (fun e => relQueue e == 0 && canRetry s e) s.relWait = some (e, rest)) ∧
    (canRetire (withCmd { command 3 0 .finished with words := 3 } (queue 1 1 0)) 0 = some (0, { command 3 0 .finished with words := 3 }) ∧
      ({ command 3 0 .finished with words := 3 } : Cmd).staddr = 0) := by
  refine ⟨by decide +kernel, by decide, ⟨_, rfl, by decide, by decide⟩, by decide +kernel, ?_, ⟨by decide +kernel, by decide +kernel, by decide +kernel, ?_⟩,
    by decide +kernel, ?_, by decide +kernel, by decide +kernel, ?_, by decide +kernel, ?_, by decide +kernel⟩
  · exact ⟨{ queue 1 0 0 with mem := storeBytes [] 0 3 1 }, by decide +kernel⟩
  · exact inr_of _ (by decide +kernel)
  · exact ⟨launchable { queue 1 1 0 with copy := some ⟨0, 0, 0x10000, 2, 0, false⟩ }, _, _, _, rfl, by decide +kernel, by decide +kernel, rfl, rfl,
      by decide⟩
  · exact ⟨launchable (withCmd (command 4 0 .started) (queue 1 1 0)), command 4 0 .started,
      (poll (launchable (withCmd (command 4 0 .started) (queue 1 1 0))) (command 4 0 .started)).1, by decide +kernel, by decide +kernel,
      by decide +kernel,
      pair_of _ _ (by decide +kernel), by decide +kernel⟩
  · exact ⟨{ queue 1 1 0 with relWait := [(none, 0)] }, _, _, rfl⟩

/-- A request of group 0 for an address of page 1. -/
def asked : XReq := ⟨.group 0, 0, 0x10000, 0x10000, 0, 0, 0, 0, false, false, false, false, false, false⟩
def group0 (f : Group → Group) (s : State) : State := updGroup s 0 f
/-- Group 0 has broken at a walk, which has brought page 1's leaf. -/
def walked : State := { group0 (fun g => { g with status := .broken (.walk 0x10000) }) run0 with
  walks := [⟨asked, 3, 0x30000, false, some (.leaf ⟨0x10003, 0, 3⟩)⟩] }
/-- Group 0 has parked at entry 0 of tower 0. -/
def parked : State := { group0 (fun g => { g with status := .broken (.parked 0) }) { run0 with mgmt := (queue 0 0 0).mgmt } with
  parks := [(0, ⟨1, 5, [asked]⟩)] }

theorem witness_WalksAndFaults :
    (∃ s : State, ∃ w rest, takeFirst (fun w => w.out.isNone) s.walks = some (w, rest)) ∧
    (takeFirst (fun w => w.out.isSome) walked.walks = some (⟨asked, 3, 0x30000, false, some (.leaf ⟨0x10003, 0, 3⟩)⟩, []) ∧
      (∃ g, groupOf walked 0 = some g ∧ g.status = .broken (.walk asked.ia)) ∧
      (∃ l', pageCheck walked asked (.leaf ⟨0x10003, 0, 3⟩) = .ok l') ∧
      (walked.leaves.filter (fun (e : Nat × Leaf) => e.1 / 2 ^ 37 == asked.tower)).length < 8192) ∧
    (∃ s : State, takeFirst (fun (p : XReq × Nat × Leaf) => p.1.tower == 0) s.parkWait = some ((asked, 5, ⟨0, 0, 3⟩), []) ∧
      freePark s 0 = some 0 ∧ fqEnabled s 0 = true ∧ repeatCount s asked.who 5 ⟨0, 0, 3⟩ < 3 ∧
      s.parks.find? (fun (p : Nat × Park) => p.1 / 1024 == asked.tower && p.2.page == asked.ia / 2 ^ 16 && p.2.sub == 5) = none) ∧
    (∃ s : State, takeFirst (fun (r : FRec) => r.tower == 1) s.frecs = some (⟨1, none, 0, 0⟩, []) ∧ (fqcfg s 1).testBit 31 = false) ∧
    (∃ s : State, takeFirst (fun (r : FRec) => r.tower == 1) s.frecs = some (⟨1, none, 0, 0⟩, []) ∧ (fqcfg s 1).testBit 31 = true ∧
      seqSub (mreg s (aFault 1 0x14)) (mreg s (aFault 1 0x18)) < 2 ^ field (fqcfg s 1) 4 0) ∧
    (∃ s : State, takeFirst (fun (r : FRec) => r.tower == 1) s.frecs = some (⟨1, none, 0, 0⟩, []) ∧ (fqcfg s 1).testBit 31 = true ∧
      2 ^ field (fqcfg s 1) 4 0 ≤ seqSub (mreg s (aFault 1 0x14)) (mreg s (aFault 1 0x18))) ∧
    (fwRunning fw = true ∧ (fqcfg fw 1).testBit 31 = false ∧ 6 ≤ field (0x400E : Word).toNat 4 0 ∧ field (0x400E : Word).toNat 4 0 ≤ 14 ∧
      field (0x400E : Word).toNat 15 8 ≤ 64 ∧ field (5 : Word).toNat 4 0 < 6) ∧
    mget fw.parks (1 * 1024 + (1023 : BitVec 10).toNat) = none ∧
    (fwRunning parked = true ∧ mget parked.parks (0 * 1024 + (0 : BitVec 10).toNat) = some ⟨1, 5, [asked]⟩ ∧ asked.fetch = false ∧
      ∃ g, groupOf parked 0 = some g ∧ g.status = .broken (.parked (0 * 1024 + (0 : BitVec 10).toNat))) := by
  refine ⟨⟨{ State.reset with walks := [⟨asked, 0, 0, false, none⟩] }, _, _, rfl⟩, ⟨by decide, ⟨_, rfl, by decide⟩, ⟨_, rfl⟩, by decide⟩, ?_, ?_,
    ?_, ?_, by decide, by decide, by decide, by decide, by decide, ⟨_, rfl, by decide⟩⟩
  · exact ⟨{ queue 0 0 0 with parkWait := [(asked, 5, ⟨0, 0, 3⟩)] }, by decide +kernel⟩
  · exact ⟨{ State.reset with frecs := [⟨1, none, 0, 0⟩] }, by decide +kernel⟩
  · exact ⟨{ queue 0 0 0 with frecs := [⟨1, none, 0, 0⟩] }, by decide +kernel⟩
  · exact ⟨{ setMreg (queue 0 0 0) (aFault 1 0x14) 1024 with frecs := [⟨1, none, 0, 0⟩] }, by decide +kernel⟩

/-- A bank-side command of an operation, queued at bank 0 of stack 0. -/
def bankCmd (op : NmoKind) (q : Bool) : BankCmd := ⟨7, some 0, 0, ⟨3, 0, 3⟩, op, 1, 2, 0, 0, 15, .none, 0, q⟩
def banked (op : NmoKind) (q : Bool) : State := { State.reset with bankCmds := [bankCmd op q] }

theorem witness_DeadRegionsAndBankCommands :
    (fwRunning fw = true ∧ (stackUnit fw 7).busy = false) ∧
    (∃ s : State, fwRunning s = true ∧ (stackUnit s 7).busy = true) ∧
    (takeFirst (fun b => !b.queued && !cmdWaits (banked .addF32 false) b) (banked .addF32 false).bankCmds = some (bankCmd .addF32 false, []) ∧
      stackState (banked .addF32 false) (stackOf (bankCmd .addF32 false).pa) = 0) ∧
    (∀ op ∈ [NmoKind.saccBf16, .cas32, .cas64], retraining (banked op true) 0 = false ∧
      takeFirst (fun b => b.queued && bankOf b.pa == 4096 * 0 + 0) (banked op true).bankCmds = some (bankCmd op true, []) ∧
      isHbm (bankCmd op true).pa = true ∧ (dramRead (banked op true) (bankCmd op true).pa (bankCmd op true).leaf.key).2 = 0 ∧
      rowDead (banked op true) (bankCmd op true).pa = false) ∧
    ((bankCmd .saccBf16 true).mask ≠ 0 ∧ (banked .saccBf16 true).memOk) ∧
    (nmoLine (bankCmd .cas32 true) (dramRead (banked .cas32 true) (bankCmd .cas32 true).pa (bankCmd .cas32 true).leaf.key).1).1 =
      (dramRead (banked .cas32 true) (bankCmd .cas32 true).pa (bankCmd .cas32 true).leaf.key).1 := by
  refine ⟨by decide, ⟨{ fw with hbmStacks := [(7, { Stack.reset with busy := true })] }, by decide⟩, by decide +kernel, by decide +kernel, ⟨by decide, rfl⟩, by decide +kernel⟩

/-- Stack 0's pool has one save slot. -/
def pooled (s : State) : State := { s with mgmt := mset s.mgmt (aDist 0 0x30) 1 }
/-- Engine 0 holds an entry of launch 0, which has one more block. -/
def entry (k : EntKind) : QEnt := ⟨0, 0, k, 0, true, false⟩
def engine0 (f : Engine → Engine) (s : State) : State := updEngine s 0 f
def queued (k : EntKind) (s : State) : State := engine0 (fun e => { e with entries := [entry k] }) s
def launch0 (f : Launch → Launch) (s : State) : State := updLaunch s 0 f
/-- Launch 0 is a gang of two members, and engine 0 places its instance 3 in column 0. -/
def ganged : State := pooled <| engine0 (fun e => { e with placing := some ⟨0, 0, [], []⟩ })
  (queued (.gang 3) (launch0 (fun l => { l with kernels := l.kernels ++ l.kernels, gang := true }) run0))

theorem witness_DistributionEvents :
    (∃ l, launchOf (launch0 (fun l => { l with blocks := 17 }) run0) 0 = some l ∧ l.ended = none ∧ l.handler = false ∧
      l.dealt < l.blocks) ∧
    (handoffNext { run0 with dealtTo := [(1, entry (.batch 0 16))] } 1 = some (entry (.batch 0 16), [], 12) ∧
      handoffKinds { run0 with dealtTo := [(1, entry (.batch 0 16))] } (entry (.batch 0 16)) = [.batch 0 16]) ∧
    ((∀ b ∈ (queued (.batch 5 2) (pooled run0)).blocks, b.2.state ≠ .saved) ∧ (engineOf (queued (.batch 5 2) (pooled run0)) 0).placing = none ∧ (engineOf (queued (.batch 5 2) (pooled run0)) 0).claim = none ∧
      engineOrder (engineOf (queued (.batch 5 2) (pooled run0)) 0).entries = [entry (.batch 5 2)] ∧ entHeld (queued (.batch 5 2) (pooled run0)) (entry (.batch 5 2)) = false ∧
      needsClaim (queued (.batch 5 2) (pooled run0)) (entry (.batch 5 2)) = none ∧ (entCore (queued (.batch 5 2) (pooled run0)) 0 (entry (.batch 5 2))).isSome = true ∧
      ∃ l kn, launchOf (queued (.batch 5 2) (pooled run0)) 0 = some l ∧ l.kernels.head? = some kn ∧ kn.regions = []) ∧
    ((∀ q ∈ (engineOf (queued (.batch 5 2) (pooled run0)) 0).entries, q.blocking = false) ∧
      entry (.batch 5 2) ∈ (engineOf (queued (.batch 5 2) (pooled run0)) 0).entries ∧ (entry (.batch 5 2)).passed = true) ∧
    (∃ p x cls core, (engineOf ganged 0).placing = some p ∧
      (engineOf ganged 0).entries.find? (fun q => q.id == p.ent) = some (entry (.gang 3)) ∧
      (gangShapes ganged (entry (.gang 3)))[p.reserved.length]? = some (x, cls) ∧ memberCore ganged p.col ((gangShapes ganged (entry (.gang 3))).drop p.reserved.length) = some core ∧
      p.reserved.length + 1 < (gangShapes ganged (entry (.gang 3))).length) ∧
    ((engineOf (queued (.batch 0 16) run0) 0).entries = [entry (.batch 0 16)] ∧ entBlocks (queued (.batch 0 16) run0) (entry (.batch 0 16)) = 16 ∧
      movable (queued (.batch 0 16) run0) 0 (entry (.batch 0 16)) = true ∧
      field (dscfg run0 0) 7 0 ≠ 0 ∧ field (dscfg run0 0) 15 8 ≠ 0 ∧ engineBlocks (queued (.batch 0 16) run0) 1 + field (dscfg run0 0) 7 0 ≤ 16 ∧
      2 ≤ 16 - engineBlocks (queued (.batch 0 16) run0) 1) ∧
    arrivalNext { run0 with transit := [(0, 1, entry (.batch 0 2))] } = some ((0, 1, entry (.batch 0 2)), []) ∧
    ((launchOf run0 (416 / 1024)).isSome = true ∧ 415 % 1024 ≠ 0) ∧
    (∃ l, launchOf run0 (0 / 1024) = some l ∧ l.handler = false ∧ l.ended = none ∧ nget run0.tree (0 / 1024 * 1024) = 0) ∧
    (takeFirst (fun (m : Nat × Nat) => !run0.treeMsgs.any (fun x => x.2 && x.1 / 1024 == m.1 / 1024)) { run0 with moves := [(4, 1)] }.moves).isSome =
      true := by
  refine ⟨⟨_, rfl, by decide, by decide, by decide⟩, by decide +kernel, ?_, by decide, ?_, by decide, by decide, by decide, ⟨_, rfl, by decide, by decide, by decide⟩,
    by decide⟩
  · refine ⟨by decide, by decide, by decide, by decide, by decide, by decide, by decide +kernel, _, _, rfl, rfl, rfl⟩
  · obtain ⟨core, h⟩ := Option.isSome_iff_exists.mp (show (memberCore ganged 0 ((gangShapes ganged (entry (.gang 3))).drop 0)).isSome = true by decide +kernel)
    exact ⟨⟨0, 0, [], []⟩, _, _, core, rfl, rfl, rfl, h, by decide⟩

theorem witness_SavesAndRestores :
    (∃ s b, blockOf s 0 = some b ∧ b.core = some 0 ∧ saveReady s 0 = true ∧ (saveSlotFor s (coreCol 0)).isSome = true) ∧
    (∃ s b, blockOf s 0 = some b ∧ b.core = some 0 ∧ b.saveSlot = some 0 ∧ b.state = .saving ∧ saveDone s b = true ∧
      evacuated s 0 = false ∧ s.engines = []) ∧
    (∃ s b, blockOf s 0 = some b ∧ b.core = some 0 ∧ b.saveSlot = some 0 ∧ b.state = .restoring ∧
      retraining s (0 / 256) = false ∧
      stackState s (0 / 256) = 0 ∧ physRead s (saveAddr s 0) 8 = b.check.toNat) ∧
    (∃ s b l, blockOf s 0 = some b ∧ b.core = some 0 ∧ b.saveSlot = some 0 ∧ b.state = .restoring ∧
      physRead s (saveAddr s 0) 8 ≠ b.check.toNat ∧ launchOf s b.launch = some l ∧ l.handler = false ∧ l.ended = none) ∧
    (∃ s b, blockOf s 0 = some b ∧ (coreOf s 0).issuing = none ∧ (saveSlotFor s (coreCol 0)).isSome = true ∧ (∀ m ∈ s.migs, m.2.block ≠ 0) ∧
      resident s 0 = [(0, b)] ∧ b.state = .running ∧ b.spill = false ∧ ∃ k g n, (k, g) ∈ blockGroups s b 0 ∧ g.status = .broken (.rows n)) := by
  refine ⟨⟨pooled { block0 (fun b => { b with state := .stopping }) run0 with groups := [] }, _, rfl, rfl, by decide, by decide⟩,
    ⟨block0 (fun b => { b with state := .saving, saveSlot := some 0 }) run0, _, rfl, rfl, rfl, rfl, by decide, by decide, rfl⟩,
    ⟨block0 (fun b => { b with state := .restoring, saveSlot := some 0 }) run0, _, rfl, rfl, rfl, rfl, by decide, by decide, by decide +kernel⟩,
    ⟨block0 (fun b => { b with state := .restoring, saveSlot := some 0, check := 1 }) run0, _, _, rfl, rfl, rfl, rfl, by decide +kernel, rfl, rfl, rfl⟩,
    ⟨pooled (core0 (fun c => { c with issuing := none }) (group0 (fun g => { g with status := .broken (.rows 1) }) run0)), _, rfl, rfl, by decide,
      by decide, rfl, rfl, rfl, 0, _, 1, List.Mem.head _, rfl⟩⟩

/-- Engine 0 holds a claim of block 1 of launch 0, which is bound to tiles at 64 KiB. -/
def claiming (w : Option Nat) : State := engine0 (fun e => { e with claim := some (0, 1, w), answer := some 5 })
  (launch0 (fun l => { l with bind := some ⟨0x10000, 0x10040, 0, 0x10080, 4⟩ }) run0)
def stealing (phase : Nat) : State := engine0 (fun e => { e with answer := some 5, steal := some ⟨0, 0, 0, 9, 0x10000, 4, 0, 1, 1, 0, 5, phase⟩ })
  (launch0 (fun l => { l with bind := some ⟨0x10000, 0x10040, 0, 0x10080, 4⟩ }) run0)
def stolen (phase : Nat) : State := block0 (fun b => { b with state := .done, stolen := some ⟨9, 0, 0x10000, 7, 0, 0, phase⟩ }) run0

theorem witness_TasksAndTiles :
    (∃ (s : State) (b : Block), mgetD s.goats 383 [] = 0 :: [] ∧ blockOf s 0 = some b ∧ b.task = some 5 ∧ b.state = .done ∧ strayOut s b.launch = false) ∧
    ((engineOf (claiming none) 0).steal = none ∧ (engineOf (claiming none) 0).jobs = [] ∧ (engineOf (claiming none) 0).stores = [] ∧
      (engineOf (claiming none) 0).claim = some (0, 1, none) ∧
      ∃ l d s1 v, launchOf (claiming none) 0 = some l ∧ l.bind = some d ∧
        engineAccess (claiming none) 0 0 (d.tiles + 16 * 1) 8 (.cas (tileWord 0 ownPkg 1) (tileWord 1 ownPkg 1)) false = .val s1 v) ∧
    (engineOf (claiming (some 5)) 0).claim = some (0, 1, some 5) ∧
    (∃ x l d s1 v, (engineOf (stealing 6) 0).steal = some x ∧ launchOf (stealing 6) x.launch = some l ∧ l.bind = some d ∧ x.phase = 6 ∧
      engineAccess (stealing 6) 0 x.launch (x.tiles + 16 * x.entry) 8 (.cas (tileWord 0 x.pkg x.entry) (tileWord 1 ownPkg x.entry)) false = .val s1 v) ∧
    (∃ x kn, (engineOf (stealing 7) 0).steal = some x ∧ x.phase = 7 ∧ (launchOf (stealing 7) x.launch).bind (fun l => l.kernels.head?) = some kn ∧
      (engineOf (stealing 7) 0).placing = none) ∧
    (∃ b x, blockOf (stolen 0) 0 = some b ∧ b.stolen = some x ∧ b.state = .done ∧ x.phase = 0) ∧
    (∃ b x, blockOf (stolen 1) 0 = some b ∧ b.stolen = some x ∧ b.state = .done ∧ x.phase = 1 ∧ stolenReleased (stolen 1) x.col = true) ∧
    (∃ l, launchNamed (launch0 (fun l => { l with stolen := [3] }) run0) 0 = some (0, l) ∧ l.stolen.contains 3 = true) ∧
    ((stolen 3).blocks.find? (fun (b : Nat × Block) => b.2.index == 0 && b.2.stolen.elim false (fun x => x.cmd == 7 && x.phase == 3))).isSome = true ∧
    (∃ (s : State) (l : Launch), launchOf s 0 = some l ∧ launchPast s 0 l = true ∧ slotInUse s 0 = false) := by
  refine ⟨⟨block0 (fun b => { b with task := some 5, state := .done }) { run0 with goats := [(383, [0])] }, _, by decide, rfl, rfl, rfl, by decide⟩,
    ⟨by decide, by decide, by decide, by decide, _, _, _, _, rfl, rfl, rfl⟩, by decide, ⟨_, _, _, _, _, rfl, rfl, rfl, rfl, rfl⟩,
    ⟨_, _, rfl, rfl, rfl, rfl⟩, ⟨_, _, rfl, rfl, rfl, rfl⟩, ⟨_, _, rfl, rfl, rfl, rfl, by decide⟩, ⟨_, rfl, by decide⟩, by decide,
    ⟨launch0 (fun l => { l with ended := some 0 }) { run0 with blocks := [] }, _, rfl, by decide, by decide⟩⟩

/-! An instruction of 16 lanes issues alone at 0x10004. -/
def issuing : State := { run0 with cur := some ⟨0, 0, w64 placedPc, 8⟩ }
/-- Its context, guarded by p0. -/
def ctxOf (s : State) : Ctx := (issueCtx s 0 false).getD ⟨0, 0, freshGroup 0 0 16 0 [] [] 0, ⟨0, 0, 0, 0, none⟩, none, 0, 0, 0, 0, []⟩
def ctx0 : Ctx := ctxOf issuing
def cE : Ctl := ⟨true, 0, false⟩

theorem issues : issueCtx issuing 0 false = some ctx0 := rfl

/-- The conditions of `Ready`, as one decidable test. -/
def readyB (s : State) (c : Ctx) (charged : Bool) (srcs : List Opnd) (others : List AReg) (rows : List Nat) : Bool :=
  decide (c.r.start < 64) && decide (c.r.active ≠ 0) && decide (c.r.count < 24) &&
  (srcs.flatMap Opnd.regs ++ others ++ rows.map AReg.v).all (fun r => !awaits c.g r && !lacks c.g r) &&
  (!charged || decide (c.g.exempt ≠ 0) || decide ((coreOf s c.core).charge < budgetValue s c.core)) &&
  (decide (c.mask = 0) || decide (newRows c.g rows = 0) ||
    (decide (c.g.vregs.length + newRows c.g rows ≤ peakRows s c.g) && (c.g.super || rowsFit s c.core c.g.block (newRows c.g rows)))) &&
  (decide (c.latch ≠ []) || decide (shortQueue c.g (srcs.flatMap Opnd.pops) = none)) && srcs.all (fun o => !o.odd)

theorem ready_of {s : State} {c : Ctx} {charged : Bool} {srcs : List Opnd} {others : List AReg} {rows : List Nat}
    (h : readyB s c charged srcs others rows = true) : Ready s c charged srcs others rows := by
  simp only [readyB, Bool.and_eq_true, Bool.or_eq_true, decide_eq_true_eq, List.all_eq_true, Bool.not_eq_true'] at h
  obtain ⟨⟨⟨⟨⟨⟨⟨h1, h2⟩, h3⟩, h4⟩, h5⟩, h6⟩, h7⟩, h8⟩ := h
  refine ⟨h1, h2, h3, h4, ?_, ?_, h7, h8⟩
  · intro hc
    rcases h5 with (h | h) | h
    · rw [hc] at h; cases h
    · exact .inl h
    · exact .inr h
  · rcases h6 with (h | h) | h
    · exact .inl h
    · exact .inr (.inl h)
    · exact .inr (.inr h)

theorem witness_IntegerArithmetic :
    (Instr.iadd c0 true ⟨.s64, .v 382, .v 0 true, .imm (-256)⟩).wf = true ∧ (DestReg.ofReg (.v 382) true).odd = false ∧
    Ready issuing ctx0 true [⟨.v 0 true, true⟩, ⟨.imm (-256), true⟩] (DestReg.ofReg (.v 382) true).regs (DestReg.ofReg (.v 382) true).rows ∧
    (Instr.imad c0 false ⟨.z8, .s 127, .s 0, .s 1, .s 2⟩).wf = true ∧
    Ready issuing ctx0 true [⟨.s 0, false⟩, ⟨.s 1, false⟩, ⟨.s 2, false⟩] (DestReg.ofReg (.s 127) false).regs [] ∧
    (Instr.iabs c0 true ⟨.s8, .v 383, .s 0⟩).wf = true ∧ (Instr.imulhShort ⟨.z32, 0, false, 1, 2, false⟩).wf = true ∧
    reachD ctx0.pre 127 < 384 := by
  refine ⟨by decide, by decide, ready_of (by decide +kernel), by decide, ready_of (by decide +kernel), by decide, by decide, by decide⟩

theorem witness_LogicAndCounts :
    (Instr.and c0 ⟨.z64, .v 0, .s 0, .s 1⟩).wf = true ∧ (Instr.clz c0 ⟨.z8, .v 383, .v 383 true⟩).wf = true ∧
    issueCtx issuing 0 false = some ctx0 ∧
    Ready issuing ctx0 true [⟨.v 383 true, false⟩] (DestReg.ofReg (.v 383) false).regs (DestReg.ofReg (.v 383) false).rows := by
  refine ⟨by decide, by decide, issues, ready_of (by decide +kernel)⟩

theorem witness_ShiftsAndFields :
    (Instr.shl c0 ⟨.s8, .v 0, .v 1 false, .imm (-1)⟩).wf = true ∧ (Instr.bfi c0 ⟨.z64, .v 2, .v 4 false, .s 0, .v 6⟩).wf = true ∧
    Ready issuing ctx0 true [⟨.v 4 false, true⟩, ⟨.s 0, true⟩, ⟨.v 6 false, true⟩] (DestReg.ofReg (.v 2) true).regs [2, 3] := by
  refine ⟨by decide, by decide, ready_of (by decide +kernel)⟩

theorem witness_CompareSelectMove :
    (Instr.icmp c0 .lt .s32 15 (.v 0 false) (.imm 255)).wf = true ∧ (15 : Fin 384).val < 16 ∧
    Ready issuing ctx0 true [⟨.v 0 false, false⟩, ⟨.imm 255, false⟩] (DestReg.p 15).regs (DestReg.p 15).rows ∧
    (Instr.sel c0 .s64 382 (.s 0) (.s 1) 15).wf = true ∧ (15 : BitVec 9).toNat < 16 ∧
    Ready issuing ctx0 true [⟨.s 0, true⟩, ⟨.s 1, true⟩] (DestReg.v 382 true).regs (DestReg.v 382 true).rows ∧
    (Instr.movi c0 .k30 (.s 127) 0x20000000).wf = true ∧ c0.plain = true ∧ (15 : BitVec 30).toNat < 16 ∧ (3 : BitVec 30).toNat < 4 ∧
    (Instr.lea c0 7 ⟨.z32, .v 382, .v 0 false, .s 0⟩).wf = true := by
  refine ⟨by decide, by decide, ready_of (by decide +kernel), by decide, by decide, ready_of (by decide +kernel), by decide, by decide, by decide, by decide, by decide⟩

/-- The same instruction guarded by p1, which is 0 in every lane. -/
def emptied (s : State) : Ctx := (issueCtx s 1 false).getD (ctxOf s)
def emptyCtx : Ctx := emptied issuing

theorem witness_Predicates :
    (0 : BitVec 9).toNat < 16 ∧ (15 : BitVec 9).toNat < 16 ∧
    Ready issuing ctx0 false [] ([] ++ (DestReg.p 15).regs) (DestReg.p 15).rows ∧ ctx0.full ≠ 0 ∧
    issueCtx issuing 1 false = some emptyCtx ∧ emptyCtx.full = 0 ∧ Ready issuing emptyCtx false [] [.s 127] [] := by
  refine ⟨by decide, by decide, ready_of (by decide +kernel), by decide +kernel, rfl, by decide +kernel, ready_of (by decide +kernel)⟩

theorem witness_FloatArithmetic :
    (Instr.fadd c0 ⟨.f16x2, ⟨true, true, true⟩, .v 383, .v 0 true, .s 0⟩).wf = true ∧
    Ready issuing ctx0 true [⟨.v 0 true, false⟩, ⟨.s 0, false⟩] (DestReg.ofReg (.v 383) false).regs (DestReg.ofReg (.v 383) false).rows ∧
    (∀ l ∈ ctx0.resultLanes (.v 383 false), (lanePair .f16x2 ctx0.env false l (fun e => numAdd false
      (element .f16x2 ctx0.env true true (v1 (ctx0.vals [⟨.v 0 true, false⟩, ⟨.s 0, false⟩] l)) e)
      (element .f16x2 ctx0.env true false (v2 (ctx0.vals [⟨.v 0 true, false⟩, ⟨.s 0, false⟩] l)) e))).2 &&& ctx0.g.frnd.ten.toNat = 0) ∧
    (Instr.ffma c0 ⟨.f32, ⟨false, false, false⟩, .s 0, .s 1, .s 2⟩ (.s 3)).wf = true ∧
    (Instr.fcmp c0 .ord .bf16 15 (.v 0 false) (.q 7)).wf = true := by
  refine ⟨by decide, ready_of (by decide +kernel), by decide +kernel, by decide, by decide⟩

theorem witness_FloatFunctions :
    (Instr.fsin c0 ⟨.bf16x2, true, true, .v 0, .v 0 true⟩).wf = true ∧
    Ready issuing ctx0 true [⟨.v 0 true, false⟩] (DestReg.ofReg (.v 0) false).regs (DestReg.ofReg (.v 0) false).rows ∧
    (∀ l ∈ ctx0.resultLanes (.v 0 false), (lanePair .bf16x2 ctx0.env false l (fun e =>
      fSin (element .bf16x2 ctx0.env true true (v1 (ctx0.vals [⟨.v 0 true, false⟩] l)) e))).2 &&& ctx0.g.frnd.ten.toNat = 0) := by
  refine ⟨by decide, ready_of (by decide +kernel), by decide +kernel⟩

theorem witness_Conversions :
    (Instr.cvt c0 (.fromi .z64) (.v 0) (.v 382 true)).wf = true ∧ (Instr.cvtShort ⟨.vf4, 0, false, 0, 0, true⟩).wf = true ∧
    ((Instr.pack c0 3 .h4 383 (.v 0 false) (.s 0)).wf = true ∧ (2 * (3 : BitVec 3).toNat + 2) * efWidth .h4 ≤ 32) ∧
    ((Instr.unpack c0 1 .f16 0 (.v 0 true)).wf = true ∧ (1 : BitVec 3).toNat * efWidth .f16 < 32) ∧
    ((Instr.qnt c0 true 382 (.v 0 false) 127).wf = true ∧ (382 : Fin 384).val % 2 = 0 ∧
      Ready issuing ctx0 true [⟨.v 0 false, false⟩, ⟨.s 127, false⟩] [.v 382, .v 383] [382, 383]) ∧
    ∀ k, k < 8 → (qntBlock true { ctx0.env with sat := 0 } (decFmt fmtB16 (sreg ctx0.g 127 % 2 ^ 16))
      (qntLanes { ctx0.env with sat := 0 } ctx0.full (fun l => v1 (ctx0.vals [⟨.v 0 false, false⟩, ⟨.s 127, false⟩] l)) k)).2.2 &&&
        ctx0.g.frnd.ten.toNat = 0 := by
  refine ⟨by decide, by decide, by decide, by decide, ⟨by decide, by decide, ready_of (by decide +kernel)⟩, by decide +kernel⟩

theorem witness_LaneOperations :
    (Instr.shfl c0 .off 0 (.v 1 true) (.reg (.s 0) 15)).wf = true ∧ ((Instr.bcast c0 (.s 0) (.v 0 false) (.imm 63)).wf = true ∧ ctx0.mask ≠ 0) ∧
    (Instr.carry c0 2 383 (.q 0) (.s 0 0)).wf = true ∧ ((15 : Fin 384).val < 16 ∧ (15 : BitVec 9).toNat < 16) ∧
    Ready issuing ctx0 true [] [.s 127] [] ∧ (Instr.permb c0 .idx 0 (.v 0 false) 126).wf = true ∧
    ((Instr.scan c0 .add .f32 0 (.v 0 false)).wf = true ∧ (Instr.fold c0 .xor .z32 (.s 0) (.v 0 false)).wf = true) ∧
    ((laneList ctx0.full).foldl (fun (st : Nat × Nat) l =>
      let x := redStep .add .f32 { ctx0.env with sat := 0, flush := false } l st.1 (v1 (ctx0.vals [⟨.v 0 false, false⟩] l))
      (x.1, st.2 ||| x.2)) (redIdentity .add .f32, 0)).2 &&& ctx0.g.frnd.ten.toNat = 0 ∧ (Instr.lid c0 true (.s 0)).wf = true := by
  refine ⟨by decide, ⟨by decide, by decide +kernel⟩, by decide, by decide, ready_of (by decide +kernel), by decide, by decide, by decide +kernel, by decide⟩

/-- The same group in front of a prefix with E 1, so that the next address begins a run; page 1 is mapped. -/
def ended : State := { placeWord State.reset (4 * 2 ^ 32 + 4) with cur := some ⟨0, 0, w64 placedPc, 4⟩ }

theorem witness_ControlTransfers :
    cE.e = true ∧ issueCtx ended 0 false = some (ctxOf ended) ∧ Ready ended (ctxOf ended) false [] [] [] ∧
    (∀ l, l < 16 → inMask (ctxOf ended).mask l = true ∧
      targetMiss ended (ctxOf ended).key (ctxOf ended).g ((ctxOf ended).pc + 4 * (1 : BitVec 30).signExtend 64) = none ∧
      targetOk ended (ctxOf ended).key (ctxOf ended).g ((ctxOf ended).pc + 4 * (1 : BitVec 30).signExtend 64) = true) ∧
    cE.plain = true := by
  refine ⟨rfl, rfl, ready_of (by decide +kernel), by decide +kernel, rfl⟩

theorem witness_PrefixAndPauses :
    issueCtx issuing 0 false = some ctx0 ∧ ctx0.r.pre = none ∧ Ready issuing ctx0 false [] [] [] ∧ c0.plain = true ∧
    (4095 : BitVec 12) ≠ 0 := by
  refine ⟨issues, by decide +kernel, ready_of (by decide +kernel), rfl, by decide⟩

/-- One lane of two exits: the group's guard p1 holds lane 0 only. -/
def exiting : State := group0 (fun g => setPreg g 1 1) issuing
def exitCtx : Ctx := (issueCtx exiting 1 false).getD ctx0
/-- A request of column 0 is on its way. -/
def sent : Req := ⟨0, 0, some 0, .load, 0, 0, .wt, .pkg, .normal, false, false, .none, ⟨0x10003, 0, 3⟩, none, 0, true⟩
def leaving : State := { issuing with reqs := [sent], reqNo := 1 }

theorem witness_Exit :
    (issueCtx exiting 1 false = some exitCtx ∧ exitCtx.g.handler = none ∧ Ready exiting exitCtx false [] [] [] ∧
      (laneAt exitCtx.g 15).live = true ∧ inMask exitCtx.mask 15 = false) ∧
    (issueCtx leaving 0 false = some (ctxOf leaving) ∧ Ready leaving (ctxOf leaving) false [] [] [] ∧
      (∀ l, l < 64 → (laneAt (ctxOf leaving).g l).live = true → inMask (ctxOf leaving).mask l = true) ∧
      (∀ b, blockOf leaving (ctxOf leaving).g.block = some b → b.task = none) ∧
      outstanding leaving (some (coreCol (keyCore (ctxOf leaving).key))) leaving.reqNo = true) := by
  refine ⟨⟨rfl, by decide +kernel, ready_of (by decide +kernel), by decide +kernel, by decide +kernel⟩, rfl, ready_of (by decide +kernel),
    by decide +kernel, ?_, by decide +kernel⟩
  intro b h
  cases h
  rfl

/-- The scalar s0 of group 0 holds an address of page 1. -/
def addressed : State := group0 (fun g => setSreg g 0 0x10040) issuing
/-- Column 0 owns the line of that address. -/
def owned : L1Line := ⟨.e, 0, 2 ^ 64 - 1, 5, .normal, 0, 0, ⟨0x10003, 0, 3⟩⟩
def holding : State := { addressed with l1 := [(l1Key 0 1025, owned)] }
def page1 : Leaf := ⟨0x10003, 0, 3⟩
/-- A translation that leaves its state answers an intermediate address and a leaf. -/
def answers (x : XRes) (s : State) (ia : Nat) (leaf : Leaf) : Bool :=
  match x with
  | .ok t a l _ => decide (t = s) && a == ia && decide (l = leaf)
  | _ => false

theorem ok_of {x : XRes} {s : State} {ia : Nat} {leaf : Leaf} (h : answers x s ia leaf = true) : ∃ r, x = .ok s ia leaf r := by
  cases x with
  | ok t a l r => simp [answers] at h; obtain ⟨⟨rfl, rfl⟩, rfl⟩ := h; exact ⟨r, rfl⟩
  | _ => simp [answers] at h

theorem reaches_of {s : State} {c : Ctx} {va n : Nat} {k : AKind} {ia : Nat} {leaf : Leaf}
    (h : (decide (va % n = 0 ∧ ia % n = 0) && answers (laneXlate c s va n k false false) s ia leaf &&
      decide (let pa := homePa leaf (homeKey leaf (ia / 64) (colTower (coreCol c.core)));
        isHbm pa = true → stackState s (stackOf pa) = 0)) = true) : Reaches s c va n k ia leaf := by
  simp only [Bool.and_eq_true, decide_eq_true_eq] at h
  exact ⟨h.1.1.1, h.1.1.2, ok_of h.1.2, h.2⟩

def plainForm : MForm := ⟨0, none, .normal, none⟩

theorem witness_Loads :
    (Instr.ld c0 .s16 plainForm (.s 3) (.s 0) 0).wf = true ∧ issueCtx holding 0 false = some (ctxOf holding) ∧
    issueCtx addressed 0 false = some (ctxOf addressed) ∧
    Ready holding (ctxOf holding) true [⟨.s 0, true⟩] (DestReg.ofReg (.s 3) false).regs (sizeRows (.s 3) 2) ∧
    Ready addressed (ctxOf addressed) true [⟨.s 0, true⟩] (DestReg.ofReg (.v 4) false).regs (sizeRows (.v 4) 16) ∧
    sizedRegs (.v 4) 16 ∧
    (Reaches holding (ctxOf holding) ((ctxOf holding).va (.s 0) 0 0) 2 .read 0x10040 page1 ∧
      ∃ x, Owned holding 0 page1 0x10040 2 x) ∧
    ∀ l ∈ laneList (ctxOf addressed).mask,
      Reaches addressed (ctxOf addressed) ((ctxOf addressed).va (.s 0) 0 l) 16 .read 0x10040 page1 ∧
        l1Get addressed 0 (0x10040 / 64) = none := by
  refine ⟨by decide, rfl, rfl, ready_of (by decide +kernel), ready_of (by decide +kernel), ⟨by decide, by decide⟩, ⟨reaches_of (by decide +kernel), ?_⟩, ?_⟩
  · exact ⟨owned, by decide, ⟨by decide, by decide⟩, rfl, .inl rfl, by decide, by decide⟩
  · have h : ∀ l ∈ laneList (ctxOf addressed).mask, (ctxOf addressed).va (.s 0) 0 l = 0x10040 := by decide +kernel
    intro l hl
    rw [h l hl]
    exact ⟨reaches_of (by decide +kernel), by decide⟩

theorem witness_Stores :
    (Instr.st c0 .b128 plainForm (.v 380) (.s 0) 0).wf = true ∧ (Instr.st c0 .b8 plainForm (.s 3) (.s 0) 0).wf = true ∧
    issueCtx holding 0 false = some (ctxOf holding) ∧ (ctxOf holding).g.pendingOrd = [] ∧ uncommitted holding (ctxOf holding).g = false ∧
    coreCol (ctxOf holding).core < 384 ∧ sizedRegs (.v 380) 16 ∧
    Ready holding (ctxOf holding) true [⟨.s 0, true⟩] ((sizeRows (.v 380) 16).map .v) [] ∧
    (∀ l ∈ laneList (ctxOf holding).mask, Reaches holding (ctxOf holding) ((ctxOf holding).va (.s 0) 0 l) 16 .write 0x10040 page1) ∧
    (page1.repl = false ∧ policyOf holding none page1 0x10040 true ≠ .wt ∧ holding.home = [] ∧ ∃ x, Owned holding 0 page1 0x10040 16 x) ∧
    issueCtx addressed 0 false = some (ctxOf addressed) ∧ Ready addressed (ctxOf addressed) true [⟨.s 0, true⟩] [.s 3] [] ∧
    (Reaches addressed (ctxOf addressed) ((ctxOf addressed).va (.s 0) 0 0) 1 .write 0x10040 page1 ∧
      l1Get addressed 0 (0x10040 / 64) = none ∧ policyOf addressed none page1 0x10040 true ≠ .sinv ∧
      ∀ e ∈ columnLines addressed 0, e.2.st = .u → e.2.dirty = 0) := by
  refine ⟨by decide, by decide, rfl, rfl, by decide, by decide, ⟨by decide, by decide⟩, ready_of (by decide +kernel), ?_,
    ⟨by decide, by decide, rfl, owned, by decide, ⟨by decide, by decide⟩, rfl, .inl rfl, by decide, by decide⟩, rfl, ready_of (by decide +kernel),
    reaches_of (by decide +kernel), by decide, by decide, by decide⟩
  have h : ∀ l ∈ laneList (ctxOf holding).mask, (ctxOf holding).va (.s 0) 0 l = 0x10040 := by decide +kernel
  intro l hl
  rw [h l hl]
  exact reaches_of (by decide +kernel)

/-- A group of one lane. -/
def lone (s : State) : State := group0 (fun g => { g with run := some ⟨1, w64 placedPc, 0, 0, none⟩ }) s

def answersBy (x : XRes) (s : State) (ia : Nat) (leaf : Leaf) (p : RangeReg → Bool) : Bool :=
  match x with
  | .ok t a l r => decide (t = s) && a == ia && decide (l = leaf) && p r
  | _ => false

theorem okBy_of {x : XRes} {s : State} {ia : Nat} {leaf : Leaf} {p : RangeReg → Bool} (h : answersBy x s ia leaf p = true) :
    ∃ r, x = .ok s ia leaf r ∧ p r = true := by
  cases x with
  | ok t a l r => simp [answersBy] at h; obtain ⟨⟨⟨rfl, rfl⟩, rfl⟩, h⟩ := h; exact ⟨r, rfl, h⟩
  | _ => simp [answersBy] at h

/-- The range admits atomic operations at package scope. -/
def shared (s : State) : State := launch0 (fun l => { l with ranges := some [⟨0, 0x1000000, 0, 0x41D⟩] }) s
def atomicAt : State := shared addressed
def atomicOwned : State := { atomicAt with l1 := [(l1Key 0 1025, owned)] }

theorem witness_Atomics :
    (Instr.atom c0 (.max .z64) 3 (some (.v 382)) (.s 0) (.s 2)).wf = true ∧ (Instr.atom c0 .faddF32 0 none (.s 0) (.s 2)).wf = true ∧
    (Instr.cas c0 .z32 0 (.s 3) (.s 0) (.s 2) (.s 4)).wf = true ∧
    issueCtx atomicAt 0 false = some (ctxOf atomicAt) ∧ (ctxOf atomicAt).g.pendingOrd = [] ∧ coreCol (ctxOf atomicAt).core < 384 ∧
    uncommitted atomicAt (ctxOf atomicAt).g = false ∧ Ready atomicAt (ctxOf atomicAt) true [⟨.s 0, true⟩, ⟨.s 2, true⟩] [] [382, 383] ∧
    (∀ l ∈ laneList (ctxOf atomicAt).mask, v1 ((ctxOf atomicAt).vals [⟨.s 0, true⟩, ⟨.s 2, true⟩] l) = 0x10040) ∧
    (∃ r, laneXlate (ctxOf atomicAt) atomicAt 0x10040 8 .write true false = .ok atomicAt 0x10040 page1 r ∧
      pathCarries atomicAt r false page1 0x10040 (some (.max .z64)) .pkg = true) ∧
    isHbm (homePa page1 (homeKey page1 1025 0)) = true ∧ stackState atomicAt (stackOf (homePa page1 (homeKey page1 1025 0))) = 0 ∧
    l1Get atomicAt 0 1025 = none ∧ (∀ e ∈ columnLines atomicAt 0, e.2.st = .u → e.2.dirty = 0) ∧
    (policyOf atomicOwned (some .own) page1 0x10040 false = .own ∧ page1.repl = false ∧
      (isFabric (page1.pa52 (64 * 1025)) = false ∧ atomicOwned.reqs = [] ∧ atomicOwned.held = []) ∧ Owned atomicOwned 0 page1 0x10040 4 owned ∧
      Ready atomicOwned (ctxOf atomicOwned) true [⟨.s 0, true⟩, ⟨.s 2, false⟩, ⟨.s 4, false⟩] [.s 3] [] ∧
      v1 ((ctxOf atomicOwned).vals [⟨.s 0, true⟩, ⟨.s 2, false⟩, ⟨.s 4, false⟩] 0) = 0x10040 ∧
      (∃ r, laneXlate (ctxOf atomicOwned) atomicOwned 0x10040 4 .write true false = .ok atomicOwned 0x10040 page1 r ∧
        pathCarries atomicOwned r false page1 0x10040 none .pkg = true)) := by
  refine ⟨by decide, by decide, by decide, rfl, rfl, by decide, by decide, ready_of (by decide +kernel), by decide +kernel,
    okBy_of (by decide +kernel), by decide, by decide, by decide, by decide, by decide, by decide,
    ⟨by decide, rfl, rfl⟩, ⟨by decide, ⟨by decide, by decide⟩, rfl, .inl rfl, by decide, by decide⟩, ready_of (by decide +kernel),
    by decide +kernel, okBy_of (by decide +kernel)⟩

/-- The base of lane accesses lies in no range. -/
def astray : State := group0 (fun g => setSreg g 0 (2 ^ 63)) issuing
theorem trap_of {x : RangeRes} (h : (match x with | .trap _ _ => true | _ => false) = true) : ∃ a b, x = .trap a b := by
  cases x with
  | trap a b => exact ⟨a, b, rfl⟩
  | _ => simp at h

theorem witness_QueueLoadsAndPrefetch :
    issueCtx addressed 0 false = some (ctxOf addressed) ∧ (ctxOf addressed).g.pendingOrd = [] ∧
    Ready addressed (ctxOf addressed) true [⟨.s 0, true⟩] [] [] ∧ (ctxOf addressed).g.queues.length = 8 ∧
    ((queueAt (ctxOf addressed).g 7).pipe = false ∧
      (queueAt (ctxOf addressed).g 7).entries.length + (queueAt (ctxOf addressed).g 7).pending.length < 16) ∧
    (ctxOf addressed).r.start ≤ firstLane (ctxOf addressed).full ∧ (ctxOf addressed).mask ≠ 0 ∧
    (∀ l ∈ laneList (ctxOf addressed).mask, Reaches addressed (ctxOf addressed) ((ctxOf addressed).va (.s 0) 0 l) 4 .read 0x10040 page1 ∧
      l1Get addressed 0 (0x10040 / 64) = none ∧
      (∃ r, laneXlate (ctxOf addressed) addressed ((ctxOf addressed).va (.s 0) 0 l) 1 .read false false = .ok addressed 0x10040 page1 r) ∧
      (let h := homeGet addressed page1 (homeKey page1 (0x10040 / 64) 0)
       isHbm h.pa = true ∧ h.poison = 0 ∧ rowDead addressed h.pa = false ∧ refuses addressed h.pa = none)) ∧
    (issueCtx addressed 1 false = some (emptied addressed) ∧ (emptied addressed).mask = 0 ∧
      (emptied addressed).r.start ≤ firstLane (emptied addressed).full ∧ Ready addressed (emptied addressed) true [⟨.s 0, true⟩] [] []) ∧
    (issueCtx astray 0 false = some (ctxOf astray) ∧ (ctxOf astray).g.pendingOrd = [] ∧ Ready astray (ctxOf astray) true [⟨.s 0, true⟩] [] [] ∧
      (launchOf astray (groupLaunch astray (ctxOf astray).g)).bind (·.ranges) = some [⟨0, 0x1000000, 0, 0x1D⟩] ∧
      ∀ l ∈ laneList (ctxOf astray).mask, ∃ x y, rangeXlate [⟨0, 0x1000000, 0, 0x1D⟩] ((ctxOf astray).va (.s 0) 0 l) 1 .read
        (privileged astray (ctxOf astray).g) = .trap x y) := by
  refine ⟨rfl, rfl, ready_of (by decide +kernel), rfl, by decide, by decide, by decide +kernel, ?_, ⟨rfl, by decide +kernel, by decide +kernel,
    ready_of (by decide +kernel)⟩, rfl, rfl, ready_of (by decide +kernel), rfl, ?_⟩
  · have h : ∀ l ∈ laneList (ctxOf addressed).mask, (ctxOf addressed).va (.s 0) 0 l = 0x10040 := by decide +kernel
    intro l hl
    rw [h l hl]
    exact ⟨reaches_of (by decide +kernel), by decide, ok_of (by decide +kernel), by decide +kernel⟩
  · have h : ∀ l ∈ laneList (ctxOf astray).mask, (ctxOf astray).va (.s 0) 0 l = 2 ^ 63 := by decide +kernel
    intro l hl
    rw [h l hl]
    exact trap_of (by decide +kernel)

/-- Block 0 declares two chunks of abuf. -/
def buffers : State := group0 (fun g => setSreg g 1 1) (block0 (fun b => { b with shape := { b.shape with abuf := 2 } }) issuing)
def handedOver : State := block0 (fun b => { b with owner := [(chunkKey .abuf 1, 0)] }) buffers
def blockAt (s : State) : Block := (blockOf s 0).getD default

theorem witness_TypedBuffers :
    (ctxOf buffers).g.super = false ∧ blockOf buffers 0 = some (blockAt buffers) ∧ issueCtx buffers 0 false = some (ctxOf buffers) ∧
    BufMode.w.baseOk (.s 2) = true ∧
    (∀ l ∈ laneList (ctxOf buffers).mask,
      (v1 ((ctxOf buffers).vals [⟨.s 2, false⟩] l) % 2 ^ 32 + 4 * (240 : BitVec 10).toNat + modeStep .w * l) + modeBytes .w ≤
          512 * declared (blockAt buffers) .abuf ∧
        (v1 ((ctxOf buffers).vals [⟨.s 2, false⟩] l) % 2 ^ 32 + 4 * (240 : BitVec 10).toNat + modeStep .w * l) % modeBytes .w = 0 ∧
        ownerOf (blockAt buffers) .abuf
          ((v1 ((ctxOf buffers).vals [⟨.s 2, false⟩] l) % 2 ^ 32 + 4 * (240 : BitVec 10).toNat + modeStep .w * l) / 512) = none) ∧
    Ready buffers (ctxOf buffers) true [⟨.s 2, false⟩] [] (DestReg.v 0 false).rows ∧
    Ready buffers (ctxOf buffers) true [⟨.s 2, false⟩, ⟨.v 3 true, false⟩] [] [] ∧ (Src.v 3 true).noImm = true ∧
    (sreg (ctxOf buffers).g 1 % 2 ^ 16 + (0 : BitVec 10).toNat < declared (blockAt buffers) .abuf ∧
      Ready buffers (ctxOf buffers) false [] [.s 1] [] ∧ ownerOf (blockAt buffers) .abuf 1 = none) ∧
    (issueCtx handedOver 0 false = some (ctxOf handedOver) ∧ blockOf handedOver 0 = some (blockAt handedOver) ∧
      Ready handedOver (ctxOf handedOver) false [] [.s 3, .s 4] [] ∧ sreg (ctxOf handedOver).g 3 + (1 : BitVec 10).toNat < declared (blockAt handedOver) .abuf ∧
      ownerOf (blockAt handedOver) .abuf 1 = some 0 ∧ mget (blockAt handedOver).returned (chunkKey .abuf 0) = none) := by
  refine ⟨rfl, rfl, rfl, by decide, by decide +kernel, ready_of (by decide +kernel), ready_of (by decide +kernel), by decide,
    ⟨by decide, ready_of (by decide +kernel), by decide⟩, rfl, rfl, ready_of (by decide +kernel), by decide, by decide, by decide⟩

theorem witness_FencesAndCacheControl :
    issueCtx addressed 0 false = some (ctxOf addressed) ∧ Ready addressed (ctxOf addressed) false [] [] [] ∧
    ((ctxOf addressed).g.awaiting = [] ∧ (ctxOf addressed).g.pendingOrd = [] ∧ ∀ q ∈ (ctxOf addressed).g.queues, q.pending = []) ∧
    wideScope .twr = true ∧ wideScope .blk = false ∧
    Ready addressed (ctxOf addressed) true [⟨.s 0, true⟩] [] [] ∧
    ∀ l ∈ laneList (ctxOf addressed).mask, l1Get addressed (coreCol (ctxOf addressed).core) (0x10040 / 64) = none ∧
      ∃ r, laneXlate (ctxOf addressed) addressed ((ctxOf addressed).va (.s 0) 0 l) 1 .read false false = .ok addressed 0x10040 page1 r := by
  refine ⟨rfl, ready_of (by decide +kernel), by decide, rfl, rfl, ready_of (by decide +kernel), ?_⟩
  have h : ∀ l ∈ laneList (ctxOf addressed).mask, (ctxOf addressed).va (.s 0) 0 l = 0x10040 := by decide +kernel
  intro l hl
  rw [h l hl]
  exact ⟨by decide, ok_of (by decide +kernel)⟩

/-- Group 0 of core 0 is in a state and holds no issue slot. -/
def idle (f : Group → Group) (s : State) : State := core0 (fun c => { c with issuing := none }) (group0 f s)
def groupAt (s : State) : Group := (groupOf s 0).getD default
/-- It waits at the run's first instruction, its parcel a prefix with E 1, and takes the slot when it is free. -/
def eligible (r : Option Run) : State := idle (fun g => { g with status := .ready, run := r }) (placeWord State.reset 4)
def pushing : State := idle (fun g => { g with status := .waiting .push, waitRec := some (.push 0 3 0 0 1) })
  (launch0 (fun l => { l with pipes := [(3, 0, 1, 2, 0)], gang := true }) (block0 (fun b => { b with shares := [(3, [(0, (0 : Row))])] }) run0))
/-- A trapped group's record waits for the supervisor of tower 0. -/
def rescued : State := core0 (fun c => { c with frozen := [0], issuing := none })
  (group0 (fun g => { g with status := .frozen 0x1F, run := none, trap2 := some Trap.zero }) { run0 with mgmt := mset [] (aCore 0 0) 0x1000 })

theorem range_of {x : RangeRes} {ia : Nat} {r : RangeReg} (h : (match x with | .ok a y => a == ia && y == r | _ => false) = true) : x = .ok ia r := by
  cases x with
  | ok a y => simp at h; rw [h.1, h.2]
  | _ => simp at h

/-- An access of page 1 translates in any state that holds launch 0's range, page 1's leaf and its key. -/
theorem translates (u : State) (va n : Nat) (k : AKind) (q : XReq)
    (h1 : withRanges u 0 = (u, [⟨0, 0x1000000, 0, 0x1D⟩]))
    (h2 : rangeXlate [⟨0, 0x1000000, 0, 0x1D⟩] va n k q.priv = .ok va ⟨0, 0x1000000, 0, 0x1D⟩)
    (h3 : findLeaf u none q.fetch q.tower va = some (.leaf page1)) (h4 : keyGen u page1.key ≠ 0) (h5 : isFabric (page1.pa52 va) = false)
    (h6 : q.fetch = true ∨ ∀ k, q.who ≠ .group k) :
    translate u 0 va n k q none = .ok u va page1 ⟨0, 0x1000000, 0, 0x1D⟩ := by
  have a1 : page1.priv = false := by decide +kernel
  have a2 : page1.res = false := by decide +kernel
  have a3 : page1.mig = false := by decide +kernel
  have a4 : page1.ro = false := by decide +kernel
  have a5 : (⟨0, 0x1000000, 0, 0x1D⟩ : RangeReg).peer = none := by decide +kernel
  have a6 : ∀ q' : XReq, q'.ia = va → pageCheck u q' (.leaf page1) = .ok page1 := by
    intro q' hi
    simp [pageCheck, a1, a2, a3, a4, h4, h5, hi]
  have a7 : ∀ q' : XReq, q'.fetch = q.fetch → q'.who = q.who → usedWalk u q' none = u := by
    intro q' hf hw
    unfold usedWalk
    rcases h6 with h | h
    · split <;> simp [hf, h]
    · split
      · rename_i k hk
        exact absurd (hw ▸ hk) (h k)
      · simp
  simp only [Sys2Proof.Machine.translate, h1, h2, a5, h3]
  rw [a6 _ rfl]
  refine congrArg (fun x => XRes.ok x va page1 _) ?_
  exact a7 _ rfl rfl

/-- Groups and cores hold no bytes of a parcel. -/
theorem readParcel_other (s : State) (gs : Map Group) (cs : Map Core) (leaf : Leaf) (ia : Nat) :
    readParcel { s with groups := gs, cores := cs } leaf ia = readParcel s leaf ia := rfl

/-- The prefix at 0x10004 is at hand, whatever the groups and the cores are. -/
theorem fetches (gs : Map Group) (cs : Map Core) :
    fetchParcel { eligible none with groups := gs, cores := cs } (gkey 0 0) (startRun (groupAt (eligible none))) placedPc =
      .ok { eligible none with groups := gs, cores := cs } 4 := by
  have e0 : (startRun (groupAt (eligible none))).fetchFail = none := by decide +kernel
  have e4 : keyGen { eligible none with groups := gs, cores := cs } page1.key = keyGen (eligible none) page1.key := rfl
  have e5 : readParcel { eligible none with groups := gs, cores := cs } page1 placedPc = readParcel (eligible none) page1 placedPc :=
    readParcel_other _ _ _ _ _
  have e6 : readParcel (eligible none) page1 placedPc = 4 := by decide +kernel
  have e7 : refuses { eligible none with groups := gs, cores := cs } (page1.pa52 placedPc) = refuses (eligible none) (page1.pa52 placedPc) := rfl
  have e8 : refuses (eligible none) (page1.pa52 placedPc) = none := by decide +kernel
  have e9 : groupReq { eligible none with groups := gs, cores := cs } (gkey 0 0) (startRun (groupAt (eligible none))) false false true =
      groupReq (eligible none) (gkey 0 0) (startRun (groupAt (eligible none))) false false true := rfl
  have e10 : groupLaunch { eligible none with groups := gs, cores := cs } (startRun (groupAt (eligible none))) =
      groupLaunch (eligible none) (startRun (groupAt (eligible none))) := rfl
  have e11 : groupLaunch (eligible none) (startRun (groupAt (eligible none))) = 0 := by decide +kernel
  have e12 : (groupReq (eligible none) (gkey 0 0) (startRun (groupAt (eligible none))) false false true).priv = false := by decide +kernel
  have e13 : (startRun (groupAt (eligible none))).walked = none := by decide +kernel
  have e15 : (groupReq (eligible none) (gkey 0 0) (startRun (groupAt (eligible none))) false false true).fetch = true := by decide +kernel
  have e14 : (groupReq (eligible none) (gkey 0 0) (startRun (groupAt (eligible none))) false false true).tower = 0 := by decide +kernel
  simp only [fetchParcel, e0, e9, e10, e11, e13]
  rw [translates _ _ _ _ _ rfl (by rw [e12]; exact range_of (by decide +kernel)) (by rw [e14, e15]; rfl) (by rw [e4]; decide +kernel) (by decide +kernel) (.inl e15)]
  simp only [e7, e8, e5, e6]

theorem witness_IssueEvents :
    (groupOf (eligible (some ⟨1, 4, 23, 0, none⟩)) (gkey 0 0) = some (groupAt (eligible (some ⟨1, 4, 23, 0, none⟩))) ∧
      (eligible (some ⟨1, 4, 23, 0, none⟩)).halted = false ∧ (coreOf (eligible (some ⟨1, 4, 23, 0, none⟩)) 0).issuing = none ∧
      contenders (eligible (some ⟨1, 4, 23, 0, none⟩)) 0 = [(0, groupAt (eligible (some ⟨1, 4, 23, 0, none⟩)))] ∧
      ∀ b ∈ resident (eligible (some ⟨1, 4, 23, 0, none⟩)) 0, ∀ x, blockOf (eligible (some ⟨1, 4, 23, 0, none⟩)) b.1 = some x → x.task = none) ∧
    (groupOf (eligible none) (gkey 0 0) = some (groupAt (eligible none)) ∧ (groupAt (eligible none)).handler = none ∧
      contenders (eligible none) 0 = [(0, groupAt (eligible none))] ∧
      ∀ u gs cs, u = { eligible none with groups := gs, cores := cs } → ∃ w,
        fetchParcel u (gkey 0 0) (startRun (groupAt (eligible none)))
          (w64 (lowestPc (releaseHeld (groupAt (eligible none))) (candidates (releaseHeld (groupAt (eligible none)))))).toNat = .ok u w ∧
        w.toNat % 4 = 0 ∧ w.toNat.testBit 2 = true) ∧
    (∃ g, groupOf (group0 (fun g => { g with status := .broken (.operand [.v 383, .s 0]), awaiting := [(.v 382, 5)] }) run0) 0 = some g ∧
      liveMask g ≠ 0 ∧ awaits g (.v 383) = false ∧ awaits g (.v 382) = true) ∧
    (∃ g, groupOf (group0 (fun g => { g with status := .broken (.queue 7 1), queues := lset g.queues 7 ⟨[(0 : Row)], [], false⟩ }) run0) 0 = some g ∧
      1 ≤ (queueAt g 7).entries.length) ∧
    (∃ g, groupOf (group0 (fun g => { g with status := .broken (.queue 7 1), queues := lset g.queues 7 ⟨[], [(5, 1, 0)], false⟩ }) run0) 0 = some g ∧
      (queueAt g 7).entries.length < 1 ∧ queueDry run0 g 7 = false) ∧
    (handleFault { run0 with futures := [(0, ⟨.done, 1, 0, 9, 1, 0⟩)] } (2 ^ 31 + 4) = none ∧
      (futOf { run0 with futures := [(0, ⟨.done, 1, 0, 9, 1, 0⟩)] } (handleEntry (2 ^ 31 + 4))).state = .done) ∧
    (ownerOf (blockAt run0) .abuf 5 = none ∧ ownerOf (blockAt handedOver) .abuf 1 ≠ none) ∧
    ((coreOf rescued 0).frozen = [gkey 0 0] ∧ groupOf rescued (gkey 0 32) = none ∧ rescued.halted = false ∧
      mreg rescued (aCore (colTower (coreCol 0)) 0) = 0x1000) ∧
    ((groupAt pushing).waitRec = some (.push 0 3 0 0 (2 ^ 0)) ∧ blockOf pushing (groupAt pushing).block = some (blockAt pushing) ∧
      pipeOf pushing (blockAt pushing) 3 = some (0, 1, 2, 0) ∧ memberBlock pushing (blockAt pushing).launch (blockAt pushing).index 0 = some (0, blockAt pushing) ∧
      (blockAt pushing).state = .running ∧ (blockAt pushing).shares.find? (·.1 == 3) = some (3, [(0, (0 : Row))]) ∧ [(0, (0 : Row))].length < 2 ∧
      (blockAt pushing).core = some 0 ∧ (blockAt pushing).slots[0]? = some 0 ∧ 0 < (groupAt pushing).queues.length ∧
      (queueAt (groupAt pushing) 0).entries.length < 16) := by
  refine ⟨⟨rfl, rfl, by decide, by decide +kernel, ?_⟩, ⟨rfl, rfl, by decide +kernel, ?_⟩, ⟨_, rfl, by decide, by decide, by decide⟩, ⟨_, rfl, by decide⟩,
    ⟨_, rfl, by decide, by decide⟩, by decide, by decide, ⟨by decide, by decide, rfl, by decide +kernel⟩, rfl, rfl, rfl, rfl, rfl, rfl, by decide, rfl, rfl, by decide, by decide⟩
  · have h : ∀ b ∈ resident (eligible (some ⟨1, 4, 23, 0, none⟩)) 0,
        (blockOf (eligible (some ⟨1, 4, 23, 0, none⟩)) b.1).elim true (fun x => x.task.isNone) = true := by decide
    intro b hb x hx
    have := h b hb
    simpa [hx] using (by rwa [hx] at this : x.task.isNone = true)
  · intro u gs cs hu
    subst hu
    have hpc : (w64 (lowestPc (releaseHeld (groupAt (eligible none))) (candidates (releaseHeld (groupAt (eligible none)))))).toNat = placedPc := by
      decide +kernel
    rw [hpc]
    exact ⟨4, fetches gs cs, by decide, by decide⟩

/-- Block 0 declares gbuf and abuf chunks, the first of abuf on the engine side; gbuf holds the request descriptor of a load of 64 bytes from
page 1 to abuf, and a return of one chunk at 64; a kick waits at core 0. -/
def loadDesc : Nat := 0x10 * 2 ^ 16 + 2 ^ 32 + 0x10040 * 2 ^ 64 + 64 * 2 ^ 192
def kicking : State := core0 (fun c => { c with kicks := [(0, 0, 0), (0, 0, 64), (0, 0, 128)] })
  (block0 (fun b => bufWrite (bufWrite { b with shape := { b.shape with gbuf := 1, abuf := 1 }, owner := [(chunkKey .abuf 0, 0)] } .gbuf 0 64 loadDesc)
    .gbuf 64 64 (3 + 0x10 * 2 ^ 16 + 2 ^ 336 + 2 ^ 352)) issuing)
/-- A request at work, and one whose bytes are all read. -/
def copying (next : Nat) : BteReq := ⟨5, 0, (parseDesc loadDesc).getD default, next, [], 0, [], [], [0], none, [], none, none, 0, 0, 0, 0, [], 0, 0, 0⟩
def transferring (r : BteReq) : State := { kicking with bte := [(0, [r])] }

theorem moves (cs : Map Core) (bt : Map (List BteReq)) (q : XReq) (h1 : q.priv = false) (h2 : q.tower = 0) (h3 : ∀ k, q.who ≠ .group k) :
    translate { transferring (copying 0) with cores := cs, bte := bt } 0 0x10040 64 .read q none =
      .ok { transferring (copying 0) with cores := cs, bte := bt } 0x10040 page1 ⟨0, 0x1000000, 0, 0x1D⟩ := by
  have e4 : keyGen { transferring (copying 0) with cores := cs, bte := bt } page1.key = keyGen (transferring (copying 0)) page1.key := rfl
  exact translates _ _ _ _ _ rfl (by rw [h1]; exact range_of (by decide +kernel)) (by rw [h2]; cases q.fetch <;> rfl) (by rw [e4]; decide +kernel) (by decide +kernel) (.inr h3)

theorem witness_TransferEngine :
    (kicking.halted = false ∧ (∀ f, declared (blockAt kicking) f ≤ 1024) ∧ (coreOf kicking 0).kicks = [(0, 0, 0), (0, 0, 64), (0, 0, 128)] ∧
      blockOf kicking 0 = some (blockAt kicking) ∧ kicksHeld kicking 0 = false ∧
      (∀ e ∈ resident kicking 0, e.2.recKicks = []) ∧ btesOf kicking 0 = [] ∧
      parseDesc (bufRead (blockAt kicking) .gbuf 0 64) = some ((parseDesc loadDesc).getD default) ∧
      descOk (blockAt kicking) ((parseDesc loadDesc).getD default) = true ∧ ((parseDesc loadDesc).getD default).op = 0) ∧
    (∃ d, parseDesc (bufRead (blockAt kicking) .gbuf 64 64) = some d ∧ descOk (blockAt kicking) d = true ∧ d.op = 3 ∧
      (blockAt kicking).exited < (blockAt kicking).shape.groups) ∧
    (parseDesc (bufRead (blockAt kicking) .gbuf 128 64) = none ∧ ∃ l, launchOf kicking (blockAt kicking).launch = some l ∧ l.handler = false ∧ l.ended = none) ∧
    (nextReq (transferring (copying 0)) 0 = some (copying 0) ∧ (∀ y ∈ btesOf (transferring (copying 0)) 0, y.id = (copying 0).id → y = copying 0) ∧
      (copying 0).stall = none ∧ (copying 0).answer = none ∧ (copying 0).again = [] ∧
      txEnd (copying 0).desc (copying 0).next = false ∧ unitVa (copying 0).desc 0 = 0x10040 ∧
      pieceEnd 0x10040 (fmtU (copying 0).desc.fmt) 0 = 64 ∧ (copying 0).walked = none ∧
      ∀ cs bt q, q.priv = false → q.tower = 0 → (∀ k, q.who ≠ .group k) →
        translate { transferring (copying 0) with cores := cs, bte := bt } 0 0x10040 64 .read q none =
          .ok { transferring (copying 0) with cores := cs, bte := bt } 0x10040 page1 ⟨0, 0x1000000, 0, 0x1D⟩) ∧
    (∃ r, nextReq (transferring { copying 4096 with answer := some 7 }) 0 = some r ∧ r.answer = some 7 ∧ r.desc.op = 0) ∧
    (reqOf (transferring (copying 4096)) 0 5 = some (copying 4096) ∧ chunkReady (copying 4096) 0 = true ∧
      blockOf (transferring (copying 4096)) (copying 4096).block = some (blockAt (transferring (copying 4096))) ∧
      (blockAt (transferring (copying 4096))).state = .running ∧
      (blockAt (transferring (copying 4096))).exited < (blockAt (transferring (copying 4096))).shape.groups) ∧
    ∃ r, reqOf (transferring { copying 0 with phase := 1, answer := some 3 }) 0 r.id = some r ∧ r.phase = 1 ∧ r.answer = some 3 := by
  refine ⟨⟨rfl, ?_, rfl, rfl, by decide, by decide, rfl, by decide +kernel, by decide +kernel, by decide +kernel⟩, ⟨(parseDesc (bufRead (blockAt kicking) .gbuf 64 64)).getD default, by decide +kernel, by decide +kernel, by decide +kernel, by decide⟩,
    ⟨by decide +kernel, _, rfl, rfl, rfl⟩, ⟨by decide +kernel, by decide +kernel, rfl, rfl, rfl, by decide +kernel, by decide +kernel, by decide +kernel, rfl, moves⟩,
    ⟨{ copying 4096 with answer := some 7 }, by decide +kernel, rfl, by decide +kernel⟩, ⟨rfl, by decide +kernel, rfl, by decide, by decide⟩, ⟨{ copying 0 with phase := 1, answer := some 3 }, rfl, rfl, rfl⟩⟩
  intro f
  cases f <;> decide

/-- Block 0's kernel has one entry of stage 1, a load of 64 bytes to abuf; gbuf holds the descriptor of a kick. -/
def staged : State := launch0 (fun l => { l with kernels := l.kernels.map (fun k => { k with schedule := [⟨1, 0x10040, 64, .abuf, 0, 0, 0⟩] }) })
  (block0 (fun b => bufWrite { b with shape := { b.shape with gbuf := 1, abuf := 2 } } .gbuf 0 64 loadDesc) ended)

theorem witness_TransferInstructions :
    issueCtx staged 0 false = some (ctxOf staged) ∧ cE.plain = true ∧ (ctxOf staged).g.super = false ∧
    blockOf staged (ctxOf staged).g.block = some (blockAt staged) ∧ Ready staged (ctxOf staged) false [] [.s 0] [] ∧
    ((coreOf staged (ctxOf staged).core).kicks.length < 64 ∧ (blockAt staged).recKicks = [] ∧
      (sreg (ctxOf staged).g 0 % 2 ^ 32 + 64 * (7 : BitVec 12).toNat) % 2 ^ 32 + 64 ≤ 512 * (blockAt staged).shape.gbuf ∧
      ownerOf (blockAt staged) .gbuf 0 = none ∧ uncommitted staged (ctxOf staged).g = false) ∧
    ((blockAt staged).stage < 63 ∧ nextStage staged (blockAt staged) ≠ [] ∧ ownedDest (blockAt staged) (nextStage staged (blockAt staged)) = none ∧
      (∀ d ∈ nextStage staged (blockAt staged), descOk (takeChunks (blockAt staged) (nextStage staged (blockAt staged))) d = true) ∧
      ∀ f, declared (blockAt staged) f ≤ 1024) ∧
    ((∀ i, i ≤ (1 : BitVec 10).toNat → sreg (ctxOf staged).g 0 % 2 ^ 16 + i < declared (blockAt staged) .abuf) ∧
      (ctxOf staged).r.count = 0 ∧ Ready staged (ctxOf staged) false [] [.s 0, .s 1, .s 2] []) ∧
    ∃ i, i ≤ 1 ∧ ownerOf (blockAt handedOver) .abuf i ≠ none := by
  refine ⟨rfl, rfl, rfl, rfl, ready_of (by decide +kernel), ⟨by decide, rfl, by decide +kernel, by decide, by decide⟩,
    ⟨by decide, by decide, by decide, by decide +kernel, ?_⟩, ⟨by decide +kernel, by decide +kernel, ready_of (by decide +kernel)⟩, 1, by decide, by decide⟩
  intro f
  cases f <;> decide

/-- Operands of an `mma` of e4m3: 16 accumulator rows at 512 of cbuf, rows of 64 bytes in abuf and in wbuf. -/
def multiplying : State := group0 (fun g => setSreg (setSreg (setSreg g 0 512) 2 (2 ^ 19 + 64 * 2 ^ 32)) 4 (64 * 2 ^ 32))
  (block0 (fun b => { b with shape := { b.shape with wbuf := 8, abuf := 8, cbuf := 9 } }) issuing)
/-- A product whose cycles are done. -/
def product : MCtx := ⟨true, .e4m3, 512, 2 ^ 19 + 64 * 2 ^ 32, 0, 64 * 2 ^ 32, 0, 0xFFFF, [8, 8, 8, 8], [0, 8, 8, 8], 0, 2, false⟩
def multiplied : State := core0 (fun c => { c with mmas := [0] }) (group0 (fun g => { g with mctx := some product }) multiplying)

theorem witness_MatrixUnit :
    (issueCtx multiplying 0 false = some (ctxOf multiplying) ∧ (ctxOf multiplying).g.super = false ∧
      blockOf multiplying (ctxOf multiplying).g.block = some (blockAt multiplying) ∧ Ready multiplying (ctxOf multiplying) false [] [.s 0, .s 2, .s 4] [] ∧
      (ctxOf multiplying).mask ≠ 0 ∧ (ctxOf multiplying).g.mctx = none ∧ (coreOf multiplying (ctxOf multiplying).core).mmas.length < 4 ∧
      (coreOf multiplying (ctxOf multiplying).core).charge + 15 < budgetValue multiplying (ctxOf multiplying).core ∧ (ctxOf multiplying).g.width = 16 ∧
      sreg (ctxOf multiplying).g 0 = 512 ∧ 512 + 256 * 16 ≤ 512 * (blockAt multiplying).shape.cbuf ∧
      descCheck (blockAt multiplying) .e4m3 (sreg (ctxOf multiplying).g 2) 0 (laneList (ctxOf multiplying).mask) = none ∧
      descCheck (blockAt multiplying) .e4m3 (sreg (ctxOf multiplying).g 4) 0 (List.range 64) = none ∧
      ∀ ch, ownerOf (blockAt multiplying) .cbuf ch = none) ∧
    (issueCtx multiplying 1 false = some (emptied multiplying) ∧ (emptied multiplying).mask = 0 ∧
      Ready multiplying (emptied multiplying) false [] [.s 0, .s 2, .s 4] []) ∧
    ((60 : BitVec 6).toNat + MmovCount.c4.val ≤ 64 ∧ sreg (ctxOf multiplying).g 0 % 4 = 0 ∧
      (∀ l ∈ laneList (ctxOf multiplying).mask, sreg (ctxOf multiplying).g 0 % 2 ^ 19 + 256 * l + 4 * 60 + 16 ≤ 512 * (blockAt multiplying).shape.cbuf) ∧
      Ready multiplying (ctxOf multiplying) true [] [.s 0] [380, 381, 382, 383] ∧
      Ready multiplying (ctxOf multiplying) true [] (.s 0 :: [380, 381, 382, 383].map AReg.v) []) ∧
    ((coreOf multiplied 0).mmas = [0] ∧ groupOf multiplied 0 = some (groupAt multiplied) ∧ (groupAt multiplied).mctx = some product ∧
      blockOf multiplied (groupAt multiplied).block = some (blockAt multiplied) ∧ (groupAt multiplied).width = 16 ∧
      product.acc.toNat + 256 * 16 ≤ 2 ^ 19 ∧ product.done = List.replicate 4 (mmaK product.fmt / 8) ∧
      (∀ x ∈ descBytes product.fmt product.a0.toNat product.a1.toNat (laneList product.mask), x.1 + x.2 ≤ 2 ^ 20) ∧
      ∀ x ∈ descBytes product.fmt product.b0.toNat product.b1.toNat (List.range 64), x.1 + x.2 ≤ 2 ^ 20) := by
  refine ⟨⟨rfl, rfl, rfl, ready_of (by decide +kernel), by decide +kernel, rfl, by decide, by decide +kernel, by decide, by decide +kernel, by decide,
    by decide +kernel, by decide +kernel, fun _ => rfl⟩, ⟨rfl, by decide +kernel, ready_of (by decide +kernel)⟩,
    ⟨by decide, by decide +kernel, by decide +kernel, ready_of (by decide +kernel), ready_of (by decide +kernel)⟩,
    rfl, rfl, rfl, rfl, by decide, by decide, by decide +kernel, by decide +kernel, by decide +kernel⟩

theorem witness_BankSideCommands :
    issueCtx atomicAt 0 false = some (ctxOf atomicAt) ∧
    ((Instr.nmo c0 (.saccBf16 (.v 9 false) 2) 0).wf = true ∧ (Instr.nmo c0 (.cas64 382 (.s 4) (.s 6)) 0).wf = true) ∧
    (ctxOf atomicAt).g.pendingOrd = [] ∧ uncommitted atomicAt (ctxOf atomicAt).g = false ∧
    ((List.range 4).filter (fun g => (laneList (ctxOf atomicAt).mask).any (fun l => l / 16 == g)) = [0] ∧
      Ready atomicAt (ctxOf atomicAt) true [⟨.v 9 false, false⟩] [.s 0, .s 2] [] ∧ (sreg (ctxOf atomicAt).g 0 + 0) % 2 ^ 64 % 64 = 0 ∧
      (∃ r, laneXlate (ctxOf atomicAt) atomicAt 0x10040 64 .write true true = .ok atomicAt 0x10040 page1 r ∧ scopeCode .pkg ≤ r.atsc) ∧
      isHbm (page1.pa52 0x10040) = true ∧ page1.repl = false ∧ bankCount atomicAt (bankOf (page1.pa52 0x10040)) + 1 ≤ 16) ∧
    ((382 : Fin 384).val % 2 = 0 ∧ Ready atomicAt (ctxOf atomicAt) true [⟨.s 4, true⟩, ⟨.s 6, true⟩] [.s 0] [382, 383] ∧
      ∀ l ∈ laneList (ctxOf atomicAt).mask, (sreg (ctxOf atomicAt).g 0 + 8 * l) % 2 ^ 64 % 8 = 0 ∧
        (∃ r, laneXlate (ctxOf atomicAt) atomicAt ((sreg (ctxOf atomicAt).g 0 + 8 * l) % 2 ^ 64) 8 .write true true =
          .ok atomicAt (0x10040 + 8 * l) page1 r ∧ scopeCode .pkg ≤ r.atsc) ∧
        bankCount atomicAt (bankOf (page1.pa52 (0x10040 + 8 * l))) + 16 ≤ 16) := by
  refine ⟨rfl, ⟨by decide, by decide⟩, rfl, by decide, ⟨by decide +kernel, ready_of (by decide +kernel), by decide +kernel, ?_, by decide, by decide, by decide +kernel⟩,
    by decide, ready_of (by decide +kernel), ?_⟩
  · obtain ⟨r, h, h'⟩ := okBy_of (p := fun r => decide (scopeCode .pkg ≤ r.atsc))
      (show answersBy (laneXlate (ctxOf atomicAt) atomicAt 0x10040 64 .write true true) atomicAt 0x10040 page1 _ = true by decide +kernel)
    exact ⟨r, h, by simpa using h'⟩
  · have h : ∀ l ∈ laneList (ctxOf atomicAt).mask, (sreg (ctxOf atomicAt).g 0 + 8 * l) % 2 ^ 64 % 8 = 0 ∧
        answersBy (laneXlate (ctxOf atomicAt) atomicAt ((sreg (ctxOf atomicAt).g 0 + 8 * l) % 2 ^ 64) 8 .write true true) atomicAt (0x10040 + 8 * l) page1
          (fun r => decide (scopeCode .pkg ≤ r.atsc)) = true ∧ bankCount atomicAt (bankOf (page1.pa52 (0x10040 + 8 * l))) + 16 ≤ 16 := by
      decide +kernel
    intro l hl
    obtain ⟨h1, h2, h3⟩ := h l hl
    obtain ⟨r, h4, h5⟩ := okBy_of h2
    exact ⟨h1, ⟨r, h4, by simpa using h5⟩, h3⟩

/-- Home holds the line of 0x10040; nothing else does. -/
def homeLine (lz : Option (Nat × Scope × BitVec 16)) : HomeLine :=
  { homeGet run0 page1 1025 with data := 0x12345678, lazy := lz }
def asking (kind : ReqKind) (dest : Dest) (policy : Policy) (tower : Bool) : Req :=
  ⟨9, 0, some 0, kind, 1025, 15, policy, .pkg, .normal, false, false, dest, page1, none, 0, tower⟩
def atHome (r : Req) (lz : Option (Nat × Scope × BitVec 16)) : State := { run0 with reqs := [r], home := mset [] 1025 (homeLine lz) }

/-- The conditions of `AtHome`, as one decidable test. -/
def atHomeB (s : State) (r : Req) (h : HomeLine) : Bool :=
  decide (r.peer = none ∧ r.col < 384 ∧ r.ofBte = false ∧ r.line < 2 ^ 46 ∧ r.leaf.repl = false) &&
  decide (isHbm (homePa r.leaf r.line) = true ∧ stackState s (stackOf (homePa r.leaf r.line)) = 0 ∧ s.keyLoads.any (fun k => k.1 == r.leaf.key) = false) &&
  decide (mget s.home r.line = some h ∧ h.cached = true ∧ h.pa = homePa r.leaf r.line ∧ h.busy = 0 ∧ h.hostBit = false ∧ h.prop = false) &&
  decide (holders s r.line = []) && decide (ready s r = true ∧ waitsPeers s r = false) && decide (s.strikes = [])

theorem atHome_of {s : State} {r : Req} {h : HomeLine} (hb : atHomeB s r h = true) : AtHome s r h := by
  simp only [atHomeB, Bool.and_eq_true, decide_eq_true_eq] at hb
  obtain ⟨⟨⟨⟨⟨h1, h2⟩, h3⟩, h4⟩, h5⟩, h6⟩ := hb
  exact ⟨h1, h2, h3, h4, h5, h6⟩

theorem witness_HomeEvents :
    (AtHome (atHome (asking .load (.lane 383 63 4 false) .own true) none) (asking .load (.lane 383 63 4 false) .own true) (homeLine none) ∧
      drainFirst (asking .load (.lane 383 63 4 false) .own true) (homeLine none) = none ∧ (homeLine none).poison &&& wordsOf 15 = 0) ∧
    AtHome (atHome (asking (.store 7) .none .wt true) none) (asking (.store 7) .none .wt true) (homeLine none) ∧
    (AtHome (atHome (asking (.store 7) .none .own true) none) (asking (.store 7) .none .own true) (homeLine none) ∧
      (withQuota (atHome (asking (.store 7) .none .own true) none) (asking (.store 7) .none .own true)).hint ≠ .noAllocate) ∧
    AtHome (atHome (asking (.atomic (.add .z32) 1) (.scalar 127 4 false) .wt true) none) (asking (.atomic (.add .z32) 1) (.scalar 127 4 false) .wt true) (homeLine none) ∧
    AtHome (atHome (asking (.push 7 0) .none .wt true) none) (asking (.push 7 0) .none .wt true) (homeLine none) ∧
    (∃ s : State, s.reqs = [{ asking .load .none .wt true with peer := some 255 }] ∧
      waitsPeers s { asking .load .none .wt true with peer := some 255 } = false ∧
      ready s { asking .load .none .wt true with peer := some 255 } = true ∧ s.strikes = []) ∧
    (∃ s r, s.reqs = [r] ∧ r = asking .load .none .wt false ∧ (homeGet s page1 1025).ht < 2 ∧ r.leaf.repl = false ∧
      isHbm (homePa page1 1025) = true ∧ stackState s (stackOf (homePa page1 1025)) = 0) ∧
    (∃ s : State, s.held = [(asking .load (.lane 0 0 4 false) .wt true, .drain 5 1)] ∧
      drained s (asking .load (.lane 0 0 4 false) .wt true, .drain 5 1) = true ∧ (homeLine (some (5, .pkg, 1))).lazyNo < 1 ∧
      AtHome { s with held := [] } (asking .load (.lane 0 0 4 false) .wt true) (homeLine (some (5, .pkg, 1)))) ∧
    (∃ s g, groupOf s 0 = some g ∧ s.rets = [⟨9, some 0, .lane 380 63 16 false, some 5, false, .pkg, 0, 0⟩] ∧ ∃ a ∈ g.awaiting, a.2 = 9) ∧
    (∃ s : State, s.rets = [⟨9, none, .bte 0 5, some 5, false, .pkg, 0, 0⟩] ∧ reqOf s 0 5 = some (copying 0)) ∧
    (∃ s g l, s.rets = [⟨9, some 0, .lane 380 63 16 false, none, false, .pkg, 0, 0⟩] ∧ groupOf s 0 = some g ∧ launchOf s 0 = some l ∧
      l.handler = false ∧ l.ended = none) ∧
    (∃ s g, groupOf s 0 = some g ∧ g.queues.length = 8 ∧ (queueAt g 7).pending = [(9, 0, (0 : Row)), (10, 1, 0)]) := by
  refine ⟨⟨atHome_of (by decide +kernel), by decide, by decide +kernel⟩, atHome_of (by decide +kernel), ⟨atHome_of (by decide +kernel), by decide +kernel⟩,
    atHome_of (by decide +kernel), atHome_of (by decide +kernel), ⟨{ run0 with reqs := [{ asking .load .none .wt true with peer := some 255 }] }, rfl, by decide, by decide, rfl⟩,
    ⟨atHome (asking .load .none .wt false) none, asking .load .none .wt false, rfl, rfl, by decide +kernel, by decide, by decide +kernel, by decide +kernel⟩,
    ⟨{ atHome (asking .load .none .wt true) (some (5, .pkg, 1)) with
        reqs := [], held := [(asking .load (.lane 0 0 4 false) .wt true, .drain 5 1)] }, rfl, by decide, by decide +kernel,
      atHome_of (by decide +kernel)⟩,
    ⟨group0 (fun g => { g with awaiting := [(.v 380, 9)] }) { run0 with rets := [⟨9, some 0, .lane 380 63 16 false, some 5, false, .pkg, 0, 0⟩] }, _, rfl, rfl,
      (.v 380, 9), List.Mem.head _, rfl⟩,
    ⟨{ transferring (copying 0) with rets := [⟨9, none, .bte 0 5, some 5, false, .pkg, 0, 0⟩] }, rfl, rfl⟩,
    ⟨{ run0 with rets := [⟨9, some 0, .lane 380 63 16 false, none, false, .pkg, 0, 0⟩] }, _, _, rfl, rfl, rfl, rfl, rfl⟩,
    ⟨group0 (fun g => { g with queues := lset g.queues 7 ⟨[], [(9, 0, (0 : Row)), (10, 1, 0)], false⟩ }) run0, _, rfl, rfl, rfl⟩⟩

/-- Core 0's group can be granted the slot, and an error has struck; the same part with nothing placed. -/
def struck (x : Strike) : State := { core0 (fun c => { c with issuing := none }) run0 with strikes := [x] }
def quiet (x : Strike) : State := { State.reset with strikes := [x] }

theorem witness_SoftErrors :
    (∃ g l, groupOf (struck ⟨.registers 0, false⟩) 0 = some g ∧ launchOf (struck ⟨.registers 0, false⟩) (groupLaunch (struck ⟨.registers 0, false⟩) g) = some l ∧
      l.handler = false ∧ l.ended = none) ∧
    (Store.onCore (struck ⟨.registers 0, false⟩) 0 (.registers 0) = true ∧ Store.onCore (struck ⟨.buffer 0, false⟩) 0 (.buffer 0) = true ∧
      (struck ⟨.buffer 0, false⟩).halted = false ∧ (struck ⟨.buffer 0, false⟩).thermal = false ∧ (coreOf (struck ⟨.buffer 0, false⟩) 0).issuing = none ∧
      (blockOf (struck ⟨.buffer 0, false⟩) 0).isSome = true) ∧
    (Store.onCore (quiet ⟨.registers 63, true⟩) 0 (.registers 63) = true ∧ contenders (quiet ⟨.registers 63, true⟩) 0 = [] ∧
      bbFull (quiet ⟨.registers 63, true⟩) (mreg (quiet ⟨.registers 63, true⟩) 0x60004) = false) ∧
    (Store.onCore (quiet ⟨.l2 5, false⟩) 0 (.l2 5) = false ∧ contenders (quiet ⟨.l2 5, false⟩) 0 = []) ∧
    (AtHome (atHome (asking .load (.lane 383 63 4 false) .own true) none) (asking .load (.lane 383 63 4 false) .own true) (homeLine none) ∧
      drainFirst (asking .load (.lane 383 63 4 false) .own true) (homeLine none) = none ∧ (asking .load (.lane 383 63 4 false) .own true).mask ≠ 0) ∧
    (∃ m b l, mget (mig .stop (struck ⟨.mule 0, false⟩)).migs 0 = some m ∧ blockOf (mig .stop (struck ⟨.mule 0, false⟩)) m.block = some b ∧
      launchOf (mig .stop (struck ⟨.mule 0, false⟩)) b.launch = some l ∧ l.handler = false ∧ l.ended = none) :=
  ⟨⟨_, _, rfl, rfl, rfl, rfl⟩, by decide +kernel, by decide +kernel, by decide +kernel, ⟨atHome_of (by decide +kernel), by decide, by decide⟩,
    ⟨_, _, _, rfl, rfl, rfl, rfl, rfl⟩⟩

/-- Launch 0 may spawn; group 0 holds a handle of entry 0 of column 0 in s0 and has fetched a task descriptor of 1 row. -/
def handle0 : Nat := 2 ^ 31 + 8
def spawning (f : Future) : State := group0 (fun g => { setSreg g 0 handle0 with fetched := some (0x10004 + 2 ^ 64 + 2 ^ 80), refs := [(handle0, 2)] })
  (launch0 (fun l => { l with kernels := l.kernels.map (fun k => { k with maySpawn := true }) }) { ended with futures := [(0, f)] })
def pendingFut : Future := ⟨.running, 2, 0, 77, 2, 9⟩
def doneFut : Future := ⟨.done, 2, 0, 77, 2, 9⟩
/-- Block 0 is a task's, of entry 0. -/
def tasked (f : Future) : State := block0 (fun b => { b with task := some 0, depth := 2 }) (spawning f)

/-- Every future of column 0 is taken. -/
def allTaken : State := { State.reset with futures := (List.range 1024).map (fun i => (i, pendingFut)) }

theorem mget_const (f : Future) (k : Nat) (l : List Nat) (h : k ∈ l) : mget (l.map (fun i => (i, f))) k = some f := by
  induction l with
  | nil => simp at h
  | cons a r ih =>
    simp only [List.map, mget]
    split
    · rfl
    · exact ih (by simpa [Ne.symm ‹¬ a = k›] using h)

theorem allTaken_none : freeFuture allTaken 0 = none := by
  refine List.find?_eq_none.mpr (fun e h => ?_)
  have : futOf allTaken (0 * 1024 + e) = pendingFut := by
    simp only [futOf, mgetD, allTaken]
    rw [mget_const pendingFut _ _ (by simpa using h)]
    rfl
  rw [this]
  decide

theorem witness_Futures :
    (issueCtx (spawning pendingFut) 0 false = some (ctxOf (spawning pendingFut)) ∧ cE.plain = true ∧ sortedKeys (spawning pendingFut).groups = true ∧
      (ctxOf (spawning pendingFut)).g.super = false ∧ blockOf (spawning pendingFut) (ctxOf (spawning pendingFut)).g.block = some (blockAt (spawning pendingFut)) ∧
      ((kernelOf (spawning pendingFut) (blockAt (spawning pendingFut))).elim false (·.maySpawn)) = true ∧
      (ctxOf (spawning pendingFut)).g.fetched = some (0x10004 + 2 ^ 64 + 2 ^ 80) ∧
      parseTask (0x10004 + 2 ^ 64 + 2 ^ 80) (ctxOf (spawning pendingFut)).g.width = some ⟨0x10004, 1, 1, 0, 0, 0, 0, 1, 16⟩ ∧
      Ready (spawning pendingFut) (ctxOf (spawning pendingFut)) false [] [.s 0, .s 1, .s 2, .s 127] [] ∧
      freeFuture (spawning pendingFut) (coreCol (ctxOf (spawning pendingFut)).core) = some 1 ∧ (blockAt (spawning pendingFut)).depth < 8 ∧
      listRoom (spawning pendingFut) (ctxOf (spawning pendingFut)).key (ctxOf (spawning pendingFut)).g = true ∧
      (engineOf (spawning pendingFut) (colEngine (coreCol (ctxOf (spawning pendingFut)).core))).placing = none) ∧
    (∃ s : State, freeFuture s 0 = none) ∧
    (sreg (ctxOf (spawning doneFut)).g 0 % 2 ^ 32 = handle0 ∧ handleEntry handle0 = 0 ∧ handleFault (spawning doneFut) handle0 = none ∧
      ownHandle (spawning doneFut) (ctxOf (spawning doneFut)).g handle0 = false ∧
      Ready (spawning doneFut) (ctxOf (spawning doneFut)) false [] [.s 0, .s 1] [] ∧ (ctxOf (spawning doneFut)).r.count = 0 ∧
      (futOf (spawning doneFut) 0).state = .done ∧ handleFault (spawning pendingFut) handle0 = none ∧ (futOf (spawning pendingFut) 0).state ≠ .done) ∧
    (((ctxOf (spawning doneFut)).g.refs.map (·.1)).Nodup ∧ (futOf (spawning doneFut) 0).count < 65535 ∧
      refOf (ctxOf (spawning doneFut)).g handle0 = some 2) := by
  refine ⟨⟨rfl, rfl, by decide +kernel, rfl, rfl, by decide +kernel, rfl, by decide +kernel, ready_of (by decide +kernel), by decide +kernel, by decide +kernel, by decide +kernel, by decide +kernel⟩,
    ⟨allTaken, allTaken_none⟩,
    ⟨by decide +kernel, by decide +kernel, by decide +kernel, by decide +kernel, ready_of (by decide +kernel), by decide +kernel, by decide +kernel, by decide +kernel, by decide +kernel⟩,
    ⟨by decide +kernel, by decide +kernel, by decide +kernel⟩⟩

def owning : State := tasked { pendingFut with task := 0 }
def doomed : State := tasked ⟨.doomed, 0, 0, 0, 2, 0⟩

theorem witness_Futures_own :
    ((blockAt owning).task = some 0 ∧ issueCtx owning 0 false = some (ctxOf owning) ∧
      blockOf owning (ctxOf owning).g.block = some (blockAt owning) ∧
      (futOf owning 0).task = (ctxOf owning).g.block ∧
      (futOf owning 0).state ≠ .free ∧ (futOf owning 0).state ≠ .doomed ∧
      Ready owning (ctxOf owning) false [] [.s 1] [] ∧
      Ready owning (ctxOf owning) false [] [] []) ∧
    ((futOf doomed 0).state = .doomed ∧ Ready doomed (ctxOf doomed) false [] [] []) ∧
    (blockAt (spawning doneFut)).task = none := by
  refine ⟨⟨rfl, rfl, rfl, by decide +kernel, by decide +kernel, by decide +kernel, ready_of (by decide +kernel), ready_of (by decide +kernel)⟩,
    ⟨by decide +kernel, ready_of (by decide +kernel)⟩, rfl⟩

/-- Instance 0 of launch 0 is one member of a gang whose pipe 3 leads from member 0 to itself through queue 7; s0 holds 0x10080. -/
def piped (held : List (Nat × Row)) : State := group0 (fun g => setSreg g 0 0x10080)
  (launch0 (fun l => { l with gang := true, pipes := [(3, 0, 1, 1, 7)], ranges := some [⟨0, 0x1000000, 0, 0x41D⟩] })
    (block0 (fun b => { b with shares := [(3, held)] }) ended))
/-- An arrival of member 1 at an object of two members of which member 0 has arrived. -/
def arriving : State := { piped [] with arrivals := [⟨.group 0, 0x10080, page1, 1, 5, 0, 0x10080, none, 0⟩]
                                        home := mset (mset [] 1026 { homeGet run0 page1 1026 with data := 2 + 2 ^ 16 }) 1027 (homeGet run0 page1 1027) }

theorem witness_BarriersAndPipes :
    (issueCtx (piped []) 0 false = some (ctxOf (piped [])) ∧ (ctxOf (piped [])).g.super = false ∧
      blockOf (piped []) (ctxOf (piped [])).g.block = some (blockAt (piped [])) ∧ (ctxOf (piped [])).r.count = 0 ∧
      (blockAt (piped [])).barriers[(7 : BitVec 3).toNat]? = some ⟨0, 0, 0⟩ ∧ Ready (piped []) (ctxOf (piped [])) false [] [.s 0, .s 1] [] ∧
      (ctxOf (piped [])).g.waitRec = none ∧ (0 : BitVec 5).toNat ≤ (blockAt (piped [])).shape.groups ∧
      popCount (0 ||| 2 ^ (ctxOf (piped [])).g.index) 16 = (blockAt (piped [])).shape.groups - (blockAt (piped [])).exited) ∧
    (popCount (0 ||| 2 ^ (ctxOf (piped [])).g.index) 16 ≠ 2 ∧ (2 : BitVec 5).toNat ≤ (blockAt (block0 (fun b => { b with shape := { b.shape with groups := 2 } }) (piped []))).shape.groups) ∧
    (∃ s c, issueCtx s 0 false = some c ∧ c.g.waitRec = some (.bar 7 255) ∧ Ready s c false [] [] []) ∧
    (sreg (ctxOf (piped [])).g 0 % 128 = 0 ∧ uncommitted (piped []) (ctxOf (piped [])).g = false ∧ page1.repl = false ∧ isHbm (page1.pa52 0x10080) = true ∧
      ∃ r, laneXlate (ctxOf (piped [])) (piped []) 0x10080 128 .write true false = .ok (piped []) 0x10080 page1 r) ∧
    (∃ s c, issueCtx s 0 false = some c ∧ c.g.waitRec = some (.barx 0x10080 0x10080 page1 false false false) ∧ objPhase s page1 0x10080 = false) ∧
    (sortedKeys (piped []).blocks = true ∧ isGang (piped []) (blockAt (piped [])) = true ∧ (blockAt (piped [])).task = none ∧
      pipeOf (piped []) (blockAt (piped [])) 3 = some ((blockAt (piped [])).member, 1, 1, 7) ∧ Ready (piped []) (ctxOf (piped [])) false [⟨.v 383 true, false⟩] [] [] ∧
      memberBlock (piped []) (blockAt (piped [])).launch (blockAt (piped [])).index 0 = some (0, blockAt (piped [])) ∧ (blockAt (piped [])).state = .running ∧
      (blockAt (piped [])).shares.find? (·.1 == 3) = some (3, []) ∧ ([] : List (Nat × Row)).length < 1 ∧
      (blockAt (piped [(0, 0)])).shares.find? (·.1 == 3) = some (3, [(0, 0)]) ∧ ¬ [((0 : Nat), (0 : Row))].length < 1) ∧
    (arrivalHeld arriving ⟨.group 0, 0x10080, page1, 1, 5, 0, 0x10080, none, 0⟩ = false ∧ groupOf arriving 0 = some (groupAt arriving) ∧
      refuses arriving (homePa page1 1026) = none ∧ holders arriving 1026 = [] ∧ holders arriving 1027 = [] ∧ inL2 arriving 1026 = true ∧ inL2 arriving 1027 = true ∧
      objFld ((homeGet arriving page1 1026).data.toNat + (homeGet arriving page1 1027).data.toNat * 2 ^ 512) 0 1 = 2 ∧
      objMalformed ((homeGet arriving page1 1026).data.toNat + (homeGet arriving page1 1027).data.toNat * 2 ^ 512) 1 = false ∧
      objFld ((homeGet arriving page1 1026).data.toNat + (homeGet arriving page1 1027).data.toNat * 2 ^ 512) 2 2 = 1 ∧
      (homeGet arriving page1 1026).poison = 0 ∧ (homeGet arriving page1 1027).poison = 0) := by
  refine ⟨⟨rfl, rfl, rfl, by decide +kernel, rfl, ready_of (by decide +kernel), rfl, by decide, by decide⟩, by decide,
    ⟨group0 (fun g => { g with waitRec := some (.bar 7 255) }) (piped []), _, rfl, rfl, ready_of (by decide +kernel)⟩,
    ⟨by decide +kernel, by decide, by decide, by decide, ok_of (by decide +kernel)⟩,
    ⟨group0 (fun g => { g with waitRec := some (.barx 0x10080 0x10080 page1 false false false) }) (piped []), _, rfl, rfl, by decide +kernel⟩,
    ⟨by decide, by decide, rfl, rfl, ready_of (by decide +kernel), rfl, rfl, rfl, by decide, rfl, by decide⟩,
    ⟨by decide, rfl, by decide +kernel, by decide, by decide, by decide, by decide, by decide +kernel, by decide +kernel, by decide +kernel, by decide +kernel, by decide +kernel⟩⟩

/-- Block 0's kernel traps to 0x20000. -/
def trapping (entry : Word64) (s : State) : State :=
  launch0 (fun l => { l with kernels := l.kernels.map (fun k => { k with trapEntry := entry }) }) s
def trapped : State := trapping 0x20000 ended
/-- Group 0 is in its trap handler: lanes 0 and 1 are handler lanes, lane 0 has returned. -/
def inHandler (mask : LaneMask) : State := group0 (fun g => { g with handler := some ⟨mask, 1, 0xFFFF, 3, []⟩, run := some ⟨2, w64 placedPc, 0, 0, none⟩ }) ended

theorem trapsTo_trapped : trapsTo trapped (ctxOf trapped) 0x20000 := ⟨rfl, rfl, by decide, _, _, rfl, rfl, rfl⟩

theorem witness_TrapAndReturn :
    (issueCtx trapped 0 false = some (ctxOf trapped) ∧ Ready trapped (ctxOf trapped) false [] [] [] ∧ (ctxOf trapped).mask ≠ 0 ∧
      trapsTo trapped (ctxOf trapped) 0x20000) ∧
    (issueCtx trapped 1 false = some (emptied trapped) ∧ (emptied trapped).mask = 0 ∧ Ready trapped (emptied trapped) false [] [] []) ∧
    (∃ b k l, blockOf ended (ctxOf ended).g.block = some b ∧ kernelOf ended b = some k ∧ k.trapEntry = 0 ∧ launchOf ended b.launch = some l ∧
      l.handler = false ∧ l.ended = none ∧ (ctxOf ended).g.handler = none ∧ (ctxOf ended).g.super = false) ∧
    (issueCtx (inHandler 3) 0 false = some (ctxOf (inHandler 3)) ∧ (ctxOf (inHandler 3)).g.handler = some ⟨3, 1, 0xFFFF, 3, []⟩ ∧
      (ctxOf (inHandler 3)).mask ≠ 0 ∧ Ready (inHandler 3) (ctxOf (inHandler 3)) false [] [] [] ∧
      ∀ l, l < 64 → (laneAt (ctxOf (inHandler 3)).g l).live = true → inMask (3 : LaneMask) l = true → inMask (1 : LaneMask) l = false →
        inMask (ctxOf (inHandler 3)).r.active l = true) ∧
    (issueCtx (inHandler 0x8003) 0 false = some (ctxOf (inHandler 0x8003)) ∧
      (laneAt (ctxOf (inHandler 0x8003)).g 15).live = true ∧ inMask (0x8003 : LaneMask) 15 = true ∧ inMask (1 : LaneMask) 15 = false ∧
      inMask (ctxOf (inHandler 0x8003)).r.active 15 = false) := by
  refine ⟨⟨rfl, ready_of (by decide +kernel), by decide +kernel, trapsTo_trapped⟩, ⟨rfl, by decide +kernel, ready_of (by decide +kernel)⟩,
    ⟨_, _, _, rfl, rfl, rfl, rfl, rfl, rfl, rfl, rfl⟩, ⟨rfl, rfl, by decide +kernel, ready_of (by decide +kernel), by decide +kernel⟩, rfl, by decide, by decide,
    by decide, by decide⟩

/-- The launch is privileged. -/
def trusted (s : State) : State := block0 (fun b => { b with priv := true }) s

theorem witness_ControlRegisters :
    issueCtx ended 0 false = some (ctxOf ended) ∧ cE.plain = true ∧ Ready ended (ctxOf ended) false [] [.s 127] [] ∧
    (∀ n ∈ [0x001, 0x002, 0x003, 0x004, 0x010, 0x018, 0x01F, 0x020, 0x030, 0x031, 0x032, 0x033, 0x034, 0x040, 0x041, 0x080, 0x08F, 0x090, 0x09F],
      csrKind (BitVec.ofNat 12 n).toNat ≠ none) ∧
    (∀ n ∈ [0x001, 0x002, 0x003, 0x004, 0x010, 0x018, 0x01F, 0x020, 0x030, 0x031, 0x032, 0x033, 0x034, 0x041, 0x090, 0x09F],
      (controlValue ended (ctxOf ended) n).isSome = true) ∧
    (csrKind 0x010 = some .priv ∧ issueCtx (trusted ended) 0 false = some (ctxOf (trusted ended)) ∧ privileged (trusted ended) (ctxOf (trusted ended)).g = true ∧
      Ready (trusted ended) (ctxOf (trusted ended)) false [] [.s 127] [] ∧ 96 % 256 ≤ (coreOf (trusted ended) (ctxOf (trusted ended)).core).allot ∧
      (coreOf (trusted ended) (ctxOf (trusted ended)).core).clamp = false) ∧
    ((ctxOf (inHandler 3)).g.handler ≠ none ∧ csrKind 0x032 = some .rules ∧ csrKind 0x041 = some .rules) ∧
    (nget (coreOf ended (ctxOf ended).core).perfsel 15).testBit 31 = false := by
  refine ⟨rfl, rfl, ready_of (by decide +kernel), by decide, by decide +kernel, ⟨by decide, rfl, by decide +kernel, ready_of (by decide +kernel), by decide, by decide⟩,
    by decide, by decide⟩

theorem witness_SystemInstructions :
    issueCtx (trusted ended) 0 false = some (ctxOf (trusted ended)) ∧ cE.plain = true ∧ privileged (trusted ended) (ctxOf (trusted ended)).g = true ∧
    Ready (trusted ended) (ctxOf (trusted ended)) false [] [.s 0] [] ∧
    (sreg (ctxOf (trusted ended)).g 0 % 2 ^ 32 = 0 ∧ ∃ e ∈ (trusted ended).launches, e.2.handler = false ∧ e.2.cmd.toNat = 0) ∧
    (sreg (ctxOf (trusted addressed)).g 0 % 2 ^ 32 = 0x10040 ∧ ∀ e ∈ (trusted addressed).launches, e.2.cmd.toNat ≠ 0x10040) ∧
    (trusted ended).halted = false ∧ ∃ s : State, s.halted = true ∧ ∃ c, issueCtx s 0 false = some c ∧ privileged s c.g = true ∧ Ready s c false [] [.s 0] [] := by
  refine ⟨rfl, rfl, by decide +kernel, ready_of (by decide +kernel), ⟨by decide +kernel, _, List.Mem.head _, rfl, by decide⟩, ⟨by decide +kernel, by decide +kernel⟩, rfl,
    { trusted ended with halted := true }, rfl, _, rfl, by decide +kernel, ready_of (by decide +kernel)⟩

theorem witness_PrivilegedInstructionsTrap :
    issueCtx trapped 0 false = some (ctxOf trapped) ∧ (ctxOf trapped).r.start < 64 ∧ (ctxOf trapped).r.count < 24 ∧
    privileged trapped (ctxOf trapped).g = false ∧ csrKind (0x010 : BitVec 12).toNat = some .priv ∧ trapsTo trapped (ctxOf trapped) 0x20000 := by
  refine ⟨rfl, by decide +kernel, by decide +kernel, by decide +kernel, by decide, trapsTo_trapped⟩

/-- The state in which the next step runs, where it is core 0's slot 0 that goes on. -/
def after (s : State) : State :=
  match nextWork s with
  | .issue _ _ u => u
  | _ => s
theorem issue_of {s : State} (h : (match nextWork s with | .issue a b _ => a == 0 && b == 0 | _ => false) = true) : nextWork s = .issue 0 0 (after s) := by
  unfold after
  split at h <;> simp_all

theorem parcel_of {s : State} {k : Nat} {g : Group} {va ia : Nat} {leaf : Leaf} {p : Word} (h0 : g.fetchFail = none)
    (h : (answers (translate s (groupLaunch s g) va 4 .fetch (groupReq s k g false false true) g.walked) s ia leaf &&
      decide (refuses s (leaf.pa52 ia) = none ∧ p = w32 (lineField (homeGet s leaf (homeKey leaf (ia / 64) leaf.ht)).data (ia % 64) 4))) = true) :
    ParcelAt s k g va p := by
  simp only [Bool.and_eq_true, decide_eq_true_eq] at h
  obtain ⟨h1, h2, h3⟩ := h
  obtain ⟨r, h1⟩ := ok_of h1
  exact ⟨h0, ia, leaf, r, h1, h2, h3⟩

/-- A long `iadd.s64 s3, s3, #-8`, a parcel that decodes to nothing, two short `nop`s in a doubleword, and a short one before a long one. -/
def longOne : State := placeWord State.reset 0x7F8FFE0F18304086
def faulty : State := placeWord State.reset 3
def pairOfNops : State := group0 (fun g => { g with run := some ⟨0xFFFF, 0x10008, 0, 0, none⟩ }) (placeWord State.reset 0)
def nopThenLong : State := { pairOfNops with mem := storeBytes pairOfNops.mem 0x1000C 2 1 }

theorem witness_StepRunsDecoded :
    (nextWork longOne = .issue 0 0 (after longOne) ∧ groupOf (after longOne) (gkey 0 0) = some (groupAt (after longOne)) ∧
      (groupAt (after longOne)).run = some ⟨0xFFFF, 0x10004, 0, 0, none⟩ ∧
      ParcelsAt (after longOne) (gkey 0 0) (groupAt (after longOne)) 0x10004 0x18304086 0x7F8FFE0F ∧
      decodeAt none 0x18304086 0x7F8FFE0F = .instr (.iadd ⟨true, 0, false⟩ false ⟨.s64, .s 3, .s 3, .imm (-8)⟩) 2 ∧
      beginsPair ⟨0xFFFF, 0x10004, 0, 0, none⟩ 0x18304086 = false) ∧
    (nextWork pairOfNops = .issue 0 0 (after pairOfNops) ∧ groupOf (after pairOfNops) (gkey 0 0) = some (groupAt (after pairOfNops)) ∧
      (groupAt (after pairOfNops)).run = some ⟨0xFFFF, 0x10008, 0, 0, none⟩ ∧
      ParcelAt (after pairOfNops) (gkey 0 0) (groupAt (after pairOfNops)) 0x10008 0 ∧
      ParcelAt (after pairOfNops) (gkey 0 0) (groupAt (after pairOfNops)) 0x1000C 0 ∧
      decodeAt none 0 0 = .instr (.nopShort 0 0 false) 1 ∧ beginsPair ⟨0xFFFF, 0x10008, 0, 0, none⟩ 0 = true ∧
      (pairFn (.nopShort 0 0 false)).isSome = true) ∧
    (nextWork nopThenLong = .issue 0 0 (after nopThenLong) ∧ groupOf (after nopThenLong) (gkey 0 0) = some (groupAt (after nopThenLong)) ∧
      (groupAt (after nopThenLong)).run = some ⟨0xFFFF, 0x10008, 0, 0, none⟩ ∧
      ParcelAt (after nopThenLong) (gkey 0 0) (groupAt (after nopThenLong)) 0x10008 0 ∧
      ParcelAt (after nopThenLong) (gkey 0 0) (groupAt (after nopThenLong)) 0x1000C 2) ∧
    (nextWork faulty = .issue 0 0 (after faulty) ∧ groupOf (after faulty) (gkey 0 0) = some (groupAt (after faulty)) ∧
      (groupAt (after faulty)).run = some ⟨0xFFFF, 0x10004, 0, 0, none⟩ ∧
      ParcelsAt (after faulty) (gkey 0 0) (groupAt (after faulty)) 0x10004 3 0 ∧ ∃ a b, decodeAt none 3 0 = .fault a b) ∧
    (∃ s i u, nextWork s = .event i u) ∧ (∃ s u, nextWork s = .pass u) ∧ nextWork State.reset = .idle := by
  refine ⟨⟨issue_of (by decide +kernel), rfl, rfl, ⟨parcel_of (ia := 0x10004) (leaf := page1) rfl (by decide +kernel), fun _ => ⟨parcel_of (ia := 0x10008) (leaf := page1) rfl (by decide +kernel),
      [⟨0, 0x1000000, 0, 0x1D⟩], 0x10004, ⟨0, 0x1000000, 0, 0x1D⟩, rfl, range_of (by decide +kernel)⟩⟩, by decide, by decide⟩,
    ⟨issue_of (by decide +kernel), rfl, rfl, parcel_of (ia := 0x10008) (leaf := page1) rfl (by decide +kernel), parcel_of (ia := 0x1000C) (leaf := page1) rfl (by decide +kernel), by decide,
      by decide, by decide⟩,
    ⟨issue_of (by decide +kernel), rfl, rfl, parcel_of (ia := 0x10008) (leaf := page1) rfl (by decide +kernel), parcel_of (ia := 0x1000C) (leaf := page1) rfl (by decide +kernel)⟩,
    ⟨issue_of (by decide +kernel), rfl, rfl, ⟨parcel_of (ia := 0x10004) (leaf := page1) rfl (by decide +kernel), fun h => absurd h (by decide)⟩, _, _, rfl⟩,
    ⟨{ State.reset with agenda := [.ldqLand] }, .ldqLand, _, rfl⟩, ⟨idle (fun g => { g with status := .waiting (.sleep 100), run := none }) run0, _, rfl⟩, rfl⟩

theorem witness_RoundTrip : (Instr.icmp c0 .lt .s32 15 (.v 383 true) (.imm 255)).wf = true ∧
    encode (.icmp c0 .lt .s32 15 (.v 383 true) (.imm 255)) ≠ [] := by decide

theorem witness_StepKeepsMemoryCanonical : State.reset.memOk ∧ (placeWord State.reset 7).memOk ∧ ∃ s t, s.memOk ∧ step s = .next t :=
  ⟨rfl, (by decide +kernel : Memory.wf (placeWord State.reset 7).mem = true), State.reset, State.reset, rfl, rfl⟩

theorem witness_HaltedPartIssuesNothing : ({ State.reset with halted := true } : State).halted = true ∧ ({ State.reset with thermal := true } : State).thermal = true :=
  ⟨rfl, rfl⟩

/-- Ranges 0x1000 to 0x2000, readable, and 0x1800 to 0x3000, privileged and writable: the first covers its base and its last byte. -/
theorem witness_RangeTranslation :
    let rs : List RangeReg := [⟨0x1000, 0x2000, 0x5000, 0x05⟩, ⟨0x1800, 0x3000, 0, 0x29⟩]
    let covers (r : RangeReg) (va : Nat) : Bool := r.v && decide (r.base.toNat ≤ va) && decide (va < r.limit.toNat)
    (covers ⟨0x1000, 0x2000, 0x5000, 0x05⟩ 0x1000 = true ∧ covers ⟨0x1000, 0x2000, 0x5000, 0x05⟩ 0x1FFF = true ∧
      (⟨0x1000, 0x2000, 0x5000, 0x05⟩ : RangeReg).r = true ∧ (⟨0x1000, 0x2000, 0x5000, 0x05⟩ : RangeReg).w = false ∧
      (⟨0x1000, 0x2000, 0x5000, 0x05⟩ : RangeReg).privOnly = false ∧ 0x1FFF + 1 ≤ 0x2000 ∧ 0x2000 < 0x1FFF + 2) ∧
    (covers ⟨0x1000, 0x2000, 0x5000, 0x05⟩ 0x2000 = false ∧ covers ⟨0x1800, 0x3000, 0, 0x29⟩ 0x2000 = true ∧
      (⟨0x1800, 0x3000, 0, 0x29⟩ : RangeReg).w = true ∧ (⟨0x1800, 0x3000, 0, 0x29⟩ : RangeReg).privOnly = true) ∧
    (∀ r ∈ rs, covers r 0x3000 = false) ∧ ∀ r ∈ rs, covers r 0xFFF = false := by decide +kernel

theorem witness_RowsAndPredicates : mget (freshGroup 0 0 16 0 [] [] 0).vregs 383 = none ∧
    (mget (writeLanes (freshGroup 0 0 16 0 [] [] 0) 383 1 (fun _ => 7)).vregs 383).isSome = true := by decide +kernel

/-- Lanes 0 and 1 meet at 0x20; lane 2 has the lowest pc of the others. -/
def meeting (pc1 : Word64) : Group := { freshGroup 0 0 4 0 [] [] 0 with lanes := [⟨0x20, 0x20, true, 0⟩, ⟨pc1, 0x20, true, 0⟩, ⟨0x30, 0, true, 0⟩, ⟨0x10, 0, false, 0⟩] }
theorem witness_RunSelection : (meeting 0x20).handler = none ∧ (meeting 0x20).lanes.length ≤ 64 ∧
    (startRun (meeting 0x20)).run.elim false (fun r => r.pc == 0x20 && r.active == 3) = true ∧
    (startRun (meeting 0x40)).run.elim false (fun r => r.pc == 0x30 && r.active == 4) = true ∧ (laneAt (meeting 0x20) 0).live = true := by decide +kernel

theorem witness_ByteReadsBack : State.reset.memOk ∧ ((7 : Nat) ≠ 8) := ⟨rfl, by decide⟩

theorem witness_DecodedIsCanonical : decodeAt none 0 7 = .instr (.nopShort 0 0 false) 1 ∧
    decodeAt none 0x18304086 0x7F8FFE0F = .instr (.iadd ⟨true, 0, false⟩ false ⟨.s64, .s 3, .s 3, .imm (-8)⟩) 2 ∧
    (∀ x, Instr.nopShort 0 0 false ≠ .pfx x) ∧ ∀ x, Instr.iadd ⟨true, 0, false⟩ false ⟨.s64, .s 3, .s 3, .imm (-8)⟩ ≠ .pfx x := by
  refine ⟨by decide, by decide, ?_, ?_⟩ <;> intro x h <;> cases h

/-! ### Ill-formed terms: one for each check of WellFormed.lean -/

theorem test_illformed_prefix :
    Pfx.wf ⟨1, 0, 0, false, false, 0, 0, 0, 0, 0, false⟩ = false ∧ (∃ p : Pfx, p.round = 6 ∧ p.wf = false) ∧ (∃ p : Pfx, p.round = 7 ∧ p.wf = false) ∧
    (∃ p : Pfx, p.scope = 6 ∧ p.wf = false) ∧ (∃ p : Pfx, p.scope = 7 ∧ p.wf = false) ∧ (∃ p : Pfx, p.scope = 0 ∧ p.hint = 1 ∧ p.wf = false) ∧
    (∃ p : Pfx, p.leaf = true ∧ p.scope = 1 ∧ p.policy = 1 ∧ p.wf = false) := by
  let z : Pfx := ⟨0, 0, 0, false, false, 0, 0, 0, 0, 0, false⟩
  exact ⟨by decide, ⟨{ z with round := 6 }, by decide⟩, ⟨{ z with round := 7 }, by decide⟩, ⟨{ z with scope := 6 }, by decide⟩,
    ⟨{ z with scope := 7 }, by decide⟩, ⟨{ z with hint := 1 }, by decide⟩, ⟨{ z with leaf := true, scope := 1, policy := 1 }, by decide⟩⟩

theorem test_illformed_integer :
    (Instr.iadd c0 false ⟨.s32, .v 0, .imm 1, .v 2 false⟩).wf = false ∧ (Instr.and c0 ⟨.s32, .s 0, .v 1 false, .s 2⟩).wf = false ∧
    (Instr.shl ⟨false, 1, false⟩ ⟨.s32, .s 0, .s 1, .s 2⟩).wf = false ∧ (Instr.imulh c0 ⟨.s16, .v 0, .v 1 false, .v 2 false⟩).wf = false ∧
    (Instr.imulhShort ⟨.z8, 0, false, 1, 2, false⟩).wf = false ∧ (Instr.imad c0 false ⟨.s32, .v 0, .v 1 false, .imm 2, .v 3⟩).wf = false ∧
    (Instr.iabs c0 false ⟨.z32, .v 0, .v 1 false⟩).wf = false ∧ (Instr.iabsShort ⟨.z32, 0, false, 1, 2, false⟩).wf = false ∧
    (Instr.clz c0 ⟨.z32, .s 0, .q 0⟩).wf = false ∧ (Instr.icmp c0 .eq .s32 1 (.imm 0) (.s 0)).wf = false ∧
    (Instr.sel c0 .s32 0 (.v 1 false) (.imm 2) 1).wf = false ∧ (Instr.movi ⟨false, 0, true⟩ .k30 (.s 0) 0).wf = false ∧
    (Instr.lea c0 0 ⟨.z32, .v 0, .q 1, .s 0⟩).wf = false ∧ (Instr.lea c0 0 ⟨.z16, .v 0, .v 1 false, .s 0⟩).wf = false := by decide

theorem test_illformed_float :
    (Instr.fadd c0 ⟨.f32, ⟨false, false, false⟩, .v 0, .v 1 false, .imm 1⟩).wf = false ∧
    (Instr.ffma c0 ⟨.f32, ⟨false, false, false⟩, .s 0, .s 1, .s 2⟩ (.v 3)).wf = false ∧
    (Instr.fcmp c0 .lt .f16x2 0 (.v 0 false) (.v 1 false)).wf = false ∧ (Instr.frcp c0 ⟨.f32, false, false, .s 0, .v 1 false⟩).wf = false ∧
    (Instr.cvt c0 (.to .mx8e4) (.v 0) (.v 1 false)).wf = false ∧ (Instr.cvt c0 (.toi .s64) (.v 0) (.v 1 false)).wf = false ∧
    (Instr.cvtShort ⟨.mx8e5, 0, false, 0, 0, true⟩).wf = false ∧ (Instr.pack c0 0 .mx8e5 0 (.v 0 false) (.v 1 false)).wf = false ∧
    (Instr.unpack c0 0 .mx8e4 0 (.v 0 false)).wf = false ∧ (Instr.qnt c0 true 0 (.imm 0) 0).wf = false := by decide

theorem test_illformed_lanes_and_control :
    (Instr.shfl c0 .lane 0 (.imm 0) (.imm 0)).wf = false ∧ (Instr.shfl c0 .lane 0 (.v 0 false) (.reg (.q 0) 0)).wf = false ∧
    (Instr.bcast c0 (.v 0) (.imm 0) (.imm 0)).wf = false ∧ (Instr.permb c0 .idx 0 (.imm 0) 0).wf = false ∧
    (Instr.scan c0 .xor .f32 0 (.v 0 false)).wf = false ∧ (Instr.fold c0 .or .f32 (.s 0) (.v 0 false)).wf = false ∧
    (Instr.carry c0 0 0 (.imm 0) (.s 0 0)).wf = false ∧ (Instr.lid c0 false (.s 0)).wf = false ∧ (Instr.jmp c0 (.q 0)).wf = false ∧
    (Instr.ret c0 (.imm 0)).wf = false := by decide

theorem test_illformed_memory :
    (Instr.ld c0 .b128 plainForm (.s 0) (.s 4) 0).wf = false ∧ (Instr.ld c0 .s8 plainForm (.s 0) (.v 4 false) 0).wf = false ∧
    (Instr.st c0 .b128 plainForm (.s 0) (.s 4) 0).wf = false ∧ (Instr.ldq c0 0 plainForm (.imm 4) 0).wf = false ∧
    (Instr.lbuf c0 .idx .abuf 0 (.s 0) 0).wf = false ∧ (Instr.sbuf c0 .w .abuf (.v 0 false) (.v 1 false) 0).wf = false ∧
    (Instr.sbuf c0 .w .abuf (.s 0) (.imm 1) 0).wf = false ∧ (Instr.atom c0 (.add .s16) 0 none (.v 0 false) (.v 1 false)).wf = false ∧
    (Instr.atom c0 (.add .s32) 0 (some (.s 0)) (.s 0) (.v 1 false)).wf = false ∧ (Instr.cas c0 .s8 0 (.v 0) (.v 2 false) (.v 4 false) (.v 6)).wf = false ∧
    (Instr.prf c0 true plainForm (.imm 0) 0).wf = false ∧ (Instr.inv c0 0 none (.line (.imm 0) 0)).wf = false ∧
    (Instr.flush c0 0 none (.wbi (.q 0) 0)).wf = false ∧ (Instr.nmo c0 (.addF32 (.imm 0)) 0).wf = false ∧ (Instr.nmo c0 (.cas32 0 (.imm 0) (.v 0)) 0).wf = false ∧
    (Instr.mmov c0 (.ld 380) .c8 0 0).wf = false ∧ (Instr.push c0 (.imm 0) 0 0).wf = false := by decide

/-! ### Refused encodings (12 R355, R359) -/

/-- What a long word given by its fields decodes to after a prefix. -/
def refused (pre : Option Pfx) (op dst s1 s2 mod cls : Nat) (m1 m2 pred : Nat := 0) : Decoded :=
  let v := longWord op dst s1 s2 mod cls m1 m2 0 pred
  decodeAt pre (BitVec.ofNat 32 v) (BitVec.ofNat 32 (v / 2 ^ 32))
def toZero : Pfx := ⟨0, 0, 0, false, false, 0, 0, 0, 0, 1, false⟩

/-- An unallocated long opcode and short one, a marker that `exit` does not use, a constant where the destination of `iadd` stands, an
immediate src1, a prefix after a prefix, a rounding prefix before `iadd`, a second parcel first, a first one alone, `imulh` of
s8, and scalar forms with a vector operand and with p1. -/
theorem test_decode_faults :
    refused none 0x280 0 0 0 0 0 = .fault 1 0x00 ∧ decodeAt none (BitVec.ofNat 32 (8 * 127)) 0 = .fault 1 0x01 ∧
    refused none 0x007 0 0 0 0 0 (m1 := 1) = .fault 1 0x02 ∧ refused none 0x012 0 4 6 7 (2 * 512) = .fault 1 0x02 ∧
    refused none 0x010 0 511 6 0 (2 * 512) (m1 := 1) = .fault 1 0x03 ∧
    decodeAt (some toZero) 0x00000009 0 = .fault 1 0x04 ∧ refused (some toZero) 0x010 2 4 6 0 (2 * 512) = .fault 1 0x05 ∧
    decodeAt none 3 0 = .fault 1 0x07 ∧ decodeAt none 0x82 0 = .fault 1 0x08 ∧ refused none 0x014 2 4 6 0 0 = .fault 1 0x09 ∧
    refused none 0x010 384 4 6 0 (2 * 512) = .fault 1 0x0A ∧ refused none 0x010 384 386 387 0 (2 * 512) (pred := 1) = .fault 1 0x0A := by decide

/-! ### One step on a small state: expected values from the spec's worked examples, or counted from its rules -/

/-- The state after the first step of a word of 64 bits, its group prepared by `f`. -/
def ran (w : Nat) (f : Group → Group) : State :=
  match step (group0 f (placeWord State.reset w)) with
  | .next t => t
  | _ => State.reset
/-- Rows, one value in every lane, and a lane's value. -/
def fill (n : Nat) (v : Word) (g : Group) : Group := writeLanes g n (maskOf (fun _ => true)) (fun _ => v)
def fillBy (n : Nat) (f : Nat → Word) (g : Group) : Group := writeLanes g n (maskOf (fun _ => true)) f
def laneIn (s : State) (n l : Nat) : Nat := (laneOf (vreg (groupAt s) n) l).toNat

/-- 14 R399's example: `bfx` takes bits 9 to 6 of 0x5AC0, `bfi` puts 0000 there. -/
theorem test_bfx_example : laneIn (ran (longWord 0x023 2 4 6 0 (2 * 512)) (fun g => fill 4 0x5AC0 (fill 6 0x406 g))) 2 15 = 0xFFFFFFFB := by
  decide +kernel
theorem test_bfi_example :
    laneIn (ran (longWord 0x024 2 4 6 0 (2 * 512 + 8)) (fun g => fill 8 0xFFFFFFFF (fill 4 0x5AC0 (fill 6 0x406 g)))) 2 0 = 0xFFFFFC3F := by
  decide +kernel

/-- 14 R396: the largest s32 and 1 wrap to the smallest; with `.sat` the largest stays. -/
theorem test_iadd_wraps : laneIn (ran (longWord 0x010 2 4 6 0 (2 * 512)) (fun g => fill 4 0x7FFFFFFF (fill 6 1 g))) 2 7 = 0x80000000 := by
  decide +kernel
theorem test_iadd_saturates : laneIn (ran (longWord 0x010 2 4 6 1 (2 * 512)) (fun g => fill 4 0x7FFFFFFF (fill 6 1 g))) 2 7 = 0x7FFFFFFF := by
  decide +kernel

/-- 13's example of conversions to E4M3 under rn: 464.0 ties to 448, code 0x7E; 470.0 overflows to NaN, code 0x7F. -/
theorem test_cvt_tie : laneIn (ran (longWord 0x090 2 4 0 0 0) (fun g => fill 4 0x43E80000 g)) 2 3 = 0x7E := by decide +kernel
theorem test_cvt_overflow : laneIn (ran (longWord 0x090 2 4 0 0 0) (fun g => fill 4 0x43EB0000 g)) 2 3 = 0x7F := by decide +kernel

/-- 15's example of `ffma` after a prefix: under rz the overflow stays at the largest finite number. -/
theorem test_ffma_example :
    laneIn (ran 0x00B050272080041A (fun g => { fill 9 0x7F61B1E6 (fill 10 0x40000000 (fill 11 0 g)) with
      run := g.run.map (fun r => { r with pre := some (⟨0, 0, 0, false, false, 0, 0, 0, 1, 1, false⟩, 0x10000) }) })) 8 0 = 0xFF7FFFFF := by
  decide +kernel

/-- 15's example of `permb.hi`. -/
theorem test_permb_example :
    laneIn (ran (longWord 0x104 2 1 388 1 0) (fun g => fill 1 0xE282AC41 (setSreg (setSreg g 4 0x0706050403020100) 5 0x0F0E0D0C0B0A0908))) 2 9 =
      0x0E080A04 := by decide +kernel

/-- 15's example of `qnt.vf4`: lanes 0 to 7 hold 0.3, −1.2, 2.9, 0, 5, −0.07, 12 and 1, lanes 8 to 15 hold 1. -/
def quantised : State := ran (longWord 0x093 10 4 390 0 (4 * 512)) (fun g => setSreg (fillBy 4 (fun l =>
  ([0x3E99999A, 0xBF99999A, 0x4039999A, 0, 0x40A00000, 0xBD8F5C29, 0x41400000][l]?).getD 0x3F800000) g) 6 0x3F80)
theorem test_qnt_example : laneIn quantised 10 0 = 0x17840390 ∧ laneIn quantised 10 8 = 0x77777777 ∧ laneIn quantised 11 7 = 0x40000080 ∧
    laneIn quantised 11 15 = 0x3E300016 := by decide +kernel

/-- 15's example of `shfl.off` and `carry` past lane 5, which has exited, and lane 9, which is inactive. -/
def ragged (g : Group) : Group := { fillBy 1 (fun l => BitVec.ofNat 32 (0x100 + l)) (setSreg (setSreg g 4 (2 ^ 64 - 1)) 7 0x41000000) with
  lanes := lset g.lanes 5 ⟨0, 0, false, 0⟩, run := g.run.map (fun r => { r with active := 0xFDDF }) }
theorem test_shfl_example : ((List.range 11).map (laneIn (ran (longWord 0x100 2 1 388 1 3) ragged) 2) =
    [0, 0x100, 0x101, 0x102, 0x103, 0, 0, 0x106, 0x107, 0, 0x109]) := by decide +kernel
theorem test_carry_example : ((List.range 11).map (laneIn (ran (longWord 0x107 3 1 391 1 4) ragged) 3) =
    [0x10041, 0x10100, 0x10200, 0x10300, 0x10400, 0, 0x10600, 0x10700, 0x10800, 0, 0x10A00]) := by decide +kernel

/-- 09's example of an ownership violation, for 16 lanes from 0x1E0: lanes 0 to 7 read chunk 0, lane 8 meets chunk 1 of the engine side. -/
def violating : State := trapping 0x20000 (group0 (fun g => setSreg g 2 0x1E0)
  (block0 (fun b => bufWrite { b with shape := { b.shape with abuf := 2 }, owner := [(chunkKey .abuf 1, 0)] } .abuf 0x1FC 4 0x1234ABCD)
    (placeWord State.reset (longWord 0x143 8 386 0 0 (1 * 1024)))))
def violated : State :=
  match step violating with
  | .next t => t
  | _ => State.reset
theorem test_ownership_example : laneIn violated 8 7 = 0x1234ABCD ∧ laneIn violated 8 8 = 0 ∧
    (groupAt violated).trap = ⟨8, 1, 8, 0xFF00, 0x10004, 0x200⟩ ∧ (laneAt (groupAt violated) 8).pc = 0x20000 ∧
    (laneAt (groupAt violated) 7).pc ≠ 0x20000 := by decide +kernel

/-- 14 R401: `icmp.lt.s32` compares as signed numbers. -/
theorem test_icmp_signed : preg (groupAt (ran (longWord 0x025 1 4 6 2 (2 * 512)) (fun g => fill 4 0xFFFFFFFF (fill 6 1 g)))) 1 = 0xFFFF := by
  decide +kernel

end Sys2Proof.Tests
end

section
/-! PROOFS. Translation by range registers (04 R102, R103). -/

namespace Sys2Proof.Machine

/-- V 1 and BASE ≤ va < LIMIT (R102). -/
def RangeReg.covers (va : Nat) (r : RangeReg) : Bool := r.v && decide (r.base.toNat ≤ va) && decide (va < r.limit.toNat)

/-- The range's R, W or X permits the kind of access (R103). -/
def RangeReg.allows (k : AKind) (r : RangeReg) : Bool :=
  match k with
  | .read => r.r
  | .write => r.w
  | .fetch => r.x

theorem rangeXlate_of_noneCovers {rs : List RangeReg} {va : Nat} (n : Nat) (k : AKind) (priv : Bool)
    (h : rs.find? (RangeReg.covers va) = none) : rangeXlate rs va n k priv = .trap 0x10 0x01 := by
  unfold RangeReg.covers at h
  simp only [rangeXlate, h]

/-- What the register that translates answers: the conditions of R103 in the order in which R119 reports them. -/
theorem rangeXlate_of_firstCovers {rs : List RangeReg} {va : Nat} {r : RangeReg} (n : Nat) (k : AKind) (priv : Bool)
    (h : rs.find? (RangeReg.covers va) = some r) :
    rangeXlate rs va n k priv =
      if r.limit.toNat < va + n then .trap 0x10 0x03
      else if !r.allows k then .trap 0x10 0x02
      else if r.privOnly && !priv then .trap 0x06 0
      else .ok ((va - r.base.toNat + r.offset.toNat) % 2 ^ 52) r := by
  unfold RangeReg.covers at h
  simp only [rangeXlate, h]
  rfl

/-- The lowest-numbered register that covers an address is the one that translates it (R102). -/
theorem find?_covers_of_lowest {rs : List RangeReg} {va i : Nat} {r : RangeReg} (hi : rs[i]? = some r) (hr : r.covers va = true)
    (lower : ∀ (j : Nat) x, j < i → rs[j]? = some x → x.covers va = false) : rs.find? (RangeReg.covers va) = some r := by
  obtain ⟨hlt, hget⟩ := List.getElem?_eq_some_iff.mp hi
  refine List.find?_eq_some_iff_getElem.mpr ⟨hr, i, hlt, hget, fun j hj => ?_⟩
  rw [lower j rs[j] hj (List.getElem?_eq_getElem (Nat.lt_trans hj hlt)), Bool.not_false]

section
variable {rs : List RangeReg} {va n : Nat} {r : RangeReg} {k : AKind} {priv : Bool}
  (first : rs.find? (RangeReg.covers va) = some r)
include first

theorem rangeXlate_ok (fits : va + n ≤ r.limit.toNat) (allowed : r.allows k = true) (hpriv : r.privOnly = true → priv = true) :
    rangeXlate rs va n k priv = .ok ((va - r.base.toNat + r.offset.toNat) % 2 ^ 52) r := by
  have granted : (r.privOnly && !priv) = false := by
    cases only : r.privOnly
    · exact Bool.false_and _
    · rw [hpriv only, Bool.not_true, Bool.and_false]
  rw [rangeXlate_of_firstCovers n k priv first, allowed, granted, if_neg (Nat.not_lt.mpr fits), if_neg (by decide), if_neg (by decide)]

theorem rangeXlate_straddle (beyond : r.limit.toNat < va + n) : rangeXlate rs va n k priv = .trap 0x10 0x03 := by
  rw [rangeXlate_of_firstCovers n k priv first, if_pos beyond]

theorem rangeXlate_permission (fits : va + n ≤ r.limit.toNat) (refused : r.allows k = false) :
    rangeXlate rs va n k priv = .trap 0x10 0x02 := by
  rw [rangeXlate_of_firstCovers n k priv first, refused, if_neg (Nat.not_lt.mpr fits), if_pos (by decide)]

theorem rangeXlate_privilege (fits : va + n ≤ r.limit.toNat) (allowed : r.allows k = true) (only : r.privOnly = true)
    (user : priv = false) : rangeXlate rs va n k priv = .trap 0x06 0 := by
  subst user
  rw [rangeXlate_of_firstCovers n k _ first, allowed, only, if_neg (Nat.not_lt.mpr fits), if_neg (by decide), if_pos (by decide)]

end

/-- Settles O54: the search for the covering register finds the lowest-numbered one, whose answer R103's conditions decide in turn. -/
theorem rangeTranslation : Obligations.RangeTranslation := by
  intro rs va n k priv
  refine ⟨fun i r hi hr lower => ?_, fun uncovered => ?_⟩
  · have first := find?_covers_of_lowest hi hr lower
    exact ⟨rangeXlate_ok first, rangeXlate_straddle first, rangeXlate_permission first, rangeXlate_privilege first⟩
  · exact rangeXlate_of_noneCovers n k priv (List.find?_eq_none.mpr fun r hr => ne_true_of_eq_false (uncovered r hr))

end Sys2Proof.Machine
end

section
/-! PROOFS. Register rows and predicate p0 (09 R250, 14 R393). -/

namespace Sys2Proof.Machine

@[simp] theorem laneOf_zero (l : Nat) : laneOf 0 l = 0 := BitVec.extractLsb'_zero

/-- A row that is not mapped reads as the zero row (R250). -/
theorem vreg_of_unmapped {g : Group} {n : Nat} (unmapped : mget g.vregs n = none) : vreg g n = 0 := by
  rw [vreg, mgetD, unmapped, Option.getD_none]

section
variable (g : Group) (n : Nat) (m : LaneMask) (f : Nat → Word)

/-- A write maps the row it writes, with the mask's lanes blended over what the row read before. -/
theorem mget_vregs_writeLanes_self : mget (writeLanes g n m f).vregs n = some (blendRow m f (vreg g n)) :=
  mget_mset_self g.vregs n _

/-- A write maps, unmaps and changes no other row. -/
theorem mget_vregs_writeLanes_ne {j : Nat} (other : j ≠ n) : mget (writeLanes g n m f).vregs j = mget g.vregs j :=
  mget_mset_ne g.vregs _ other.symm

/-- A lane outside the mask keeps its value in a row that was mapped, and is 0 in a row newly mapped. -/
theorem laneOf_vreg_writeLanes_self {l : Nat} (hl : l < 64) :
    laneOf (vreg (writeLanes g n m f) n) l =
      if inMask m l then f l else if (mget g.vregs n).isSome then laneOf (vreg g n) l else 0 := by
  rw [vreg_writeLanes, if_pos rfl, laneOf_blendRow m f _ l hl]
  cases mapped : mget g.vregs n with
  | some _ => rfl
  | none => rw [vreg_of_unmapped mapped, laneOf_zero, Option.isSome_none, if_neg Bool.false_ne_true]

end

/-- Every lane is in p0 (00 R12). -/
theorem inMask_preg_zero (g : Group) {l : Nat} (hl : l < 64) : inMask (preg g 0) l = true := by
  rw [preg, if_pos rfl, inMask, BitVec.getLsbD_allOnes, decide_eq_true hl]

@[simp] theorem setPreg_zero (g : Group) (x : LaneMask) : setPreg g 0 x = g := if_pos rfl

/-- Settles O55: the map of rows answers what was put under the written key and the rest as before, and an unmapped key the zero row. -/
theorem rowsAndPredicates : Obligations.RowsAndPredicates := by
  refine ⟨fun _ _ _ _ _ _ _ => rfl, fun g n m f => ⟨fun unmapped l _ => ?_, ?_, ?_, ?_, ?_, setPreg_zero g⟩⟩
  · rw [vreg_of_unmapped unmapped, laneOf_zero]
  · rw [mget_vregs_writeLanes_self, Option.isSome_some]
  · exact fun _ => laneOf_vreg_writeLanes_self g n m f
  · exact fun _ => mget_vregs_writeLanes_ne g n m f
  · exact fun _ => inMask_preg_zero g

end Sys2Proof.Machine
end

section
/-! PROOFS. Integer operations as operations on bit vectors (13 R387; 14 R391, R398, R399, R401, R404). -/

namespace Sys2Proof.Machine

/-! ### Two's complement -/

theorem natCast_two_pow (n : Nat) : ((2 ^ n : Nat) : Int) = (2 : Int) ^ n := Int.natCast_pow 2 n

theorem toInt_ofNat_eq_signedOf (w n : Nat) : (BitVec.ofNat w n).toInt = signedOf w n := by
  rw [BitVec.toInt_eq_toNat_cond, BitVec.toNat_ofNat, natCast_two_pow]
  unfold signedOf
  by_cases small : 2 * (n % 2 ^ w) < 2 ^ w
  · rw [if_pos small, if_neg (Nat.not_le.mpr small)]
  · rw [if_neg small, if_pos (Nat.not_lt.mp small)]

theorem unsignedOf_eq_toNat_ofInt (w : Nat) (i : Int) : unsignedOf w i = (BitVec.ofInt w i).toNat := by
  rw [BitVec.toNat_ofInt, unsignedOf, natCast_two_pow]

section
variable (t : IType)

theorem tyWidth_pos : 0 < tyWidth t := by cases t <;> decide

theorem toNat_pat (raw : Nat) : (pat t raw).toNat = raw % 2 ^ tyWidth t := BitVec.toNat_ofNat ..
theorem toInt_pat (raw : Nat) : (pat t raw).toInt = signedOf (tyWidth t) raw := toInt_ofNat_eq_signedOf ..

/-- The integer that an operand stands for is that of its W-bit pattern (R391). -/
theorem readInt_eq_intOf (raw : Nat) : readInt t raw = intOf (pat t raw) := by
  rw [readInt, intOf, toInt_pat, toNat_pat]

/-- A result goes to its destination extended by its type (R391). -/
theorem extInt_toNat (x : BitVec (tyWidth t)) : extInt t x.toNat = extTo x := by
  rw [extInt, extTo, Nat.mod_eq_of_lt x.isLt, unsignedOf_eq_toNat_ofInt, ← toInt_ofNat_eq_signedOf, BitVec.ofNat_toNat,
    BitVec.setWidth_eq, BitVec.signExtend]

theorem extInt_eq_extTo_pat (raw : Nat) : extInt t raw = extTo (pat t raw) := by
  rw [← extInt_toNat, toNat_pat, extInt, extInt, signedOf, signedOf, Nat.mod_mod]

/-- Extension keeps the integer, modulo 2^64. -/
theorem ofInt_intOf (x : BitVec (tyWidth t)) : BitVec.ofInt 64 (intOf x) = BitVec.ofNat 64 (extTo x) := by
  rw [intOf, extTo]
  split
  · rw [BitVec.ofNat_toNat, BitVec.setWidth_eq, BitVec.signExtend]
  · rw [BitVec.ofInt_natCast]

/-! ### Shifts and rotation (R398) -/

theorem opShl_eq (x b : Nat) : opShl t x b = (pat t x <<< (b % 128)).toNat := by
  rw [opShl, shiftCount, BitVec.toNat_shiftLeft, Nat.shiftLeft_eq, toNat_pat]

theorem opShr_eq (x b : Nat) : opShr t x b = (pat t x >>> (b % 128)).toNat := by
  rw [opShr, shiftCount, BitVec.toNat_ushiftRight, Nat.shiftRight_eq_div_pow, toNat_pat]

theorem opSar_eq (x b : Nat) : opSar t x b = ((pat t x).sshiftRight (b % 128)).toNat := by
  rw [opSar, shiftCount, unsignedOf_eq_toNat_ofInt, BitVec.sshiftRight_eq, Int.shiftRight_eq_div_pow, toInt_pat,
    natCast_two_pow]

/-- Bits shifted out to the left return on the right, where the shifted pattern is 0. -/
theorem mul_mod_add_div_eq_or {w n p : Nat} (hn : n ≤ w) (hp : p < 2 ^ w) :
    p * 2 ^ n % 2 ^ w + p / 2 ^ (w - n) = p <<< n % 2 ^ w ||| p >>> (w - n) := by
  have split_w : 2 ^ w = 2 ^ (w - n) * 2 ^ n := by rw [← Nat.pow_add, Nat.sub_add_cancel hn]
  have low : p / 2 ^ (w - n) < 2 ^ n := by
    rw [Nat.div_lt_iff_lt_mul (Nat.two_pow_pos _), Nat.mul_comm, ← split_w]
    exact hp
  have high : p * 2 ^ n % 2 ^ w = (p % 2 ^ (w - n)) <<< n := by rw [split_w, Nat.mul_mod_mul_right, Nat.shiftLeft_eq]
  rw [Nat.shiftLeft_eq p, Nat.shiftRight_eq_div_pow, high, Nat.shiftLeft_add_eq_or_of_lt low]

theorem opRotl_eq (x b : Nat) : opRotl t x b = ((pat t x).rotateLeft (b % 128)).toNat := by
  rw [BitVec.toNat_rotateLeft, toNat_pat, opRotl, shiftCount]
  exact mul_mod_add_div_eq_or (Nat.le_of_lt (Nat.mod_lt _ (tyWidth_pos t))) (Nat.mod_lt _ (Nat.two_pow_pos _))

/-! ### Fields (R399) -/

/-- Shifting left and back keeps the low bits and clears the others. -/
theorem shiftLeft_ushiftRight_eq_setWidth {w len : Nat} (y : BitVec w) (h : len ≤ w) :
    (y <<< (w - len)) >>> (w - len) = (y.setWidth len).setWidth w := by
  ext i hi
  simp only [BitVec.getElem_ushiftRight, BitVec.getLsbD_shiftLeft, BitVec.getElem_setWidth, BitVec.getLsbD_setWidth]
  by_cases hl : i < len
  · have h1 : w - len + i < w := by omega
    have h2 : ¬ w - len + i < w - len := by omega
    simp [h1, h2, hl]
  · have h1 : ¬ w - len + i < w := by omega
    simp [h1, hl]

/-- Shifting left and arithmetically back extends the low bits by their sign. -/
theorem shiftLeft_sshiftRight_eq_signExtend {w len : Nat} (y : BitVec w) (h : len ≤ w) :
    (y <<< (w - len)).sshiftRight (w - len) = (y.setWidth len).signExtend w := by
  have sign : (y <<< (w - len)).msb = (y.setWidth len).msb := by
    rw [BitVec.msb_eq_getLsbD_last, BitVec.msb_setWidth, BitVec.getLsbD_shiftLeft]
    by_cases hz : 0 < len
    · have h1 : w - 1 < w := by omega
      have h2 : ¬ w - 1 < w - len := by omega
      have h3 : w - 1 - (w - len) = len - 1 := by omega
      simp [h1, h2, h3, hz]
    · have : len = 0 := by omega
      subst this
      simp
  ext i hi
  rw [BitVec.getElem_sshiftRight, BitVec.getElem_signExtend, sign]
  by_cases hl : i < len
  · have h1 : w - len + i < w := by omega
    simp [h1, hl, BitVec.getLsbD_eq_getElem hi]
  · have h1 : ¬ w - len + i < w := by omega
    simp [h1, hl]

/-- A pattern shifted right by its type: with copies of its sign for an s type, with 0 bits for a z type. -/
def typedShiftRight (x : BitVec (tyWidth t)) (n : Nat) : BitVec (tyWidth t) := if t.isSigned then x.sshiftRight n else x >>> n

theorem intOf_typedShiftRight (x : BitVec (tyWidth t)) (n : Nat) : intOf (typedShiftRight t x n) = intOf x / (2 : Int) ^ n := by
  unfold intOf typedShiftRight
  split
  · rw [BitVec.toInt_sshiftRight, Int.shiftRight_eq_div_pow, natCast_two_pow]
  · rw [BitVec.toNat_ushiftRight, Nat.shiftRight_eq_div_pow, Int.natCast_ediv, natCast_two_pow]

/-- The low bits of the integer that a pattern stands for are the pattern's low bits. -/
theorem intOf_emod_two_pow (y : BitVec (tyWidth t)) {len : Nat} (h : len ≤ tyWidth t) :
    intOf y % (2 : Int) ^ len = ((y.setWidth len).toNat : Int) := by
  have widths : (2 : Int) ^ tyWidth t = (2 : Int) ^ len * (2 : Int) ^ (tyWidth t - len) := by
    rw [← Int.pow_add, Nat.add_sub_cancel' h]
  have wrapped : y.toInt % (2 : Int) ^ len = (y.toNat : Int) % (2 : Int) ^ len := by
    rw [BitVec.toInt_eq_toNat_cond]
    split
    · rfl
    · rw [natCast_two_pow, widths, Int.sub_mul_emod_self_left]
  rw [BitVec.toNat_setWidth, Int.natCast_emod, natCast_two_pow]
  unfold intOf
  split
  · exact wrapped
  · rfl

/-- A field read by its type, a field of no bits being 0. -/
def fieldInt {len : Nat} (y : BitVec len) : Int := if t.isSigned then y.toInt else y.toNat

theorem fieldInt_eq {len : Nat} (y : BitVec len) :
    (if len = 0 then 0 else if t.isSigned && decide (2 * (y.toNat : Int) ≥ (2 : Int) ^ len) then (y.toNat : Int) - (2 : Int) ^ len
      else y.toNat) = fieldInt t y := by
  unfold fieldInt
  by_cases hz : len = 0
  · subst hz
    simp [BitVec.of_length_zero]
  · have fits : (2 * (y.toNat : Int) ≥ (2 : Int) ^ len) ↔ ¬ 2 * y.toNat < 2 ^ len := by
      rw [Nat.not_lt, ← Int.ofNat_le, natCast_two_pow, Int.natCast_mul]
      exact Iff.rfl
    rw [BitVec.toInt_eq_toNat_cond, natCast_two_pow]
    by_cases small : 2 * y.toNat < 2 ^ len <;> simp [hz, fits, small]

theorem opBfx_eq (x b : Nat) : opBfx t x b =
    (let rest := tyWidth t - min (b / 256 % 128) (tyWidth t)
     if t.isSigned then ((pat t x).sshiftRight (b % 128) <<< rest).sshiftRight rest
     else (pat t x >>> (b % 128) <<< rest) >>> rest).toNat := by
  have hlen : min (b / 256 % 128) (tyWidth t) ≤ tyWidth t := Nat.min_le_right ..
  have value : opBfx t x b = wrapInt t (fieldInt t ((typedShiftRight t (pat t x) (b % 128)).setWidth (min (b / 256 % 128) (tyWidth t)))) := by
    rw [← fieldInt_eq, ← intOf_emod_two_pow t _ hlen, intOf_typedShiftRight, ← readInt_eq_intOf]
    rfl
  rw [value, wrapInt, unsignedOf_eq_toNat_ofInt, fieldInt, typedShiftRight]
  split
  · rw [shiftLeft_sshiftRight_eq_signExtend _ hlen, BitVec.signExtend]
  · rw [shiftLeft_ushiftRight_eq_setWidth _ hlen, BitVec.ofInt_natCast, BitVec.ofNat_toNat]

/-- The bits that a field of `len` bits at position `pos` has in a pattern of `w` bits. -/
theorem toNat_fieldMask {w len : Nat} (h : len ≤ w) (pos : Nat) :
    ((BitVec.allOnes w >>> (w - len)) <<< pos).toNat = (2 ^ len - 1) * 2 ^ pos % 2 ^ w := by
  have ones : (2 ^ w - 1) / 2 ^ (w - len) = 2 ^ len - 1 := by
    rw [← Nat.shiftRight_eq_div_pow]
    apply Nat.eq_of_testBit_eq
    intro i
    rw [Nat.testBit_shiftRight, Nat.testBit_two_pow_sub_one, Nat.testBit_two_pow_sub_one]
    exact decide_eq_decide.mpr (by omega)
  rw [BitVec.toNat_shiftLeft, BitVec.toNat_ushiftRight, BitVec.toNat_allOnes, Nat.shiftLeft_eq, Nat.shiftRight_eq_div_pow, ones]

theorem opBfi_eq (x b c : Nat) : opBfi t x b c =
    (let m : BitVec (tyWidth t) := (BitVec.allOnes _ >>> (tyWidth t - min (b / 256 % 128) (tyWidth t))) <<< (b % 128)
     (pat t c &&& ~~~m) ||| ((pat t x <<< (b % 128)) &&& m)).toNat := by
  have moved : x * 2 ^ (b % 128) % 2 ^ tyWidth t = (pat t x <<< (b % 128)).toNat := by
    rw [← opShl_eq, opShl, shiftCount, Nat.mod_mul_mod]
  rw [BitVec.toNat_or, BitVec.toNat_and, BitVec.toNat_and, BitVec.toNat_not, toNat_fieldMask (Nat.min_le_right ..), toNat_pat, ← moved]
  rfl

/-! ### Comparison and addresses (R401, R404) -/

theorem opCmp_eq (cond : ICond) (x y : Nat) : opCmp cond t x y = (match cond with
    | .eq => intOf (pat t x) == intOf (pat t y)
    | .ne => intOf (pat t x) != intOf (pat t y)
    | .lt => decide (intOf (pat t x) < intOf (pat t y))
    | .le => decide (intOf (pat t x) ≤ intOf (pat t y))
    | .gt => decide (intOf (pat t x) > intOf (pat t y))
    | .ge => decide (intOf (pat t x) ≥ intOf (pat t y))) := by
  unfold opCmp
  rw [readInt_eq_intOf, readInt_eq_intOf]
  cases cond with
  | ne => exact decide_not
  | _ => rfl

theorem opLea_eq (k a y : Nat) :
    opLea t k a y = (BitVec.ofNat 64 a + BitVec.ofNat 64 (extTo (pat t y)) <<< k).toNat := by
  have power : BitVec.ofInt 64 ((2 : Int) ^ k) = BitVec.twoPow 64 k := by
    apply BitVec.eq_of_toNat_eq
    rw [BitVec.toNat_twoPow, ← BitVec.toNat_ofNat, ← BitVec.ofInt_natCast, natCast_two_pow]
  rw [opLea, readInt_eq_intOf, unsignedOf_eq_toNat_ofInt, BitVec.ofInt_add, BitVec.ofInt_natCast, BitVec.ofInt_mul, ofInt_intOf,
    power, ← BitVec.shiftLeft_eq_mul_twoPow]

end
end Sys2Proof.Machine
end

section
/-! PROOFS. Lane operations that raise no exception, and the integer instructions' long and short forms (14 R391, R392). -/

namespace Sys2Proof.Machine

theorem flagsUpTo_eq_zero {res : List (Nat × (Nat × Nat))} (n : Nat) (h : ∀ e ∈ res, e.2.2 = 0) : flagsUpTo res n = 0 := by
  induction res with
  | nil => rfl
  | cons e es ih =>
    have step : flagsUpTo (e :: es) n = flagsUpTo es n := by
      rw [flagsUpTo, List.foldl_cons, h e List.mem_cons_self, Nat.or_zero, ite_self, flagsUpTo]
    rw [step, ih fun x hx => h x (List.mem_cons_of_mem e hx)]

/-- Pairs all of which are at even registers raise no trap (R392). -/
theorem oddOwn_eq_none {ds : List Bool} (h : ∀ d ∈ ds, d = false) : oddOwn ds = none := by
  have none_odd : ds.any id = false := List.any_eq_false.mpr fun d hd => by rw [h d hd]; decide
  rw [oddOwn, none_odd, if_neg Bool.false_ne_true]

theorem oddOwn_of_even {d : Bool} {os : List Opnd} (hd : d = false) (hos : ∀ o ∈ os, o.odd = false) :
    oddOwn (d :: os.map Opnd.odd) = none :=
  oddOwn_eq_none (List.forall_mem_cons.mpr ⟨hd, List.forall_mem_map.mpr hos⟩)

section
variable {s : State} {i : Instr} {c : Ctx} {e : Bool} {pred : Nat} {neg queueDst : Bool} {own : Option (Nat × Nat)} {srcs : List Opnd}
  {dst : DestReg} {charge : Core → Nat → Nat} {cycles : Nat → Nat} {result : Group → Nat → List Nat → Nat × Nat} {val : Nat → List Nat → Nat}

/-- A lane operation with no trap of its own at even pairs, whose results raise no exception and depend on its operands and the group's
registers alone, writes them to its destination. -/
theorem laneForm_of_issueLane {f : Group → Option Pfx → LaneOp} (hx : exec i s = issueLane s f)
    (hf : f c.g c.pre = { spec := { e, pred, neg, queueDst, own, srcs, dst, charge, cycles }, result })
    (hc : issueCtx s pred neg = some c) (register : queueDst = false)
    (aligned : dst.odd = false → (∀ x ∈ srcs, x.odd = false) → own = none)
    (fromRegs : ∀ qu la x m, result { c.g with queues := qu, latch := la, exempt := x, mctx := m } = result c.g)
    (hval : ∀ l, result c.g l (c.vals srcs l) = (val l (c.vals srcs l), 0)) :
    LaneForm i s c e true srcs [] dst val := by
  intro even ready
  have issued := hx.trans (issueLane_eq hc f)
  rw [hf] at issued
  have completes := lane_done { spec := { e, pred, neg, queueDst, own, srcs, dst, charge, cycles }, result } (charged := true)
    (fun _ s => s) (fun _ s => .refl s) issued hc ⟨rfl, rfl, register, aligned even ready.even, rfl, rfl⟩ ready (.inl rfl) fromRegs
    (fun l _ => by simp only [hval, Nat.zero_and])
  have no_flags : ∀ ls : List Nat, flagsUpTo (ls.map fun l => (l, val l (c.vals srcs l), 0)) 64 = 0 :=
    fun _ => flagsUpTo_eq_zero 64 (List.forall_mem_map.mpr fun _ _ => rfl)
  simp only [hval, no_flags] at completes
  obtain ⟨t, next, g', hg', only, kept, goesOn, holds, freed, popped, frnd⟩ := completes
  exact ⟨t, next, g', hg', only, kept, goesOn, holds, freed, popped, by simp [frnd]⟩

theorem laneForm_of_runInt (hx : exec i s = runInt s { spec := { e, pred, neg, own, srcs, dst, charge, cycles }, result })
    (hc : issueCtx s pred neg = some c) (aligned : dst.odd = false → (∀ x ∈ srcs, x.odd = false) → own = none)
    (fromRegs : ∀ qu la x m, result { c.g with queues := qu, latch := la, exempt := x, mctx := m } = result c.g)
    (hval : ∀ l, result c.g l (c.vals srcs l) = (val l (c.vals srcs l), 0)) : LaneForm i s c e true srcs [] dst val :=
  laneForm_of_issueLane hx rfl hc rfl aligned fromRegs hval

end

section
variable {s : State} {i : Instr} {ct : Ctl}

theorem intForm_of_runInt {c : Ctx} {t : IType} {d : Reg} {srcs : List Src} {product : Bool} {f : List Nat → Nat}
    {val : List Nat → BitVec (tyWidth t)} (hx : exec i s = runInt s (intOp ct t d srcs product f))
    (hc : issueCtx s ct.pred.toNat ct.neg = some c) (hf : ∀ vs, f vs = (val vs).toNat) :
    IntForm i s c ct.e t (.ofReg d (tyWide t)) srcs val :=
  laneForm_of_runInt hx hc oddOwn_of_even (fun _ _ _ _ => rfl) fun _ => by rw [hf, extInt_toNat]

theorem int1_of_runInt {o : IOp1} {f : IType → Nat → Nat} {val : BitVec (tyWidth o.ty) → BitVec (tyWidth o.ty)}
    (hx : exec i s = runInt s (int1 ct o f)) (hf : ∀ x, f o.ty x = (val (pat o.ty x)).toNat) : Int1 i s ct o val :=
  fun _ _ hc => intForm_of_runInt hx hc fun _ => hf _

theorem int2_of_runInt {o : IOp2} {product : Bool} {f : IType → Nat → Nat → Nat} {val : BitVec (tyWidth o.ty) → Nat → BitVec (tyWidth o.ty)}
    (hx : exec i s = runInt s (int2 ct o product f)) (hf : ∀ x b, f o.ty x b = (val (pat o.ty x) b).toNat) : Int2 i s ct o val :=
  fun _ _ hc => intForm_of_runInt hx hc fun _ => hf _ _

theorem int3_of_runInt {o : IOp3} {product : Bool} {f : IType → Nat → Nat → Nat → Nat}
    {val : BitVec (tyWidth o.ty) → Nat → BitVec (tyWidth o.ty) → BitVec (tyWidth o.ty)}
    (hx : exec i s = runInt s (int3 ct o product f)) (hf : ∀ x b y, f o.ty x b y = (val (pat o.ty x) b (pat o.ty y)).toNat) :
    Int3 i s ct o val :=
  fun _ _ hc => intForm_of_runInt hx hc fun _ => hf _ _ _

/-- A short destination below 384 is a vector register (12 R341). -/
theorem shortQueueDst_eq_false {n : Nat} (h : n < 384) : shortQueueDst n = false := decide_eq_false (Nat.not_le.mpr h)

theorem shortShift_of_runShort {o : SShift} {f : IType → Nat → Nat → Nat} {val : BitVec (tyWidth o.ty) → Nat → BitVec (tyWidth o.ty)}
    (hx : exec i s = runShort s (fun pre => shortShift pre o f)) (hf : ∀ x, f o.ty x o.cnt.toNat = (val (pat o.ty x) o.cnt.toNat).toNat) :
    ShortShift i s o val :=
  fun _ hc hd => laneForm_of_issueLane hx rfl hc (shortQueueDst_eq_false hd)
    (fun even _ => oddOwn_eq_none (List.forall_mem_singleton.mpr even)) (fun _ _ _ _ => rfl) fun _ => by rw [hf, extInt_toNat]

theorem shortInt1_of_runShort {o : SI} {product : Bool} {f : IType → Nat → Nat → Nat}
    {val : BitVec (tyWidth o.ty) → BitVec (tyWidth o.ty)} (hx : exec i s = runShort s (fun pre => shortInt pre o false product f))
    (hf : ∀ x, f o.ty x 0 = (val (pat o.ty x)).toNat) : ShortInt1 i s o val :=
  fun _ _ hc hd => laneForm_of_issueLane hx rfl hc (shortQueueDst_eq_false hd) oddOwn_of_even (fun _ _ _ _ => rfl) fun _ => by
    rw [if_neg Bool.false_ne_true, hf, extInt_toNat]

end

end Sys2Proof.Machine
end

section
/-! PROOFS. Shifts, rotation and fields (14 R398, R399). -/

namespace Sys2Proof.Machine

/-- A short shift's count field has 7 bits. -/
theorem cnt_mod (o : SShift) : o.cnt.toNat % 128 = o.cnt.toNat := Nat.mod_eq_of_lt o.cnt.isLt

/-- Settles O19: each operation's result is a bit-vector operation on its operands' W-bit patterns. -/
theorem shiftsAndFields : Obligations.ShiftsAndFields := by
  intro s ct o o3 h
  refine ⟨int2_of_runInt rfl (opShl_eq o.ty), ?shl, int2_of_runInt rfl (opShr_eq o.ty), ?shr, int2_of_runInt rfl (opSar_eq o.ty), ?sar,
    int2_of_runInt rfl (opRotl_eq o.ty), ?rotl, int2_of_runInt rfl (opBfx_eq o.ty), int3_of_runInt rfl (opBfi_eq o3.ty)⟩
  case shl => exact shortShift_of_runShort rfl fun x => by rw [opShl_eq, cnt_mod]
  case shr => exact shortShift_of_runShort rfl fun x => by rw [opShr_eq, cnt_mod]
  case sar => exact shortShift_of_runShort rfl fun x => by rw [opSar_eq, cnt_mod]
  case rotl => exact shortShift_of_runShort rfl fun x => by rw [opRotl_eq, cnt_mod]

end Sys2Proof.Machine
end

section
/-! PROOFS. Comparison, selection, moves and addresses (14 R400-R404). -/

namespace Sys2Proof.Machine

/-- A replaced field leaves the bits below it and above it. -/
theorem setField_eq (x v : Nat) {hi lo : Nat} (h : lo ≤ hi) :
    setField x hi lo v = x % 2 ^ lo + v % 2 ^ (hi + 1 - lo) * 2 ^ lo + x / 2 ^ (hi + 1) * 2 ^ (hi + 1) := by
  have width : 2 ^ (hi + 1) = 2 ^ lo * 2 ^ (hi + 1 - lo) := by rw [← Nat.pow_add, Nat.add_sub_cancel' (by omega)]
  have above : x / 2 ^ lo / 2 ^ (hi + 1 - lo) = x / 2 ^ (hi + 1) := by rw [Nat.div_div_eq_div_mul, width]
  have parts : x = x % 2 ^ lo + field x hi lo * 2 ^ lo + x / 2 ^ (hi + 1) * 2 ^ (hi + 1) := by
    calc x = x % 2 ^ lo + 2 ^ lo * (x / 2 ^ lo % 2 ^ (hi + 1 - lo) + 2 ^ (hi + 1 - lo) * (x / 2 ^ lo / 2 ^ (hi + 1 - lo))) := by
          rw [Nat.mod_add_div, Nat.mod_add_div]
      _ = x % 2 ^ lo + field x hi lo * 2 ^ lo + x / 2 ^ (hi + 1) * 2 ^ (hi + 1) := by
          rw [above, field, width, Nat.mul_add, ← Nat.mul_assoc, Nat.add_assoc, Nat.mul_comm (2 ^ lo), Nat.mul_comm (x / _)]
  rw [setField]
  omega

/-- A replaced field at the top of a number has nothing above it. -/
theorem setField_of_lt {x v hi lo : Nat} (h : lo ≤ hi) (hx : x < 2 ^ (hi + 1)) (hv : v < 2 ^ (hi + 1 - lo)) :
    setField x hi lo v = x % 2 ^ lo + v * 2 ^ lo := by
  rw [setField_eq x v h, Nat.mod_eq_of_lt hv, Nat.div_eq_of_lt hx, Nat.zero_mul, Nat.add_zero]

/-- A scalar operand has 64 bits, and a lane of a vector operand that is no pair 32. -/
theorem v1_vals_scalar_lt (c : Ctx) (n : Fin 128) (l : Nat) : v1 (c.vals [⟨.s n, false⟩] l) < 2 ^ 64 :=
  Nat.mod_lt _ (Nat.two_pow_pos 64)

theorem v1_vals_vector_lt (c : Ctx) (n : Fin 384) (last : Bool) (l : Nat) : v1 (c.vals [⟨.v n last, false⟩] l) < 2 ^ 32 :=
  (laneOf (vreg c.g n.val) l).isLt

section
variable {s : State} {ct : Ctl} {c : Ctx} (hc : issueCtx s ct.pred.toNat ct.neg = some c)
include hc

theorem icmp_laneForm (cond : ICond) (t : IType) {pd : Fin 384} (a b : Src) (hd : pd.val < 16) :
    LaneForm (.icmp ct cond t pd a b) s c ct.e true [⟨a, tyWide t⟩, ⟨b, tyWide t⟩] [] (.p pd.val)
      (fun _ vs => bit (opCmp cond t (v1 vs) (v2 vs))) :=
  laneForm_of_runInt rfl hc
    (fun _ hos => (if_neg (Nat.not_le.mpr hd)).trans (oddOwn_eq_none (List.forall_mem_map.mpr hos)))
    (fun _ _ _ _ => rfl) fun _ => rfl

theorem sel_laneForm (t : IType) (d : Fin 384) (a b : Src) {pc : BitVec 9} (hpc : pc.toNat < 16) :
    LaneForm (.sel ct t d a b pc) s c ct.e true [⟨a, tyWide t⟩, ⟨b, tyWide t⟩] [] (.v d.val (tyWide t))
      (fun l vs => extTo (pat t (if inMask (preg c.g pc.toNat) l then v1 vs else v2 vs))) :=
  laneForm_of_runInt rfl hc (fun hd hos => (if_neg (Nat.not_le.mpr hpc)).trans (oddOwn_of_even hd hos))
    (fun _ _ _ _ => rfl) fun _ => by rw [extInt_eq_extTo_pat]

theorem movi_k30_laneForm (r : Reg) (k : BitVec 30) :
    LaneForm (.movi ct .k30 r k) s c ct.e true [] [] (.ofReg r false) (fun _ _ => (k.signExtend 64).toNat) :=
  laneForm_of_runInt rfl hc (fun _ _ => rfl) (fun _ _ _ _ => rfl) fun _ => rfl

theorem movi_b30_scalar_laneForm (n : Fin 128) (k : BitVec 30) :
    LaneForm (.movi ct .b30 (.s n) k) s c ct.e true [⟨.s n, false⟩] [] (.s n.val)
      (fun _ vs => v1 vs % 2 ^ 30 + k.toNat * 2 ^ 30 + v1 vs / 2 ^ 60 * 2 ^ 60) :=
  laneForm_of_runInt rfl hc (fun _ _ => rfl) (fun _ _ _ _ => rfl) fun _ => by
    simp only [setField_eq _ _ (show 30 ≤ 59 by decide), Nat.reduceAdd, Nat.reduceSub, Nat.mod_eq_of_lt k.isLt]

theorem movi_b60_scalar_laneForm (n : Fin 128) {k : BitVec 30} (hk : k.toNat < 2 ^ 4) :
    LaneForm (.movi ct .b60 (.s n) k) s c ct.e true [⟨.s n, false⟩] [] (.s n.val)
      (fun _ vs => v1 vs % 2 ^ 60 + k.toNat * 2 ^ 60) :=
  laneForm_of_runInt rfl hc (fun _ _ => if_neg fun bad => Nat.not_le.mpr hk (of_decide_eq_true bad)) (fun _ _ _ _ => rfl)
    fun l => Prod.ext (setField_of_lt (by decide) (v1_vals_scalar_lt c n l) hk) rfl

theorem movi_b30_vector_laneForm (d : Fin 384) {k : BitVec 30} (hk : k.toNat < 2 ^ 2) :
    LaneForm (.movi ct .b30 (.v d) k) s c ct.e true [⟨.v d false, false⟩] [] (.v d.val false)
      (fun _ vs => v1 vs % 2 ^ 30 + k.toNat * 2 ^ 30) :=
  laneForm_of_runInt rfl hc (fun _ _ => if_neg fun bad => Nat.not_le.mpr hk (of_decide_eq_true bad)) (fun _ _ _ _ => rfl)
    fun l => Prod.ext (setField_of_lt (by decide) (v1_vals_vector_lt c d false l) hk) rfl

theorem moviShort_laneForm (k : BitVec 7) {n : BitVec 7} (e : Bool) (plain : ct.neg = false) (hd : reachD c.pre n < 384) :
    LaneForm (.moviShort ct.pred k n e) s c e true [] [] (.v (reachD c.pre n) false) (fun _ _ => (k.signExtend 32).toNat) :=
  laneForm_of_issueLane (show _ = runShort s (sMovi ct.pred k n e) from rfl) rfl (plain ▸ hc) (shortQueueDst_eq_false hd) (fun _ _ => rfl) (fun _ _ _ _ => rfl) fun _ => rfl

theorem lea_laneForm (scale : BitVec 3) (o : IOp2) :
    LaneForm (.lea ct scale o) s c ct.e true [⟨o.a, true⟩, ⟨o.b, tyWide o.ty⟩] [] (.ofReg o.d true) (fun _ vs =>
      (BitVec.ofNat 64 (v1 vs) + BitVec.ofNat 64 (extTo (pat o.ty (v2 vs))) <<< scale.toNat).toNat) :=
  laneForm_of_runInt rfl hc oddOwn_of_even (fun _ _ _ _ => rfl) fun _ => by rw [opLea_eq]

end

theorem mov_int1 (s : State) (ct : Ctl) (o : IOp1) : Int1 (.mov ct o) s ct o id :=
  int1_of_runInt rfl fun x => (toNat_pat o.ty x).symm

theorem movShort_shortInt1 (s : State) (h : SI) : ShortInt1 (.movShort h) s h id :=
  shortInt1_of_runShort rfl fun x => (toNat_pat h.ty x).symm

/-- Settles O20: every form is a quiet lane operation with no trap of its own, and its result is the stated one. -/
theorem compareSelectMove : Obligations.CompareSelectMove := by
  intro s ct t d a b c hc
  refine ⟨fun cond _ hd => ?icmp, fun pc _ hpc => sel_laneForm hc t d a b hpc, mov_int1 s ct, movShort_shortInt1 s,
    fun r k _ => movi_k30_laneForm hc r k,
    fun n k _ => ⟨movi_b30_scalar_laneForm hc n k, movi_b60_scalar_laneForm hc n⟩,
    fun _ => movi_b30_vector_laneForm hc d, fun k _ e plain => moviShort_laneForm hc k e plain, fun scale o _ => lea_laneForm hc scale o⟩
  case icmp =>
    have form := icmp_laneForm hc cond t a b hd
    simp only [opCmp_eq] at form
    exact form

end Sys2Proof.Machine
end

section
/-! PROOFS. What a lane operation writes and how it completes (15 R433). -/

namespace Sys2Proof.Machine

theorem Completes.mono {i : Instr} {s : State} {P Q : State → Prop} (h : Completes i s P) (hPQ : ∀ t, P t → Q t) :
    Completes i s Q := by
  obtain ⟨t, next, post⟩ := h
  exact ⟨t, next, hPQ t post⟩

theorem Done.mono {s t : State} {c : Ctx} {e : Bool} {rows scalars preds : List Nat} {P Q : Group → Prop}
    (h : Done s t c e rows scalars preds P) (hPQ : ∀ g, P g → Q g) : Done s t c e rows scalars preds Q := by
  obtain ⟨g', hg', only, kept, goesOn, post⟩ := h
  exact ⟨g', hg', only, kept, goesOn, hPQ g' post⟩

/-! ### Operands and lanes as the effect reads them -/

/-- An operand reads no more of the latch than the entries it pops. -/
theorem Opnd.val_take (o : Opnd) (g : Group) (latch : List Row) (l : Nat) :
    o.val g (latch.take o.pops.length) l = o.val g latch l := by
  obtain ⟨src, wide⟩ := o
  cases src with
  | q n => cases wide <;> simp [Opnd.val, Opnd.pops]
  | _ => rfl

/-- An operand that pops nothing does not read the latch. -/
theorem Opnd.val_of_pops_nil {o : Opnd} (h : o.pops = []) (g : Group) (latch latch' : List Row) (l : Nat) :
    o.val g latch l = o.val g latch' l := by
  rw [← o.val_take g latch, ← o.val_take g latch', h, List.length_nil, List.take_zero, List.take_zero]

/-- The context of an instruction's effect: the group as its issue left it, with the entries it popped in the latch. -/
abbrev Ctx.withGroup (c : Ctx) (g : Group) : Ctx := { c with g := g, latch := g.latch }

section
variable {s s1 : State} {c : Ctx} {g1 : Group} {o o' : Opnd} {os : List Opnd}

theorem Begun.v1_vals (b : Begun s c (o :: os) s1 g1) (l : Nat) : v1 (c.vals (o :: os) l) = o.val g1 g1.latch l := by
  rw [← b.vals _ l rfl]
  exact o.val_take g1 g1.latch l

theorem Begun.v2_vals (b : Begun s c [o, o'] s1 g1) (l : Nat) :
    v2 (c.vals [o, o'] l) = o'.val g1 (g1.latch.drop o.pops.length) l := by
  rw [← b.vals _ l rfl]
  exact o'.val_take g1 _ l

/-- What lane j gives a lane that reads it is as before the issue, but for the entries popped (R433). -/
theorem Begun.peerLane_eq (b : Begun s c (o :: os) s1 g1) (j : Int) : peerLane g1 g1.latch o j = c.peer (o :: os) j := by
  rw [Ctx.peer, b.v1_vals]
  obtain ⟨qu, la, x, m, rfl⟩ := b.shape
  unfold peerLane
  by_cases inside : 0 ≤ j ∧ j < c.g.width
  · have h : ¬ (decide (j < 0) || decide ((c.g.width : Int) ≤ j)) = true := by simp [inside]
    simp only [h, inside, true_and]
    rfl
  · have h : (decide (j < 0) || decide ((c.g.width : Int) ≤ j)) = true := by
      rw [Bool.or_eq_true, decide_eq_true_iff, decide_eq_true_iff]
      omega
    rw [if_pos h, if_neg fun all => inside ⟨all.1, all.2.1⟩]

end

theorem inMask_of_fromLane {m : LaneMask} {k l : Nat} (h : inMask (fromLane m k) l = true) : inMask m l = true := by
  by_cases hl : l < 64
  · rw [fromLane, inMask_maskOf _ _ hl, Bool.and_eq_true] at h
    exact h.1
  · rw [inMask_ge _ _ (Nat.not_lt.mp hl)] at h
    cases h

/-- The lanes that an instruction still has to do are lanes of its stream mask. -/
theorem inMask_full_of_mask {s : State} {p : Nat} {n : Bool} {c : Ctx} (hc : issueCtx s p n = some c) {l : Nat}
    (h : inMask c.mask l = true) : inMask c.full l = true := by
  obtain ⟨-, -, -, -, hmask⟩ := issueCtx_group hc
  rw [hmask] at h
  exact inMask_of_fromLane h

/-! ### What the effect writes -/

/-- A group holds a value in its destination for every reader that finds the same registers there. -/
theorem Holds.congr {k : Ctx} {g g' : Group} {d : DestReg} {val : Nat → Nat} (h : Holds k g d val)
    (rows : ∀ n ∈ d.rows, vreg g' n = vreg g n) (scalars : ∀ n ∈ d.scalars, sreg g' n = sreg g n)
    (preds : ∀ n ∈ d.preds, preg g' n = preg g n) : Holds k g' d val := by
  cases d with
  | none => trivial
  | s n => exact (scalars n List.mem_cons_self).trans h
  | p n =>
    intro hn l hl
    rw [preds n List.mem_cons_self]
    exact h hn l hl
  | v n wide =>
    cases wide with
    | false =>
      intro l hl
      rw [rows n List.mem_cons_self]
      exact h l hl
    | true =>
      intro l hl
      rw [rows n List.mem_cons_self, rows (n + 1) (List.mem_cons_of_mem _ List.mem_cons_self)]
      exact h l hl

/-- The predicate registers that a lane operation's valid predicate names. -/
abbrev validRegs (valid : Option (BitVec 9)) : List Nat := valid.elim [] (fun p => [p.toNat])

/-- From the group of context k an effect makes g': the destination and the valid predicate hold `val`, FRND is `frnd`, and nothing
else changed. -/
structure LaneWrite (k : Ctx) (g' : Group) (d : DestReg) (valid : Option (BitVec 9)) (val : Nat → Nat × Bool) (frnd : Frnd) : Prop where
  shape : ∃ v sr pr, g' = { k.g with vregs := v, sregs := sr, preds := pr, frnd := frnd }
  vregs : ∀ n, n ∉ d.rows → vreg g' n = vreg k.g n
  sregs : ∀ n, n ∉ d.scalars → sreg g' n = sreg k.g n
  preds : ∀ n, n ∉ validRegs valid → preg g' n = preg k.g n
  holds : Holds k g' d (fun l => (val l).1)
  valid : ∀ p, valid = some p → Holds k g' (.p p.toNat) (fun l => bit (val l).2)

section
variable {k : Ctx} {g' : Group} {d : DestReg} {val : Nat → Nat × Bool} {frnd : Frnd}

theorem bit_mod_two_beq_one (b : Bool) : (bit b % 2 == 1) = b := by cases b <;> rfl

/-- With no lane to write nothing changes. -/
theorem laneWrite_of_noLanes (h : k.mask = 0) (n : Nat) (valid : Option (BitVec 9)) : LaneWrite k k.g (.v n false) valid val k.g.frnd := by
  have outside : ∀ l, inMask k.mask l ≠ true := fun l => by rw [h]; exact ne_true_of_eq_false (inMask_zero l)
  exact ⟨⟨_, _, _, rfl⟩, fun _ _ => rfl, fun _ _ => rfl, fun _ _ => rfl, fun l _ => (if_neg (outside l)).symm,
    fun p _ _ l _ => (if_neg (outside l)).symm⟩

theorem laneWrite_writeLanes (n : Nat) : LaneWrite k (writeLanes k.g n k.mask (fun l => w32 (val l).1)) (.v n false) none val k.g.frnd := by
  refine ⟨⟨_, _, _, rfl⟩, fun j hj => ?_, fun _ _ => rfl, fun _ _ => rfl, fun l hl => ?_, fun _ h => nomatch h⟩
  · rw [vreg_writeLanes, if_neg fun h => hj (List.mem_singleton.mpr h.symm)]
  · rw [vreg_writeLanes, if_pos rfl, laneOf_blendRow _ _ _ _ hl]

theorem laneWrite_setSreg (val : Nat → Nat × Bool) (n : Nat) : LaneWrite k (setSreg k.g n (val 0).1) (.s n) none val k.g.frnd := by
  refine ⟨⟨_, _, _, rfl⟩, fun _ _ => rfl, fun j hj => ?_, fun _ _ => rfl, ?_, fun _ h => nomatch h⟩
  · rw [sreg_setSreg, if_neg fun h => hj (List.mem_singleton.mpr h.symm)]
  · exact (sreg_setSreg ..).trans (if_pos rfl)

theorem laneWrite_none : LaneWrite k k.g .none none val k.g.frnd :=
  ⟨⟨_, _, _, rfl⟩, fun _ _ => rfl, fun _ _ => rfl, fun _ _ => rfl, trivial, fun _ h => nomatch h⟩

/-- A write that also puts each lane's valid bit into a predicate. -/
theorem LaneWrite.setValid (h : LaneWrite k g' d none val frnd) (noPred : d.preds = []) (p : BitVec 9) :
    LaneWrite k (setPreg g' p.toNat (maskOf (fun l => if inMask k.mask l then (val l).2 else inMask (preg k.g p.toNat) l)))
      d (some p) val frnd := by
  obtain ⟨⟨v, sr, pr, hg'⟩, vregs, sregs, preds, holds, -⟩ := h
  obtain ⟨pr', hset⟩ := setPreg_shape g' p.toNat (maskOf (fun l => if inMask k.mask l then (val l).2 else inMask (preg k.g p.toNat) l))
  refine ⟨⟨v, sr, pr', by rw [hset, hg']⟩, fun n hn => ?_, fun n hn => ?_, fun n hn => ?_, ?_, ?_⟩
  · rw [vreg_setPreg, vregs n hn]
  · rw [sreg_setPreg, sregs n hn]
  · rw [preg_setPreg, if_neg fun h => hn (List.mem_singleton.mpr h.1.symm), preds n List.not_mem_nil]
  · refine holds.congr (fun _ _ => vreg_setPreg ..) (fun _ _ => sreg_setPreg ..) fun n hn => ?_
    rw [noPred] at hn
    exact absurd hn List.not_mem_nil
  · intro q hq nonzero l hl
    obtain rfl := Option.some.inj hq
    rw [preg_setPreg, if_pos ⟨rfl, nonzero⟩, inMask_maskOf _ _ hl, bit_mod_two_beq_one]

theorem laneWrite_writePeers (n : Nat) (valid : Option (BitVec 9)) :
    LaneWrite k (writePeers k.g k.mask n (valid.map (·.toNat)) val) (.v n false) valid val k.g.frnd := by
  unfold writePeers
  by_cases h : k.mask = 0
  · rw [if_pos h]
    exact laneWrite_of_noLanes h n valid
  · rw [if_neg h]
    cases valid with
    | none => exact laneWrite_writeLanes n
    | some p => exact (laneWrite_writeLanes n).setValid rfl p

/-- Only the values of the lanes written matter. -/
theorem writePeers_congr {f : Nat → Nat × Bool} (g : Group) {m : LaneMask} (n : Nat) (vp : Option Nat)
    (h : ∀ l, inMask m l = true → f l = val l) : writePeers g m n vp f = writePeers g m n vp val := by
  have row : ∀ old, blendRow m (fun l => w32 (f l).1) old = blendRow m (fun l => w32 (val l).1) old := fun old =>
    congrArg rowOf (funext fun l => ite_congr rfl (fun hl => congrArg (fun x => w32 x.1) (h l hl)) fun _ => rfl)
  have bits : ∀ p, maskOf (fun l => if inMask m l then (f l).2 else inMask (preg g p) l) =
      maskOf (fun l => if inMask m l then (val l).2 else inMask (preg g p) l) := fun p =>
    congrArg maskOf (funext fun l => ite_congr rfl (fun hl => congrArg Prod.snd (h l hl)) fun _ => rfl)
  simp only [writePeers, writeLanes, row, bits]

/-- Flags raised before the write and SCNT advanced after it show in FRND alone. -/
theorem LaneWrite.withFlags {flags : Nat} (h : LaneWrite { k with g := raiseFlags k.g flags } g' d none val frnd) (n : Nat) :
    LaneWrite k (addScnt g' n) d none val { frnd with scnt := frnd.scnt + BitVec.ofNat 16 n } := by
  obtain ⟨⟨v, sr, pr, rfl⟩, vregs, sregs, preds, holds, valid⟩ := h
  exact ⟨⟨v, sr, pr, rfl⟩, vregs, sregs, preds, holds, valid⟩

end

/-! ### Completion -/

theorem Ticked.countLane (s : State) (core n missing : Nat) : Ticked s (countLane s core n missing) :=
  ((Ticked.countPerf s core 0x74 1).trans (.countPerf _ core 0x75 missing)).trans (.countPerf _ core 0x12 (ceilDiv n 16))

section
variable {s : State} {i : Instr} {c : Ctx} {e : Bool} {pred : Nat} {neg : Bool} {own : Option (Nat × Nat)} {srcs : List Opnd}
  {reads : List AReg} {dst d : DestReg} {charge : Core → Nat → Nat} {cycles : Nat → Nat} {body : Ctx → State → Res}
  {valid : Option (BitVec 9)} {val : Nat → Nat × Bool} {frnd : Frnd}

/-- Registers that a group keeps through a lane operation's effect. -/
theorem LaneWrite.kept {s1 : State} {g1 g2 : Group} (w : LaneWrite (c.withGroup g1) g2 d valid val frnd) (b : Begun s c srcs s1 g1) :
    Kept c.g g2 d.rows d.scalars (validRegs valid) := by
  obtain ⟨⟨v, sr, pr, rfl⟩, vregs, sregs, preds, -, -⟩ := w
  obtain ⟨qu, la, x, m, rfl⟩ := b.shape
  exact ⟨vregs, sregs, preds, ⟨rfl, fun _ => ⟨rfl, rfl⟩⟩, rfl, ⟨rfl, rfl⟩, ⟨rfl, rfl, rfl, rfl⟩, rfl, rfl, rfl⟩

/-- What a lane operation's effect holds against the group with its entries popped it holds against the group before. -/
theorem Begun.holds {s1 : State} {g1 g2 : Group} {f : Nat → Nat} (b : Begun s c srcs s1 g1) (h : Holds (c.withGroup g1) g2 d f) :
    Holds c g2 d f := by
  obtain ⟨qu, la, x, m, rfl⟩ := b.shape
  exact h

/-- What a group holds after a lane operation: its results, none of the rows it flagged but its destination's, its queues without
the entries popped, and FRND. -/
def LaneResult (c : Ctx) (srcs : List Opnd) (d : DestReg) (valid : Option (BitVec 9)) (val : Nat → Nat × Bool) (frnd : Frnd)
    (g' : Group) : Prop :=
  Holds c g' d (fun l => (val l).1) ∧ (∀ p, valid = some p → Holds c g' (.p p.toNat) (fun l => bit (val l).2)) ∧
  (∀ n ∈ srcs.flatMap Opnd.frees, n ∉ d.rows → vreg g' n = 0) ∧ Popped c (srcs.flatMap Opnd.pops) g' ∧ g'.frnd = frnd

/-- What the effect wrote is what the group holds once its instruction has completed. -/
theorem LaneWrite.result {s1 : State} {g1 g2 g' : Group} (w : LaneWrite (c.withGroup g1) g2 d valid val frnd) (b : Begun s c srcs s1 g1)
    (ended : Ended g2 g' (srcs.flatMap Opnd.frees) d.rows) : LaneResult c srcs d valid val frnd g' := by
  obtain ⟨evregs, esregs, epreds, equeues, efrnd⟩ := ended
  obtain ⟨⟨v, sr, pr, rfl⟩, -, -, -, holds, hvalid⟩ := w
  refine ⟨(b.holds holds).congr (fun n hn => ?_) (fun n _ => esregs n) (fun n _ => epreds n),
    fun p hp => (b.holds (hvalid p hp)).congr (fun n hn => absurd hn List.not_mem_nil) (fun n _ => esregs n) (fun n _ => epreds n),
    fun n hn hd => ?_, fun q => ?_, efrnd⟩
  · rw [evregs, if_neg fun h => h.2 hn]
  · rw [evregs, if_pos ⟨hn, hd⟩]
  · exact (equeues q).trans (b.popped q)

/-- A ready lane operation with no trap of its own whose effect writes its destination completes with what was written. -/
theorem laneWrite_done (rows : dst.rows = d.rows) (regs : dst.regs = d.regs)
    (hx : exec i s = issue s { e, pred, neg, own, srcs, reads, dst, charge, cycles } body) (hc : issueCtx s pred neg = some c)
    (hown : own = none) (ready : Ready s c true srcs (reads ++ d.regs) d.rows)
    (hbody : ∀ s1 g1, Begun s c srcs s1 g1 → ∃ s2 g2, body (c.withGroup g1) s1 = .ok (setGroup s2 c.key g2) ∧ Ticked s1 s2 ∧
      LaneWrite (c.withGroup g1) g2 d valid val frnd) :
    Completes i s (fun t => Done s t c e (d.rows ++ srcs.flatMap Opnd.frees) d.scalars (validRegs valid)
      (LaneResult c srcs d valid val frnd)) := by
  rw [← rows, ← regs] at ready
  have done := body_done (rows := d.rows) (scalars := d.scalars) (preds := validRegs valid) (Q := LaneResult c srcs d valid val frnd)
    hx hc rfl (fun h => nomatch h) rfl hown (by rwa [List.append_nil]) (.inl rfl) (fun _ => .inl) ?effect
  · rwa [List.append_nil] at done
  case effect =>
    intro s1 g1 b
    obtain ⟨s2, g2, ok, ticked, w⟩ := hbody s1 g1 b
    have run : g2.run = some c.r ∧ g2.lanes = c.g.lanes := by
      obtain ⟨v, sr, pr, rfl⟩ := w.shape
      obtain ⟨qu, la, x, m, rfl⟩ := b.shape
      exact ⟨(issueCtx_group hc).2.1, rfl⟩
    rw [List.append_nil, List.append_nil, rows]
    exact ⟨s2, g2, ok, ticked.onlyGroup _, run.1, run.2, w.kept b, fun g' => w.result b⟩

end

end Sys2Proof.Machine
end

section
/-! PROOFS. Lanes that read other lanes, predicate bits, bytes of a table and lane numbers (15 R434-R437, R439, R440). -/

namespace Sys2Proof

/-! ### The second source of `shfl`, `bcast` and `carry`, and the valid predicate beside it (15 R434) -/

def LaneB.src : LaneB → Src
  | .reg x _ => x
  | .imm i => .imm i
def LaneB.valid : LaneB → Option (BitVec 9)
  | .reg _ p => some p
  | .imm _ => none
def LaneS.src : LaneS → Src
  | .s n _ => .s n
  | .imm i => .imm i
def LaneS.valid : LaneS → Option (BitVec 9)
  | .s _ p => some p
  | .imm _ => none

theorem LaneB.valid_lt {b : LaneB} (h : ∀ x p, b = .reg x p → p.toNat < 16) (p : BitVec 9) (hp : b.valid = some p) : p.toNat < 16 := by
  cases b with
  | reg x q => exact h x p (by rw [Option.some.inj hp])
  | imm i => cases hp

theorem LaneS.valid_lt {b : LaneS} (h : ∀ n p, b = .s n p → p.toNat < 16) (p : BitVec 9) (hp : b.valid = some p) : p.toNat < 16 := by
  cases b with
  | s n q => exact h n p (by rw [Option.some.inj hp])
  | imm i => cases hp

end Sys2Proof

namespace Sys2Proof.Machine

section
variable {s : State} {i : Instr} {ct : Ctl} {c : Ctx} {own : Option (Nat × Nat)} {srcs : List Opnd} {reads : List AReg}
  {dst d : DestReg} {cycles : Nat → Nat} {valid : Option (BitVec 9)} {val : Nat → Nat × Bool}

/-- A lane operation that raises no exception and counts its beats completes with what its effect writes. -/
theorem peerForm_of_laneWrite {missed : Ctx → Nat} {write : Ctx → Group} (rows : dst.rows = d.rows) (regs : dst.regs = d.regs)
    (hx : exec i s = issue s (laneSpec ct own srcs reads dst cycles) (fun k s =>
      .ok (setGroup (countLane s k.core (laneCount k.mask) (missed k)) k.key (write k))))
    (hc : issueCtx s ct.pred.toNat ct.neg = some c) (hown : own = none)
    (hwrite : ∀ s1 g1, Begun s c srcs s1 g1 → LaneWrite (c.withGroup g1) (write (c.withGroup g1)) d valid val g1.frnd) :
    PeerForm i s c ct.e srcs reads d valid val := by
  intro ready
  refine laneWrite_done rows regs hx hc hown ready fun s1 g1 b => ⟨_, _, rfl, .countLane .., ?_⟩
  have w := hwrite s1 g1 b
  obtain ⟨qu, la, x, m, rfl⟩ := b.shape
  exact w

/-- A lane operation whose effect writes each stream-mask lane of a vector register, and of its valid predicate if it names one. -/
theorem peerForm_of_writePeers {n : Nat} {missed : Ctx → (Nat → Nat × Bool) → Nat} {f : Ctx → Nat → Nat × Bool}
    (hx : exec i s = issue s (laneSpec ct own srcs reads (.v n false) cycles) (fun k s =>
      .ok (setGroup (countLane s k.core (laneCount k.mask) (missed k (f k))) k.key (writePeers k.g k.mask n (valid.map (·.toNat)) (f k)))))
    (hc : issueCtx s ct.pred.toNat ct.neg = some c) (hown : own = none)
    (hf : ∀ s1 g1, Begun s c srcs s1 g1 → ∀ l, f (c.withGroup g1) l = val l) :
    PeerForm i s c ct.e srcs reads (.v n false) valid val :=
  peerForm_of_laneWrite rfl rfl hx hc hown fun s1 g1 b => by
    rw [funext (hf s1 g1 b)]
    exact laneWrite_writePeers n valid

end

/-- Valid predicates that are predicates raise no trap. -/
theorem own_eq_none_of_pdOk {valid : Option (BitVec 9)} (h : ∀ p, valid = some p → p.toNat < 16) :
    (if valid.all pdOk then none else some (1, 0x43)) = (none : Option (Nat × Nat)) := by
  refine if_pos ?_
  cases valid with
  | none => rfl
  | some p => exact decide_eq_true (h p rfl)

theorem PField.ok_of {pa : PField} (hpa : pa.code.toNat < 16) (hm : pa.mark = false) : PField.ok pa = true := by
  rw [PField.ok, hm, decide_eq_true hpa]
  rfl

theorem PField.val_of_lt {pa : PField} (hpa : pa.code.toNat < 16) (g : Group) (l : Nat) :
    PField.val g pa l = inMask (preg g pa.code.toNat) l := by
  rw [PField.val, Nat.mod_eq_of_lt hpa]

/-! ### Lanes that read other lanes (R435, R439) -/

theorem pops_laneS_src (b : LaneS) : (⟨b.src, false⟩ : Opnd).pops = [] := by cases b <;> rfl

theorem Begun.width_eq {s s1 : State} {c : Ctx} {srcs : List Opnd} {g1 : Group} (b : Begun s c srcs s1 g1) : g1.width = c.g.width := by
  obtain ⟨qu, la, x, m, rfl⟩ := b.shape
  rfl

/-- A second source that is no queue reads the same with any latch. -/
theorem Begun.v2_vals_of_pops_nil {s s1 : State} {c : Ctx} {o o' : Opnd} {g1 : Group} (b : Begun s c [o, o'] s1 g1) (h : o'.pops = [])
    (l : Nat) : v2 (c.vals [o, o'] l) = o'.val g1 [] l :=
  (b.v2_vals l).trans (Opnd.val_of_pops_nil h ..)

theorem shflLane_eq (var : ShflVar) (w l n : Nat) : shflLane var w l n = (match var with
    | .lane => ((n % 2 ^ 32 : Nat) : Int)
    | .off => (l : Int) + (BitVec.ofNat 7 n).toInt
    | .flip => ((l ^^^ (n % 64) : Nat) : Int)
    | .rot => (((l + n % 64) % w : Nat) : Int)) := by
  cases var with
  | off => rw [toInt_ofNat_eq_signedOf]; rfl
  | _ => rfl

/-- What `bcast` reads in every lane (R435). -/
def bcastRead (a : Src) (b : LaneS) (k : Ctx) : Nat × Bool :=
  peerLane k.g k.latch ⟨a, false⟩ ((Opnd.val k.g [] ⟨b.src, false⟩ 0 % 2 ^ 32 : Nat) : Int)

theorem Begun.bcastRead_eq {s s1 : State} {c : Ctx} {a : Src} {b : LaneS} {g1 : Group}
    (begun : Begun s c [⟨a, false⟩, ⟨b.src, false⟩] s1 g1) : bcastRead a b (c.withGroup g1) =
      c.peer [⟨a, false⟩, ⟨b.src, false⟩] ((v2 (c.vals [⟨a, false⟩, ⟨b.src, false⟩] 0) % 2 ^ 32 : Nat) : Int) := by
  rw [bcastRead, begun.peerLane_eq, begun.v2_vals_of_pops_nil (pops_laneS_src b)]

section
variable {s : State} {ct : Ctl} {c : Ctx} (hc : issueCtx s ct.pred.toNat ct.neg = some c)
include hc

theorem shfl_peerForm (var : ShflVar) (d : Fin 384) (a : Src) {b : LaneB} (hp : ∀ x p, b = .reg x p → p.toNat < 16) :
    PeerForm (.shfl ct var d a b) s c ct.e [⟨a, false⟩, ⟨b.src, false⟩] [] (.v d.val false) b.valid (fun l =>
      c.peer [⟨a, false⟩, ⟨b.src, false⟩] (shflLane var c.g.width l (v2 (c.vals [⟨a, false⟩, ⟨b.src, false⟩] l)))) :=
  peerForm_of_writePeers (missed := fun k f => missing k.mask f)
    (f := fun k l => peerLane k.g k.latch ⟨a, false⟩
      (shflLane var k.g.width l (Opnd.val k.g (k.latch.drop (Opnd.pops ⟨a, false⟩).length) ⟨b.src, false⟩ l)))
    (by cases b <;> rfl) hc (own_eq_none_of_pdOk (LaneB.valid_lt hp)) fun s1 g1 begun l => by
      rw [begun.peerLane_eq, begun.v2_vals, begun.width_eq]

theorem carry_peerForm (n : Fin 3) (d : Fin 384) (a : Src) {b : LaneS} (hp : ∀ n p, b = .s n p → p.toNat < 16) :
    PeerForm (.carry ct n d a b) s c ct.e [⟨a, false⟩, ⟨b.src, false⟩] [] (.v d.val false) b.valid (fun l =>
      let p := if l = 0 then (v2 (c.vals [⟨a, false⟩, ⟨b.src, false⟩] 0) % 2 ^ 32, true)
        else c.peer [⟨a, false⟩, ⟨b.src, false⟩] ((l : Int) - 1)
      (v1 (c.vals [⟨a, false⟩, ⟨b.src, false⟩] l) * 2 ^ (8 * (n.val + 1)) % 2 ^ 32 + p.1 / 2 ^ (32 - 8 * (n.val + 1)), p.2)) :=
  peerForm_of_writePeers (missed := fun k f => missing k.mask f)
    (f := fun k l =>
      let p := if l = 0 then (Opnd.val k.g [] ⟨b.src, false⟩ 0 % 2 ^ 32, true) else peerLane k.g k.latch ⟨a, false⟩ ((l : Int) - 1)
      (Opnd.val k.g k.latch ⟨a, false⟩ l * 2 ^ (8 * (n.val + 1)) % 2 ^ 32 + p.1 / 2 ^ (32 - 8 * (n.val + 1)), p.2))
    (by cases b <;> rfl) hc (own_eq_none_of_pdOk (LaneS.valid_lt hp)) fun s1 g1 begun l => by
      simp only [begun.peerLane_eq, begun.v1_vals, begun.v2_vals_of_pops_nil (pops_laneS_src b)]

theorem bcast_peerForm (r : Reg) (a : Src) {b : LaneS} (hp : ∀ n p, b = .s n p → p.toNat < 16) (acts : r.isS = true → c.mask ≠ 0) :
    PeerForm (.bcast ct r a b) s c ct.e [⟨a, false⟩, ⟨b.src, false⟩] [] (.ofReg r false) b.valid (fun _ =>
      c.peer [⟨a, false⟩, ⟨b.src, false⟩] ((v2 (c.vals [⟨a, false⟩, ⟨b.src, false⟩] 0) % 2 ^ 32 : Nat) : Int)) := by
  have own := own_eq_none_of_pdOk (LaneS.valid_lt hp)
  cases r with
  | v n =>
    exact peerForm_of_writePeers (missed := fun k f => if (f 0).2 then 0 else laneCount k.mask) (f := fun k _ => bcastRead a b k)
      (by cases b <;> rfl) hc own fun s1 g1 begun _ => begun.bcastRead_eq
  | s n =>
    refine peerForm_of_laneWrite (dst := .s n.val) (missed := fun k => if (bcastRead a b k).2 then 0 else laneCount k.mask)
      (write := fun k => if k.mask = 0 then k.g else match b.valid with
        | none => setSreg k.g n.val (bcastRead a b k).1
        | some p => setPreg (setSreg k.g n.val (bcastRead a b k).1) p.toNat
          (maskOf (fun l => if inMask k.mask l then (bcastRead a b k).2 else inMask (preg k.g p.toNat) l)))
      rfl rfl (by cases b <;> rfl) hc own fun s1 g1 begun => ?_
    have w := laneWrite_setSreg (k := c.withGroup g1) (fun _ => bcastRead a b (c.withGroup g1)) n.val
    rw [if_neg (acts rfl), ← begun.bcastRead_eq]
    cases b.valid with
    | none => exact w
    | some p => exact w.setValid rfl p

end

/-! ### Predicate bits over the stream mask (R436) -/

theorem voteBit_map (var : VoteVar) (holds : Nat → Bool) (ls : List Nat) : voteBit var (ls.map holds) = (match var with
    | .every => ls.all holds
    | .some => ls.any holds
    | .same => ls.all holds || ls.all (fun l => !holds l)) := by
  cases var with
  | some => exact List.any_map
  | every => exact List.all_map
  | same =>
    rw [voteBit, List.all_map, List.all_map]
    rfl

section
variable {s : State} {ct : Ctl} {c : Ctx} (hc : issueCtx s ct.pred.toNat ct.neg = some c)
include hc

theorem vote_peerForm (var : VoteVar) (d : Fin 384) {pa : PField} (hd : d.val < 16) (hpa : pa.code.toNat < 16) (hm : pa.mark = false) :
    PeerForm (.vote ct var d pa) s c ct.e [] [] .none (some (BitVec.ofNat 9 d.val)) (fun _ =>
      (0, voteBit var ((laneList c.full).map (fun l => inMask (preg c.g pa.code.toNat) l)))) := by
  have number : (BitVec.ofNat 9 d.val).toNat = d.val := (BitVec.toNat_ofNat ..).trans (Nat.mod_eq_of_lt (Nat.lt_trans d.isLt (by decide)))
  refine peerForm_of_laneWrite (dst := .p d.val) (missed := fun _ => 0)
    (write := fun k => setPreg k.g d.val (maskOf (fun l =>
      if inMask k.mask l then voteBit var ((laneList k.full).map (PField.val k.g pa)) else inMask (preg k.g d.val) l)))
    rfl rfl rfl hc (if_pos (by rw [decide_eq_true hd, PField.ok_of hpa hm]; rfl)) fun s1 g1 begun => ?_
  obtain ⟨qu, la, x, m, rfl⟩ := begun.shape
  have w := (laneWrite_none (k := c.withGroup { c.g with queues := qu, latch := la, exempt := x, mctx := m })
    (val := fun _ => (0, voteBit var ((laneList c.full).map (fun l => inMask (preg c.g pa.code.toNat) l))))).setValid rfl
    (BitVec.ofNat 9 d.val)
  rw [number] at w
  rw [funext (PField.val_of_lt hpa _)]
  exact w

theorem ballot_peerForm (wide : Bool) (n : Fin 128) {pa : PField} (hpa : pa.code.toNat < 16) (hm : pa.mark = false) :
    PeerForm (.ballot ct wide n pa) s c ct.e [] [] (.s n.val) none (fun _ =>
      (predBits c.g pa (if wide then liveMask c.g &&& widthMask c.g.width else c.full), true)) := by
  refine peerForm_of_laneWrite (dst := .s n.val) (missed := fun _ => 0)
    (write := fun k => setSreg k.g n.val (predBits k.g pa (if wide then liveMask k.g &&& widthMask k.g.width else k.full)))
    rfl rfl rfl hc (if_pos (PField.ok_of hpa hm)) fun s1 g1 begun => ?_
  obtain ⟨qu, la, x, m, rfl⟩ := begun.shape
  exact laneWrite_setSreg (fun _ => (predBits c.g pa (if wide then liveMask c.g &&& widthMask c.g.width else c.full), true)) n.val

end

/-- Each bit of a gathered predicate. -/
theorem testBit_predBits {pa : PField} (hpa : pa.code.toNat < 16) (g : Group) (m : LaneMask) (l : Nat) :
    (predBits g pa m).testBit l = (inMask (preg g pa.code.toNat) l && inMask m l) := by
  rw [predBits, Nat.mod_eq_of_lt hpa, BitVec.testBit_toNat, BitVec.getLsbD_and, inMask, inMask]

theorem predBits_lt (g : Group) (pa : PField) (m : LaneMask) : predBits g pa m < 2 ^ 64 := BitVec.isLt _

theorem inMask_live_and_width (g : Group) {l : Nat} (hl : l < 64) :
    inMask (liveMask g &&& widthMask g.width) l = ((laneAt g l).live && decide (l < g.width)) := by
  rw [← inMask_maskOf (fun l => (laneAt g l).live) l hl, ← inMask_maskOf (fun l => decide (l < g.width)) l hl]
  exact BitVec.getLsbD_and ..

/-! ### Bytes of a table (R437) -/

/-- Entry k of the table that two scalars hold. -/
theorem table_entry {lo hi : Nat} (hlo : lo < 2 ^ 64) {k : Nat} (hk : k < 16) :
    (lo + 2 ^ 64 * hi) / 2 ^ (8 * k) % 256 = (if k < 8 then lo else hi) / 2 ^ (8 * (k % 8)) % 256 := by
  split
  next low =>
    have above : 2 ^ 64 * hi = 2 ^ (8 * k) * (256 * (2 ^ (56 - 8 * k) * hi)) := by
      rw [show (256 : Nat) = 2 ^ 8 by decide, ← Nat.mul_assoc, ← Nat.mul_assoc, ← Nat.pow_add, ← Nat.pow_add]
      congr 2
      omega
    rw [above, Nat.add_mul_div_left _ _ (Nat.two_pow_pos _), Nat.add_mul_mod_self_left, Nat.mod_eq_of_lt low]
  next high =>
    rw [show 8 * k = 64 + 8 * (k % 8) by omega, Nat.pow_add, ← Nat.div_div_eq_div_mul, Nat.add_mul_div_left _ _ (Nat.two_pow_pos _),
      Nat.div_eq_of_lt hlo, Nat.zero_add]

/-- Entry k of the table that a scalar pair holds. -/
def tableEntry (g : Group) (n k : Nat) : Nat := sreg g (n + k / 8) / 2 ^ (8 * (k % 8)) % 256

theorem sreg_lt (g : Group) (n : Nat) : sreg g n < 2 ^ 64 := Nat.mod_lt _ (Nat.two_pow_pos 64)

theorem tableEntry_eq (g : Group) (n : Nat) {k : Nat} (hk : k < 16) :
    (sreg g n + 2 ^ 64 * sreg g (n + 1)) / 2 ^ (8 * k) % 256 = tableEntry g n k := by
  rw [table_entry (sreg_lt g n) hk, tableEntry]
  split
  next low => rw [Nat.div_eq_of_lt low, Nat.add_zero]
  next high => rw [show k / 8 = 1 by omega]

/-- The entry that a byte looks up (R437). -/
def tableLook (var : PermVar) (g : Group) (n x : Nat) : Nat :=
  match var with
  | .lo => tableEntry g n (x % 16)
  | .hi => tableEntry g n (x / 16)
  | .idx => if x < 16 then tableEntry g n x else 0

theorem permByte_eq (var : PermVar) (g : Group) (n : Nat) {x : Nat} (hx : x < 256) :
    permByte var (sreg g n + 2 ^ 64 * sreg g (n + 1)) x = tableLook var g n x := by
  cases var with
  | lo => exact tableEntry_eq g n (Nat.mod_lt _ (by decide))
  | hi => exact tableEntry_eq g n (by omega)
  | idx =>
    by_cases low : x < 16
    · exact (if_neg (Nat.not_le.mpr low)).trans ((tableEntry_eq g n low).trans (if_pos low).symm)
    · exact (if_pos (Nat.not_lt.mp low)).trans (if_neg low).symm

theorem tableLook_lt (var : PermVar) (g : Group) (n x : Nat) : tableLook var g n x < 2 ^ 8 := by
  have entry : ∀ k, tableEntry g n k < 2 ^ 8 := fun _ => Nat.mod_lt _ (by decide)
  cases var with
  | lo => exact entry _
  | hi => exact entry _
  | idx =>
    show (if x < 16 then tableEntry g n x else 0) < 2 ^ 8
    split
    · exact entry x
    · decide

/-- Four bytes side by side. -/
theorem packNat_four (f : Nat → Nat) :
    packNat 8 f 4 = f 0 % 2 ^ 8 + f 1 % 2 ^ 8 * 2 ^ 8 + f 2 % 2 ^ 8 * 2 ^ 16 + f 3 % 2 ^ 8 * 2 ^ 24 := by
  simp only [packNat, Nat.mul_zero, Nat.mul_one, Nat.pow_zero, Nat.zero_add, Nat.reduceMul]

/-- `permb` looks up each of a lane's four bytes. -/
theorem packNat_permByte (var : PermVar) (g : Group) (n x : Nat) :
    packNat 8 (fun i => permByte var (sreg g n + 2 ^ 64 * sreg g (n + 1)) (x / 2 ^ (8 * i) % 256)) 4 =
      tableLook var g n (x % 256) + tableLook var g n (x / 2 ^ 8 % 256) * 2 ^ 8 + tableLook var g n (x / 2 ^ 16 % 256) * 2 ^ 16 +
        tableLook var g n (x / 2 ^ 24 % 256) * 2 ^ 24 := by
  have byte : ∀ i, permByte var (sreg g n + 2 ^ 64 * sreg g (n + 1)) (x / 2 ^ (8 * i) % 256) % 2 ^ 8 =
      tableLook var g n (x / 2 ^ (8 * i) % 256) := fun i => by
    rw [permByte_eq var g n (Nat.mod_lt _ (by decide)), Nat.mod_eq_of_lt (tableLook_lt ..)]
  rw [packNat_four, byte 0, byte 1, byte 2, byte 3]
  simp only [Nat.mul_zero, Nat.pow_zero, Nat.div_one, Nat.reduceMul]

/-- `lid` to a scalar gives the width (R440). -/
theorem lid_wide {ct : Ctl} {w : Bool} {r : Reg} (hw : (Instr.lid ct w r).wf = true) : w = true ∨ r.isS = false := by
  simpa [Instr.wf] using hw

section
variable {s : State} {ct : Ctl} {c : Ctx} (hc : issueCtx s ct.pred.toNat ct.neg = some c)
include hc

theorem permb_peerForm (var : PermVar) (d : Fin 384) (a : Src) {n : Fin 128} (even : n.val % 2 = 0) :
    PeerForm (.permb ct var d a n) s c ct.e [⟨a, false⟩] [.s n.val, .s (n.val + 1)] (.v d.val false) none (fun l =>
      (packNat 8 (fun i => permByte var (sreg c.g n.val + 2 ^ 64 * sreg c.g (n.val + 1))
        (v1 (c.vals [⟨a, false⟩] l) / 2 ^ (8 * i) % 256)) 4, true)) :=
  peerForm_of_writePeers (valid := none) (missed := fun _ _ => 0)
    (f := fun k l => (packNat 8 (fun i => permByte var (sreg k.g n.val + 2 ^ 64 * sreg k.g (n.val + 1))
      (Opnd.val k.g k.latch ⟨a, false⟩ l / 2 ^ (8 * i) % 256)) 4, true))
    rfl hc (if_neg (by omega)) fun s1 g1 begun l => by
      rw [begun.v1_vals]
      obtain ⟨qu, la, x, m, rfl⟩ := begun.shape
      rfl

/-! ### Lane numbers and the width (R440) -/

theorem lid_peerForm (w : Bool) (r : Reg) (wide : w = true ∨ r.isS = false) (acts : r.isS = true → c.mask ≠ 0) :
    PeerForm (.lid ct w r) s c ct.e [] [] (.ofReg r false) none (fun l => (if w then c.g.width else l, true)) := by
  cases r with
  | v n =>
    exact peerForm_of_writePeers (valid := none) (missed := fun _ _ => 0) (f := fun k l => (if w then k.g.width else l, true))
      rfl hc rfl fun s1 g1 begun l => by rw [begun.width_eq]
  | s n =>
    refine peerForm_of_laneWrite (dst := .s n.val) (missed := fun _ => 0)
      (write := fun k => if k.mask = 0 then k.g else setSreg k.g n.val k.g.width) rfl rfl rfl hc rfl fun s1 g1 begun => ?_
    obtain rfl : w = true := wide.resolve_right (Bool.noConfusion ·)
    rw [if_neg (acts rfl), begun.width_eq]
    exact laneWrite_setSreg (fun _ => (c.g.width, true)) n.val

end

end Sys2Proof.Machine
end

section
/-! PROOFS. Reductions in increasing lane number (15 R438). -/

namespace Sys2Proof.Machine

/-- A list is empty or ends in a last element. -/
theorem list_induction_concat {α : Type} {P : List α → Prop} (nil : P []) (concat : ∀ l a, P l → P (l ++ [a]))
    (l : List α) : P l := by
  rw [← l.reverse_reverse]
  induction l.reverse with
  | nil => exact nil
  | cons a r ih =>
    rw [List.reverse_cons]
    exact concat _ a ih

section
variable (op : RedOp) (t : RedTy) (v : FpEnv) (x : Nat → Nat)

/-- The value that an operation has reached over the lanes of a list, and the exceptions met. -/
def redTotal (ls : List Nat) : Nat × Nat :=
  ls.foldl (fun st l =>
    let r := redStep op t v l st.1 (x l)
    (r.1, st.2 ||| r.2)) (redIdentity op t, 0)

theorem redTotal_concat (ls : List Nat) (l : Nat) : redTotal op t v x (ls ++ [l]) =
    (let total := redTotal op t v x ls
     let r := redStep op t v l total.1 (x l)
     (r.1, total.2 ||| r.2)) := List.foldl_append

theorem redRun_concat (ls : List Nat) (l : Nat) : redRun op t v x (ls ++ [l]) =
    (let run := redRun op t v x ls
     let r := redStep op t v l run.2.1 (x l)
     (run.1 ++ [(l, r.1)], r.1, run.2.2 ||| r.2)) := List.foldl_append

/-- Over rising lanes the run reaches in each lane the value over the lanes up to it. -/
theorem redRun_eq {ls : List Nat} (rising : ls.Pairwise (· < ·)) :
    redRun op t v x ls = (ls.map (fun l => (l, (redTotal op t v x (ls.filter (· ≤ l))).1)), redTotal op t v x ls) := by
  induction ls using list_induction_concat with
  | nil => rfl
  | concat ls a ih =>
    obtain ⟨risingInit, -, below⟩ := List.pairwise_append.mp rising
    have below : ∀ l ∈ ls, l < a := fun l hl => below l hl a List.mem_cons_self
    have upToLast : (ls ++ [a]).filter (· ≤ a) = ls ++ [a] := List.filter_eq_self.mpr fun l hl => by
      rcases List.mem_append.mp hl with hl | hl
      · exact decide_eq_true (Nat.le_of_lt (below l hl))
      · exact decide_eq_true (Nat.le_of_eq (List.mem_singleton.mp hl))
    have upTo : ∀ l ∈ ls, (ls ++ [a]).filter (· ≤ l) = ls.filter (· ≤ l) := fun l hl => by
      have above : [a].filter (· ≤ l) = [] := List.filter_eq_nil_iff.mpr fun b hb up =>
        Nat.not_le.mpr (below l hl) (List.mem_singleton.mp hb ▸ of_decide_eq_true up)
      rw [List.filter_append, above, List.append_nil]
    have lanes : ls.map (fun l => (l, (redTotal op t v x ((ls ++ [a]).filter (· ≤ l))).1)) =
        ls.map (fun l => (l, (redTotal op t v x (ls.filter (· ≤ l))).1)) := List.map_congr_left fun l hl => by rw [upTo l hl]
    rw [redRun_concat, ih risingInit, List.map_append, List.map_singleton, upToLast, lanes, redTotal_concat]

end

theorem laneList_rising (m : LaneMask) : (laneList m).Pairwise (· < ·) := List.pairwise_lt_range.filter _

/-- A reduction rounds stochastically where it adds binary32 numbers under that rounding (13 R381). -/
def redCounts (op : RedOp) (t : RedTy) (mode : Nat) : BitVec 16 := if op = .add ∧ t = .f32 ∧ mode = 5 then 1 else 0

theorem addScnt_redCounts (op : RedOp) (t : RedTy) (mode : Nat) (g : Group) :
    (if op == .add && t == .f32 && mode == 5 then addScnt g 1 else g) = addScnt g (redCounts op t mode).toNat := by
  unfold redCounts
  by_cases h : op = .add ∧ t = .f32 ∧ mode = 5
  · obtain ⟨rfl, rfl, h⟩ := h
    simp [h]
  · have counted : ¬ (op == .add && t == .f32 && mode == 5) = true := by
      simpa [and_assoc] using h
    rw [if_neg counted, if_neg h]
    simp [addScnt]

/-- A reduction rounds as its group does, without saturation or flushing. -/
def Ctx.redEnv (c : Ctx) : FpEnv := { c.env with sat := 0, flush := false }

/-- What a reduction of an operand reaches over the lanes of a list. -/
def Ctx.reduced (c : Ctx) (op : RedOp) (t : RedTy) (o : Opnd) (ls : List Nat) : Nat × Nat :=
  redTotal op t c.redEnv (fun l => v1 (c.vals [o] l)) ls

/-- Each stream-mask lane with the value reached in it. -/
def Ctx.scanned (c : Ctx) (op : RedOp) (t : RedTy) (o : Opnd) : List (Nat × Nat) :=
  (laneList c.full).map (fun l => (l, (c.reduced op t o ((laneList c.full).filter (· ≤ l))).1))

/-- FRND after a reduction: its exceptions are flagged and a stochastic one is counted (13 R381, R385). -/
def Ctx.redFrnd (c : Ctx) (op : RedOp) (t : RedTy) (flags : Nat) : Frnd :=
  { c.g.frnd with flg := c.g.frnd.flg ||| BitVec.ofNat 5 flags, scnt := c.g.frnd.scnt + redCounts op t c.redEnv.mode }

section
variable {s : State} {i : Instr} {ct : Ctl} {c : Ctx} {op : RedOp} {t : RedTy} {o : Opnd} {dst : DestReg}
  {fin : Group → LaneMask → List (Nat × Nat) → Nat → Group} {val : Nat → Nat}

theorem redBody_of_quiet {k : Ctx} {run : List (Nat × Nat)} {total : Nat × Nat}
    (hr : redRun op t k.redEnv (fun l => o.val k.g k.latch l) (laneList k.full) = (run, total))
    (quiet : total.2 &&& k.g.frnd.ten.toNat = 0) (s : State) :
    redBody op t o fin k s = .ok (setGroup (countLane s k.core (laneCount k.mask) 0) k.key
      (addScnt (fin (raiseFlags k.g total.2) k.mask run total.1) (redCounts op t k.redEnv.mode).toNat)) := by
  unfold Ctx.redEnv Ctx.env at *
  have untrapped : ¬ (total.2 &&& (raiseFlags k.g total.2).frnd.ten.toNat != 0) = true :=
    fun trapped => bne_iff_ne.mp trapped quiet
  simp only [redBody, hr, if_neg untrapped, addScnt_redCounts]

theorem Begun.redRun_eq {s1 : State} {g1 : Group} (b : Begun s c [o] s1 g1) :
    redRun op t (c.withGroup g1).redEnv (fun l => o.val g1 g1.latch l) (laneList c.full) =
      (c.scanned op t o, c.reduced op t o (laneList c.full)) := by
  rw [← funext b.v1_vals]
  obtain ⟨qu, la, x, m, rfl⟩ := b.shape
  exact Machine.redRun_eq op t c.redEnv _ (laneList_rising c.full)

/-- A reduction none of whose exceptions is enabled completes with what it delivers of the values that its lanes reach. -/
theorem reduction_done (hc : issueCtx s ct.pred.toNat ct.neg = some c)
    (hx : exec i s = issue s (redSpec ct op t o dst) (redBody op t o fin)) (ready : Ready s c true [o] dst.regs dst.rows)
    (quiet : (c.reduced op t o (laneList c.full)).2 &&& c.g.frnd.ten.toNat = 0)
    (hfin : ∀ k : Ctx, k.mask = c.mask → LaneWrite k
      (fin k.g k.mask (c.scanned op t o) (c.reduced op t o (laneList c.full)).1) dst none (fun l => (val l, true)) k.g.frnd) :
    Completes i s (fun t' => Done s t' c ct.e (dst.rows ++ [o].flatMap Opnd.frees) dst.scalars [] (fun g' =>
      Holds c g' dst val ∧ g'.frnd = c.redFrnd op t (c.reduced op t o (laneList c.full)).2)) := by
  have done := laneWrite_done (valid := none) (val := fun l => (val l, true))
    (frnd := c.redFrnd op t (c.reduced op t o (laneList c.full)).2) rfl rfl hx hc rfl ready fun s1 g1 b => ?effect
  · exact done.mono fun t' h => h.mono fun g' ⟨holds, _, _, _, frnd⟩ => ⟨holds, frnd⟩
  case effect =>
    have run := b.redRun_eq (op := op) (t := t)
    have w := (hfin { c.withGroup g1 with g := raiseFlags g1 (c.reduced op t o (laneList c.full)).2 } rfl).withFlags
      (k := c.withGroup g1) (redCounts op t c.redEnv.mode).toNat
    rw [BitVec.ofNat_toNat, BitVec.setWidth_eq] at w
    obtain ⟨qu, la, x, m, rfl⟩ := b.shape
    exact ⟨_, _, redBody_of_quiet run quiet s1, .countLane .., w⟩

end

theorem Ctx.mgetD_scanned (c : Ctx) (op : RedOp) (t : RedTy) (o : Opnd) {l : Nat} (h : inMask c.full l = true) :
    mgetD (c.scanned op t o) l 0 = (c.reduced op t o ((laneList c.full).filter (· ≤ l))).1 := by
  rw [mgetD, Ctx.scanned, mget_map_self _ _ _ ((mem_laneList _ _).mpr h), Option.getD_some]

section
variable {s : State} {ct : Ctl} {c : Ctx} {op : RedOp} {t : RedTy} {a : Src} (hc : issueCtx s ct.pred.toNat ct.neg = some c)
  (quiet : (c.reduced op t ⟨a, false⟩ (laneList c.full)).2 &&& c.g.frnd.ten.toNat = 0)
include hc quiet

theorem scan_done {d : Fin 384} (ready : Ready s c true [⟨a, false⟩] [.v d.val] [d.val]) :
    Completes (.scan ct op t d a) s (fun t' => Done s t' c ct.e ([d.val] ++ [(⟨a, false⟩ : Opnd)].flatMap Opnd.frees) [] [] (fun g' =>
      Holds c g' (.v d.val false) (fun l => (c.reduced op t ⟨a, false⟩ ((laneList c.full).filter (· ≤ l))).1) ∧
      g'.frnd = c.redFrnd op t (c.reduced op t ⟨a, false⟩ (laneList c.full)).2)) :=
  reduction_done (dst := .v d.val false) hc rfl ready quiet fun k hk => by
    show LaneWrite k (writePeers k.g k.mask d.val none (fun l => (mgetD (c.scanned op t ⟨a, false⟩) l 0, true))) _ _ _ _
    rw [writePeers_congr k.g d.val none fun l hl => by
      rw [c.mgetD_scanned op t _ (inMask_full_of_mask hc (hk ▸ hl))]]
    exact laneWrite_writePeers d.val none

theorem fold_done {r : Reg} (ready : Ready s c true [⟨a, false⟩] (DestReg.ofReg r false).regs (DestReg.ofReg r false).rows) :
    Completes (.fold ct op t r a) s (fun t' =>
      Done s t' c ct.e ((DestReg.ofReg r false).rows ++ [(⟨a, false⟩ : Opnd)].flatMap Opnd.frees) (DestReg.ofReg r false).scalars []
        (fun g' =>
        Holds c g' (.ofReg r false) (fun _ => (c.reduced op t ⟨a, false⟩ (laneList c.full)).1) ∧
        g'.frnd = c.redFrnd op t (c.reduced op t ⟨a, false⟩ (laneList c.full)).2)) :=
  reduction_done hc rfl ready quiet fun k _ => by
    cases r with
    | v n => exact laneWrite_writePeers (val := fun _ => ((c.reduced op t ⟨a, false⟩ (laneList c.full)).1, true)) n.val none
    | s n => exact laneWrite_setSreg (fun _ => ((c.reduced op t ⟨a, false⟩ (laneList c.full)).1, true)) n.val

end

end Sys2Proof.Machine
end

section
/-! PROOFS. The lane operations (15 R433-R440). -/

namespace Sys2Proof.Machine

/-- Settles O25: each operation writes its destination, and its valid predicate, from the sources as they were before the write. -/
theorem laneOperations : Obligations.LaneOperations := by
  intro s ct d a c hc
  refine ⟨fun var b _ hp => ?shfl, fun r b _ hp acts => ?bcast, fun n b _ hp => ?carry, fun var pa hd hpa hm => ?vote,
    fun wide n pa hpa hm ready => ?ballot, fun var n _ even => ?permb,
    fun op t r quiet => ⟨fun _ => scan_done hc quiet, fun _ => fold_done hc quiet⟩, fun w r hw => lid_peerForm hc w r (lid_wide hw)⟩
  case shfl =>
    have form := shfl_peerForm hc var d a hp
    simp only [shflLane_eq] at form
    exact form
  case bcast => exact bcast_peerForm hc r a hp acts
  case carry => exact carry_peerForm hc n d a hp
  case vote =>
    have form := vote_peerForm hc var d hd hpa hm
    simp only [voteBit_map] at form
    exact form
  case ballot =>
    refine (ballot_peerForm hc wide n hpa hm ready).mono fun t done =>
      done.mono fun g' ⟨holds, _⟩ => ⟨sreg_lt g' n.val, fun l hl => ?_⟩
    rw [holds, Nat.mod_eq_of_lt (predBits_lt ..), testBit_predBits hpa]
    cases wide with
    | false => rfl
    | true => exact congrArg _ (inMask_live_and_width c.g hl)
  case permb =>
    have form := permb_peerForm hc var d a even
    simp only [packNat_permByte] at form
    exact form

end Sys2Proof.Machine
end
